-- ==== Sys2Proof/Word.lean ====
section
/-! DEFINITION. The byte, the port and the shapes made of them: what every other file speaks of. -/

namespace Sys2Proof

/-- One byte: what a host bus cycle, an SPI frame and the Page Memory carry. -/
abbrev Byte := BitVec 8

/-- The four host ports A, B, C and D, with port numbers 0 to 3 (00, Conventions). -/
inductive Port where
  | a | b | c | d
  deriving DecidableEq, Repr

/-- One value for each of the four ports. -/
structure PerPort (α : Type) where
  a : α
  b : α
  c : α
  d : α
  deriving DecidableEq, Repr

/-- A set of ports: which of the four are in it. No duplicates and no order, by its form. -/
abbrev PortSet := PerPort Bool

end Sys2Proof
end

