-- ==== Sys2Proof/Syntax.lean ====
section
/-! DEFINITION. The commands: one constructor for each row of spec/opcode_table.json, in the
table's order, with the row's operands. -/

namespace Sys2Proof

/-- The two window slots that have locations of their own (R44). -/
inductive Window where
  | w0 | w1
  deriving DecidableEq, Repr

/-- A host bus cycle's direction, with the byte written for a write. `readLost` is a read whose
strobe is deasserted before RDY rises: it is served whole, and only its data is lost (R205). -/
inductive Access where
  | read
  | readLost
  | write (v : Byte)
  deriving DecidableEq, Repr

/-- One command: a host bus cycle, a change of a pin, a handling of the Table Controller, a step
of the Data Mover or of the Deadline Unit, an SPI frame, or the service of a held maintenance
request. Each is one whole step of the part. -/
inductive Instr where
  -- host bus cycles
  /-- A host access at offset `k`, 0x00 to 0x3F (R46). -/
  | w0DirectViewAccess (p : Port) (k : Fin 64) (acc : Access)
  /-- A host access at the window's cursor data port, offset 0x40 or 0x44 (R47). -/
  | cursorDataPortAccess (p : Port) (w : Window) (acc : Access)
  /-- A host write to the window's cursor, offset 0x41 or 0x45 (R51). -/
  | cursorWrite (p : Port) (w : Window) (v : Byte)
  /-- A host write to the window's page index, offset 0x42 or 0x46 (R52). -/
  | pageIndexWrite (p : Port) (w : Window) (v : Byte)
  /-- A host write of UNMAP W0 or UNMAP W1 to offset 0x48 (R54). -/
  | unmap (p : Port) (w : Window)
  /-- A host write of SWAP to offset 0x48 (R55). -/
  | swap (p : Port)
  /-- A host write of CLEAR OVR to offset 0x48 (R56). -/
  | clearOvr (p : Port)
  /-- A host write to a location with no behaviour of its own (R67, R53, R56, R150, R175). -/
  | hostLocationWrite (p : Port) (off : Fin 128) (v : Byte)
  /-- A host write to offset 0x60 (R68). -/
  | postCommand (p : Port) (code : Byte)
  /-- A host write to offset 0x61 (R71). -/
  | acknowledge (p : Port) (v : Byte)
  /-- A host write to offset 0x63 (R72, R73). -/
  | cancel (p : Port) (v : Byte)
  /-- A host write to offset 0x78 (R151). -/
  | pop (p : Port) (v : Byte)
  /-- A host write to offset 0x7B (R155). -/
  | attentionEnablesWrite (p : Port) (v : Byte)
  /-- A host write to offset 0x7C (R175). -/
  | clearFaultRecord (p : Port) (v : Byte)
  /-- A host cycle with both strobes asserted (R205). -/
  | bothStrobesCycle (p : Port)
  -- pins
  /-- The port's PRST input becomes asserted (R173). -/
  | prstAssertion (p : Port)
  /-- RST is asserted (R26). -/
  | deviceReset
  /-- RST is released (R206). -/
  | rstRelease
  -- handlings of the command posted at a port
  | badCommand (p : Port)
  | attach (p : Port)
  | detach (p : Port)
  | clearFault (p : Port)
  | clearLost (p : Port)
  | alloc (p : Port)
  | extend (p : Port)
  | trim (p : Port)
  | free (p : Port)
  | info (p : Port)
  | map (p : Port)
  | share (p : Port)
  | unshare (p : Port)
  | leave (p : Port)
  | publish (p : Port)
  | unpublish (p : Port)
  | lookup (p : Port)
  | nextName (p : Port)
  | subscribe (p : Port)
  | lend (p : Port)
  | give (p : Port)
  | accept (p : Port)
  | decline (p : Port)
  | withdraw (p : Port)
  | recall (p : Port)
  | returnBuffer (p : Port)
  | copy (p : Port)
  -- ticks, teardown, job ends
  /-- The prescaler reaches its period and produces a tick (R133). -/
  | deadlineTick
  /-- The Table Controller handles the pending ticks (R135). -/
  | tickHandling
  /-- Within a tick handling, the expiry of one offer (R136). -/
  | offerExpiry (id : Fin 16)
  /-- Within a tick handling, the expiry of one recall (R137, R138). -/
  | recallExpiry (buf : Fin 1024)
  /-- One step of the active teardown walk (R181). -/
  | walkStep
  /-- The Table Controller takes the oldest job-end report (R166). -/
  | jobEndReport
  -- the Data Mover
  | scrubStepStart
  | scrubStepEnd
  | copyPageStart
  | copyPageReadEnd
  | copyPageWriteEnd
  -- SPI frames
  /-- A frame whose first byte is REQUEST, with the whole bytes shifted in after it (R190). -/
  | requestFrame (bytes : List Byte)
  /-- A frame whose first byte is FETCH, of `n` whole bytes, the first included (R191). -/
  | fetchFrame (n : Nat)
  /-- A frame of `n` whole bytes whose first is neither (R190). -/
  | unknownFrame (first : Byte) (n : Nat)
  -- services of the held maintenance request
  | hold
  | release
  | readBuffer
  | readPageEntry
  | readOffer
  | readDir
  | readPort
  | readPool
  | readMem
  | writeMem
  | forceFree
  | forceDetach
  | clearAll
  /-- The port's PRST input becomes deasserted (R173). -/
  | prstDeassertion (p : Port)
  deriving DecidableEq, Repr

end Sys2Proof
end

