-- ==== Sys2Proof/Decode.lean ====
section
/-! DEFINITION. Decoding of words. The GL-4 is a block that takes commands: no row of
spec/opcode_table.json gives any bits, so no word spells a command. -/

namespace Sys2Proof

/-- The command that an `nbits`-bit word spells by the table's bits: none, since the table gives no
row any bits (spec/opcode_table.json, "fields": [] in every row). -/
def decodeTableWord (_nbits _w : Nat) : Option Instr := none

end Sys2Proof
end

