-- ==== Sys2Proof/Machine/State.lean ====
section
/-! DEFINITION. The state of the GL-4 as plain data: every record, list, slot, queue, counter and
pin the manual gives it, the queue of waiting commands, and the state right after device reset. -/

namespace Sys2Proof.Machine

/-! ### Numbers and names -/

/-- A buffer number, 0 to 1023 (R1). -/
abbrev BufNo := Fin 1024
/-- A page number, 0 to 8191 (R28). -/
abbrev PageNo := Fin 8192
/-- An offer id, 0 to 15 (R120). -/
abbrev OfferId := Fin 16
/-- A generation, 0 to 255, which advances from 255 to 0 (R4). -/
abbrev Gen := BitVec 8

/-- A handle: a buffer number and a generation (00, Conventions; section 1.2). -/
structure Handle where
  buf : BufNo
  gen : Gen
  deriving DecidableEq, Repr

/-! ### The Table Controller's records -/

/-- The state of a live record with the fields that state alone has (R1, R2): the share set is
empty unless HELD. -/
inductive BufState where
  | held (share : PortSet)
  | offered (ref : OfferId)
  | lent (borrower : Port)
  | recalling (borrower : Port) (countdown : Nat)
  deriving DecidableEq, Repr

/-- The kinds of a pending revocation (R1). -/
inductive RevKind where
  | expiry | teardown | forceFree
  deriving DecidableEq, Repr

/-- A pending revocation: its kind and the port whose relation is to end (R25). -/
structure Revocation where
  kind : RevKind
  port : Port
  deriving DecidableEq, Repr

/-- The fields of a live record, one that is not VACANT (R1). -/
structure Live where
  owner : Port
  st : BufState
  length : Nat
  head : PageNo
  tail : PageNo
  marks : PortSet
  pendingRev : Option Revocation
  forced : Option Port
  deriving DecidableEq, Repr

/-- A buffer record: its generation, and its fields unless it is VACANT (R1). -/
structure BufRec where
  gen : Gen
  live : Option Live
  deriving DecidableEq, Repr

/-- A Page Map entry (R18): the page's place, with buffer and next while it is chained. -/
inductive PageEntry where
  | free
  | scrub
  | chained (buf : BufNo) (next : Option PageNo)
  deriving DecidableEq, Repr

/-- The kind of an offer (R120). -/
inductive OfferKind where
  | lend | give
  deriving DecidableEq, Repr

/-- An Offer Table entry in use (R120). -/
structure Offer where
  kind : OfferKind
  src : Port
  dst : Port
  handle : Handle
  countdown : Nat
  deriving DecidableEq, Repr

/-- The mode of a Directory entry (R110). -/
inductive DirMode where
  | openMode | listed
  deriving DecidableEq, Repr

/-- A Directory entry (R110). -/
structure DirEntry where
  name : Nat
  handle : Handle
  publisher : Port
  mode : DirMode
  deriving DecidableEq, Repr

/-- The ownership counts of a port (R23). -/
structure Counts where
  buffers : Nat
  pages : Nat
  deriving DecidableEq, Repr

/-- The phase of the active teardown walk (R180). -/
inductive WalkPhase where
  | offers | buffers
  deriving DecidableEq, Repr

/-- The eight requesters of the Table Controller's arbiter (R75). -/
inductive Requester where
  | port (p : Port)
  | tick
  | teardown
  | jobEnd
  | maintenance
  deriving DecidableEq, Repr

/-! ### The Data Mover and the Memory Arbiter -/

/-- Why a job is to stop (R159). -/
inductive StopCause where
  | cancelled | aborted
  deriving DecidableEq, Repr

/-- The state of a copy job (R159). -/
inductive JobState where
  | running
  | stopping (cause : StopCause)
  deriving DecidableEq, Repr

/-- A copy job (R159). Its port is the one it is kept for. -/
structure Job where
  src : Handle
  srcStart : Nat
  dst : Handle
  dstStart : Nat
  count : Nat
  done : Nat
  state : JobState
  deriving DecidableEq, Repr

/-- The cause a job-end report carries (R159). -/
inductive EndCause where
  | ok | cancelled | aborted
  deriving DecidableEq, Repr

/-- A job-end report (R159). -/
structure Report where
  port : Port
  src : Handle
  dst : Handle
  done : Nat
  cause : EndCause
  deriving DecidableEq, Repr

/-- The Data Mover's page in progress (R159): a scrub step with its current scrub page, or a copy
page of a port in phase READ or WRITE. `served` and `captured` say whether the transfer raised for
the phase has been granted (the model's own, log 5). -/
inductive PageWork where
  | scrub (page : PageNo) (served : Bool)
  | copyRead (port : Port) (captured : Option (List Byte))
  | copyWrite (port : Port) (bytes : List Byte) (served : Bool)
  deriving DecidableEq, Repr

/-- The two kinds of page work (R159). -/
inductive WorkKind where
  | scrub | copy
  deriving DecidableEq, Repr

/-- The six requesters of the Memory Arbiter (R29). -/
inductive MemRequester where
  | host (p : Port)
  | mover
  | maintenance
  deriving DecidableEq, Repr

/-! ### The Host Port -/

/-- The port state (R171). -/
inductive PortState where
  | detached | attached | teardown
  deriving DecidableEq, Repr

/-- The five fault kinds (section 10.2). -/
inductive FaultKind where
  | unmappedAccess | readonlyWrite | cursorRange | postWhileBusy | writeToReadOnlyLocation
  deriving DecidableEq, Repr

/-- The last teardown cause, with a fault kind when FAULT (R171). -/
inductive TeardownCause where
  | none | detach | prst
  | fault (k : FaultKind)
  | forceDetach | clearAll
  deriving DecidableEq, Repr

/-- The mode of a window slot (R44). -/
inductive MapMode where
  | read | write
  deriving DecidableEq, Repr

/-- What a window slot holds while MAPPED or VOID (R44). -/
structure Mapping where
  handle : Handle
  mode : MapMode
  lengthCopy : Nat
  pageIndex : Nat
  cursor : Fin 64
  endFlag : Bool
  ovr : Bool
  deriving DecidableEq, Repr

/-- A window slot record (R44): EMPTY has no field but its state. -/
inductive WindowSlot where
  | empty
  | mapped (m : Mapping)
  | void (m : Mapping)
  deriving DecidableEq, Repr

/-- The state of a command slot (R66). -/
inductive CmdState where
  | idle | pending | busy | done
  deriving DecidableEq, Repr

/-- The command slot record (R66). -/
structure CmdSlot where
  state : CmdState
  params : List Byte
  postedCode : Byte
  postedParams : List Byte
  resultCode : Byte
  resultArea : List Byte
  cancelRequested : Bool
  deriving DecidableEq, Repr

/-- The causes that notices carry (section 12.2). -/
inductive Cause where
  | decline | peerLost | returned | forced | freed | trim | unshare | expiry | forceFree | leave
  deriving DecidableEq, Repr

/-- The role in an EXPIRED notice (R146). -/
inductive Role where
  | offeror | target
  deriving DecidableEq, Repr

/-- A notice: its kind and the fields of that kind (R146). -/
inductive Notice where
  | offer (id : OfferId) (kind : OfferKind) (src : Port) (h : Handle) (length : Nat)
  | withdrawn (id : OfferId) (h : Handle)
  | expired (id : OfferId) (h : Handle) (role : Role)
  | accepted (id : OfferId) (h : Handle) (acceptor : Port)
  | declined (id : OfferId) (h : Handle) (cause : Cause)
  | recall (h : Handle) (countdown : Nat)
  | returned (h : Handle) (cause : Cause)
  | revoked (h : Handle) (cause : Cause)
  | granted (h : Handle) (owner : Port)
  | joined (h : Handle) (port : Port) (name : Nat)
  | left (h : Handle) (port : Port) (cause : Cause)
  deriving DecidableEq, Repr

/-- The fault record's fields (R175); the access is READ or WRITE and carries the value of a
write. -/
structure FaultRec where
  kind : FaultKind
  offset : Nat
  access : Access
  more : Bool
  deriving DecidableEq, Repr

/-- The attention enables (R155). -/
structure Enables where
  notice : Bool
  slot : Bool
  fault : Bool
  lost : Bool
  deriving DecidableEq, Repr

/-- One Host Port (00, Block overview): its attachment state, three window slots, command slot,
notice queue, LOST flag, attention enables and fault record, the level of its PRST input (R173)
and the byte it drives on its data lines (R205). -/
structure HostPort where
  state : PortState
  lastCause : TeardownCause
  w0 : WindowSlot
  w1 : WindowSlot
  saved : WindowSlot
  cmd : CmdSlot
  queue : List Notice
  lost : Bool
  enables : Enables
  fault : Option FaultRec
  prst : Bool
  dataOut : Option Byte
  deriving DecidableEq, Repr

/-! ### The Maintenance Port -/

/-- A held maintenance request: its code and its parameter bytes (R189). -/
structure MaintRequest where
  code : Byte
  params : List Byte
  deriving DecidableEq, Repr

/-- The response statuses (R192). -/
inductive Status where
  | ok | badFrame | range | notHeld | notLive | notChained
  deriving DecidableEq, Repr

/-- The Maintenance Port's state, with the held request or the response (R189). -/
inductive MaintState where
  | idle
  | pending (req : MaintRequest)
  | ready (status : Status) (data : List Byte)
  deriving DecidableEq, Repr

/-- The fault policy of a port (R176, R193). -/
inductive Policy where
  | report | detach
  deriving DecidableEq, Repr

/-- The configuration (R193). -/
structure Cfg where
  bufQuota : PerPort Nat
  pageQuota : PerPort Nat
  policy : PerPort Policy
  offerTicks : Nat
  recallTicks : Nat
  tickDiv : Nat
  deriving DecidableEq, Repr

/-- A handling of the Table Controller that is in progress between two steps (R77; the model's own,
logs 10 and 27): a tick handling that has taken a count of ticks (R134), or the handling of a
command that was taken from a port before the port's teardown started (R74), with the command slot
as the take and the start left it. -/
inductive Underway where
  | ticks (taken : Nat)
  | command (p : Port) (slot : CmdSlot)
  deriving DecidableEq, Repr

/-! ### The whole part -/

/-- The state of the GL-4. INVENTORY.md names the rule each field comes from. -/
structure State where
  /-- The four Host Ports. -/
  ports : PerPort HostPort
  /-- Buffer Table (R1): the records that are not VACANT with generation 0. -/
  buffers : List (Nat × BufRec)
  /-- Page Map (R18): the entries whose place is not SCRUB. -/
  pageMap : List (Nat × PageEntry)
  /-- Offer Table (R120): the entries in use. -/
  offers : List (Nat × Option Offer)
  /-- Directory (R110), in its order. -/
  dir : List DirEntry
  /-- Ownership counts (R23). -/
  counts : PerPort Counts
  /-- Pending-tick count (R134). -/
  pendingTicks : Nat
  /-- Walk list (R180), the active walk first. -/
  walkList : List Port
  /-- Phase of the active walk (R180). -/
  walkPhase : WalkPhase
  /-- Position of the active walk (R180). -/
  walkPos : Nat
  /-- The requester the Table Controller's arbiter granted last (R76). -/
  tcLast : Requester
  /-- The requester whose grant stands (the model's own, log 4). -/
  tcGrant : Option Requester
  /-- The handling that is in progress between two steps, if there is one (the model's own, logs 10
  and 27). -/
  underway : Option Underway
  /-- Free List (R34), head first. -/
  freeList : List PageNo
  /-- Scrub Queue (R36), head first. -/
  scrubQueue : List PageNo
  /-- Page Memory (R28): the bytes written since power-up. -/
  mem : List Host.Cell
  /-- The requester the Memory Arbiter granted last (R30). -/
  memLast : MemRequester
  /-- Copy jobs, at most one per port (R159). -/
  jobs : PerPort (Option Job)
  /-- The Data Mover's page in progress (R159). -/
  page : Option PageWork
  /-- The Data Mover's next kind (R159). -/
  nextKind : WorkKind
  /-- The Data Mover's last copy port (R159). -/
  lastCopy : Port
  /-- Job-end reports, oldest first (R159). -/
  reports : List Report
  /-- The Data Mover's paused flag (R159). -/
  paused : Bool
  /-- The prescaler (R133). -/
  prescaler : Nat
  /-- The length of the prescaler's period in progress (R133). -/
  period : Nat
  /-- Maintenance Port state (R189). -/
  maint : MaintState
  /-- HOLD indication (R189, R194). -/
  hold : Bool
  /-- Configuration (R193). -/
  cfg : Cfg
  /-- The bytes shifted out on SDO in the last frame (R190, R191). -/
  sdo : List Byte
  /-- Whether RST is asserted (R205). -/
  rst : Bool
  /-- Free values drawn, which picks fresh ones: one at each device reset, at each grant while the
  Data Mover waits, and at each teardown start that meets a granted command (the model's own, logs
  5, 7 and 27). -/
  freeCount : Nat
  /-- Commands that are waiting, first in first out. -/
  pending : List Instr
  deriving DecidableEq, Repr

/-- Why the model stops. -/
inductive Fault where
  /-- Raised by a host window access, by the end of a copy page's phase and by HOLD's wait for the
  page in progress, when the page index of the slot or job does not resolve to a page through the
  Page Map. The laws R22 and R63 exclude it in every state a run reaches. Safe (log 18). -/
  | pageNotResolved
  deriving DecidableEq, Repr

/-- Why a command has no meaning. -/
inductive Refusal where
  /-- Raised by `exec` for a command whose meaning is not written. No arm raises it. Safe. -/
  | notModelled (mnemonic : String)
  deriving DecidableEq, Repr

/-! ### Values after device reset -/

/-- Pages from `k` on, `n` of them, ascending. -/
def pagesFrom (k : Nat) : Nat → List PageNo
  | 0 => []
  | n + 1 => Fin.ofNat 8192 k :: pagesFrom (k + 1) n

/-- All 8192 pages in ascending order (R36). -/
def allPages : List PageNo := pagesFrom 0 8192

/-- The command slot after device reset and CLEAR_ALL (R66). -/
def CmdSlot.reset : CmdSlot where
  state := .idle
  params := List.replicate 16 0
  postedCode := 0
  postedParams := List.replicate 16 0
  resultCode := 0
  resultArea := List.replicate 12 0
  cancelRequested := false

/-- A Host Port after device reset (R44, R66, R145, R155, R171, R175), its PRST input at a level. -/
def HostPort.reset (prst : Bool) : HostPort where
  state := .detached
  lastCause := .none
  w0 := .empty
  w1 := .empty
  saved := .empty
  cmd := CmdSlot.reset
  queue := []
  lost := false
  enables := ⟨false, false, false, false⟩
  fault := none
  prst := prst
  dataOut := none

/-- The configuration after device reset (R193). -/
def Cfg.reset : Cfg where
  bufQuota := ⟨256, 256, 256, 256⟩
  pageQuota := ⟨2048, 2048, 2048, 2048⟩
  policy := ⟨.report, .report, .report, .report⟩
  offerTicks := 1000
  recallTicks := 500
  tickDiv := 62

/-- The part right after device reset, RST released again (R26, R42, R144, R159, R171, R189;
log 1), with every PRST input deasserted (log 17) and nothing waiting. -/
def State.reset : State where
  ports := ⟨HostPort.reset false, HostPort.reset false, HostPort.reset false,
    HostPort.reset false⟩
  buffers := []
  pageMap := []
  offers := []
  dir := []
  counts := ⟨⟨0, 0⟩, ⟨0, 0⟩, ⟨0, 0⟩, ⟨0, 0⟩⟩
  pendingTicks := 0
  walkList := []
  walkPhase := .offers
  walkPos := 0
  tcLast := .maintenance
  tcGrant := none
  underway := none
  freeList := []
  scrubQueue := allPages
  mem := []
  memLast := .maintenance
  jobs := ⟨none, none, none, none⟩
  page := none
  nextKind := .scrub
  lastCopy := .d
  reports := []
  paused := false
  prescaler := 0
  period := 16128
  maint := .idle
  hold := false
  cfg := Cfg.reset
  sdo := []
  rst := false
  freeCount := 0
  pending := []

end Sys2Proof.Machine
end

