-- ==== Sys2Proof/Machine/Table.lean ====
section
/-! DEFINITION. Sparse tables and values kept per port: how the model reads and writes them. -/

namespace Sys2Proof.Machine

/-- The port number of a port (00, Conventions). -/
def portNum : Port → Nat
  | .a => 0 | .b => 1 | .c => 2 | .d => 3

/-- The port with a number, if there is one. -/
def portOfNum : Nat → Option Port
  | 0 => some .a | 1 => some .b | 2 => some .c | 3 => some .d | _ => none

/-- The four ports in ascending number. -/
def allPorts : List Port := [.a, .b, .c, .d]

/-- The port after a port in the ring A, B, C, D and back to A. -/
def portAfter : Port → Port
  | .a => .b | .b => .c | .c => .d | .d => .a

/-- The value kept for a port. -/
def perGet {α : Type} (v : PerPort α) : Port → α
  | .a => v.a | .b => v.b | .c => v.c | .d => v.d

/-- The values with the one of a port replaced. -/
def perSet {α : Type} (v : PerPort α) (p : Port) (x : α) : PerPort α :=
  match p with
  | .a => { v with a := x } | .b => { v with b := x }
  | .c => { v with c := x } | .d => { v with d := x }

/-- The same value for every port. -/
def perAll {α : Type} (x : α) : PerPort α := ⟨x, x, x, x⟩

/-- A value for each port, computed from it. -/
def perOf {α : Type} (f : Port → α) : PerPort α := ⟨f .a, f .b, f .c, f .d⟩

/-- The empty set of ports. -/
def noPorts : PortSet := perAll false

/-- The members of a set of ports in ascending number. -/
def portsIn (m : PortSet) : List Port := allPorts.filter (perGet m)

/-- Whether a set of ports has no member. -/
def isEmptySet (m : PortSet) : Bool := !(m.a || m.b || m.c || m.d)

/-- A table indexed by number, as the list of the entries that differ from the default, keys
strictly rising. -/
abbrev Table (α : Type) := List (Nat × α)

/-- The entry at a key: the listed one, else the default. -/
def tabGet {α : Type} (dflt : α) : Table α → Nat → α
  | [], _ => dflt
  | (k, v) :: t, n => if n = k then v else tabGet dflt t n

/-- List an entry at a key, in its place, over the one that stands there. -/
def tabInsert {α : Type} : Table α → Nat → α → Table α
  | [], n, v => [(n, v)]
  | (k, w) :: t, n, v =>
    if n < k then (n, v) :: (k, w) :: t
    else if n = k then (n, v) :: t
    else (k, w) :: tabInsert t n v

/-- Take a key's entry off the list. -/
def tabErase {α : Type} : Table α → Nat → Table α
  | [], _ => []
  | (k, w) :: t, n => if n = k then tabErase t n else (k, w) :: tabErase t n

/-- Set the entry at a key. A default value is not listed, so equal tables are equal lists. -/
def tabSet {α : Type} [DecidableEq α] (dflt : α) (t : Table α) (n : Nat) (v : α) : Table α :=
  if v = dflt then tabErase t n else tabInsert t n v

/-- The canonical form of a table: keys strictly rising and below `size`, no default listed. -/
def tabWf {α : Type} [DecidableEq α] (dflt : α) (size : Nat) (t : Table α) : Bool :=
  decide (t.Pairwise (fun x y => x.1 < y.1)) && t.all (fun x => x.1 < size && x.2 != dflt)

end Sys2Proof.Machine
end

