-- ==== Sys2Proof/Machine/Operands.lean ====
section
/-! DEFINITION. Operands and formats (chapter 12): numbers in bytes, the codes of commands,
results, notices and requests, and the parameters they carry. -/

namespace Sys2Proof.Machine

/-! ### Numbers that name records -/

/-- A buffer number given as a number, when it is at most 1023. -/
def bufNoOf (n : Nat) : Option BufNo := if h : n < 1024 then some ⟨n, h⟩ else none

/-- An offer id given as a number, when it is at most 15. -/
def offerNoOf (n : Nat) : Option OfferId := if h : n < 16 then some ⟨n, h⟩ else none

/-- A page number given as a number, when it is at most 8191. -/
def pageNoOf (n : Nat) : Option PageNo := if h : n < 8192 then some ⟨n, h⟩ else none

/-! ### Numbers in bytes (R202: low byte first) -/

/-- A number as one byte. -/
def byteOf (n : Nat) : Byte := BitVec.ofNat 8 n

/-- A number as two bytes, low byte first (R202). -/
def bytes16 (n : Nat) : List Byte := [byteOf n, byteOf (n / 256)]

/-- The number two bytes hold, low byte first (R202). -/
def num16 (lo hi : Byte) : Nat := lo.toNat + 256 * hi.toNat

/-- A truth value as one byte, 0 or 1. -/
def byteOfBool (b : Bool) : Byte := if b then 1 else 0

/-- A set of ports as bits 3 to 0: bit n for port n (R202). -/
def setNum (m : PortSet) : Nat :=
  m.a.toNat + 2 * m.b.toNat + 4 * m.c.toNat + 8 * m.d.toNat

/-- The byte at a place of a run of bytes; a place beyond it reads 0x00. -/
def byteAt (bs : List Byte) (i : Nat) : Byte := bs.getD i 0

/-- The 16-bit number at a place of a run of bytes. -/
def numAt (bs : List Byte) (i : Nat) : Nat := num16 (byteAt bs i) (byteAt bs (i + 1))

/-- A run of bytes cut or filled with 0x00 to a length: unused bytes are 0x00 (R81, R150). -/
def padTo (n : Nat) (bs : List Byte) : List Byte := (bs ++ List.replicate n 0).take n

/-- The three bytes of a handle (section 12.1). -/
def handleBytes (h : Handle) : List Byte := bytes16 h.buf.val ++ [h.gen]

/-- A port number as one byte (R202). -/
def portByte (p : Port) : Byte := byteOf (portNum p)

/-! ### Commands (sections 4.7 and 12.2) -/

/-- The commands a port may post (section 4.7). -/
inductive Command where
  | attach | detach | clearFault | clearLost
  | alloc | extend | trim | free | info | map
  | share | unshare | leave | publish | unpublish | lookup | next | subscribe
  | lend | give | accept | decline | withdraw | recall | ret | copy
  deriving DecidableEq, Repr

/-- The code of each command (section 12.2). -/
def commandCode : Command → Byte
  | .attach => 0x01 | .detach => 0x02 | .clearFault => 0x03 | .clearLost => 0x04
  | .alloc => 0x10 | .extend => 0x11 | .trim => 0x12 | .free => 0x13 | .info => 0x14
  | .map => 0x20
  | .share => 0x30 | .unshare => 0x31 | .leave => 0x32
  | .publish => 0x38 | .unpublish => 0x39 | .lookup => 0x3A | .next => 0x3B | .subscribe => 0x3C
  | .lend => 0x40 | .give => 0x41 | .accept => 0x42 | .decline => 0x43 | .withdraw => 0x44
  | .recall => 0x45 | .ret => 0x46
  | .copy => 0x50

/-- Every command. -/
def allCommands : List Command :=
  [.attach, .detach, .clearFault, .clearLost, .alloc, .extend, .trim, .free, .info, .map,
   .share, .unshare, .leave, .publish, .unpublish, .lookup, .next, .subscribe,
   .lend, .give, .accept, .decline, .withdraw, .recall, .ret, .copy]

/-- The command a posted code names; every other value is no command (section 12.2). -/
def commandOf (code : Byte) : Option Command := allCommands.find? (fun c => commandCode c == code)

/-! ### Result codes (R80, section 12.2) -/

/-- The result codes (R80). -/
inductive Result where
  | ok | range | badHandle | self | badCommand | notOwner | notBorrower | noAccess | state
  | shared | already | quota | noRecord | noPages | offerFull | queueFull | dirFull | busy
  | overlap | aborted | cancelled | noOffer | late | peerLost | detached | duplicate | notFound
  | notOpen
  deriving DecidableEq, Repr

/-- The value of each result code (section 12.2). -/
def resultCode : Result → Byte
  | .ok => 0x01 | .range => 0x02 | .badHandle => 0x03 | .self => 0x04 | .badCommand => 0x05
  | .notOwner => 0x06 | .notBorrower => 0x07 | .noAccess => 0x08 | .state => 0x09
  | .shared => 0x0A | .already => 0x0B | .quota => 0x0C | .noRecord => 0x0D | .noPages => 0x0E
  | .offerFull => 0x0F | .queueFull => 0x10 | .dirFull => 0x11 | .busy => 0x12
  | .overlap => 0x13 | .aborted => 0x14 | .cancelled => 0x15 | .noOffer => 0x16 | .late => 0x17
  | .peerLost => 0x18 | .detached => 0x19 | .duplicate => 0x1A | .notFound => 0x1B
  | .notOpen => 0x1C

/-! ### Other values (section 12.2) -/

/-- Causes in notices. -/
def causeCode : Cause → Byte
  | .decline => 1 | .peerLost => 2 | .returned => 3 | .forced => 4 | .freed => 5 | .trim => 6
  | .unshare => 7 | .expiry => 8 | .forceFree => 9 | .leave => 10

/-- Fault kinds. -/
def faultCode : FaultKind → Byte
  | .unmappedAccess => 1 | .readonlyWrite => 2 | .cursorRange => 3 | .postWhileBusy => 4
  | .writeToReadOnlyLocation => 5

/-- Last teardown causes. -/
def teardownCode : TeardownCause → Byte
  | .none => 0 | .detach => 1 | .prst => 2 | .fault _ => 3 | .forceDetach => 4 | .clearAll => 5

/-- The fault kind reported beside a last teardown cause: absent, read as 0x00, unless FAULT. -/
def teardownFaultCode : TeardownCause → Byte
  | .fault k => faultCode k
  | _ => 0

/-- Offer kinds. -/
def offerKindCode : OfferKind → Byte
  | .lend => 1 | .give => 2

/-- Roles in EXPIRED. -/
def roleCode : Role → Byte
  | .offeror => 1 | .target => 2

/-- Directory modes. -/
def dirModeCode : DirMode → Byte
  | .openMode => 1 | .listed => 2

/-- The Directory mode a byte names. -/
def dirModeOf (b : Byte) : Option DirMode :=
  if b = 1 then some .openMode else if b = 2 then some .listed else none

/-- The map mode a byte names: READ 1, WRITE 2. -/
def mapModeOf (b : Byte) : Option MapMode :=
  if b = 1 then some .read else if b = 2 then some .write else none

/-- The window a byte names: 0 for W0, 1 for W1 (R57). -/
def windowOf (b : Byte) : Option Window :=
  if b = 0 then some .w0 else if b = 1 then some .w1 else none

/-- The port a parameter byte names (R202). -/
def portOf (b : Byte) : Option Port := portOfNum b.toNat

/-- The offer id a parameter byte names: 0 to 15. -/
def offerIdOf (b : Byte) : Option OfferId := offerNoOf b.toNat

/-- Buffer states (VACANT 0). -/
def bufStateCode : BufState → Nat
  | .held _ => 1 | .offered _ => 2 | .lent _ => 3 | .recalling _ _ => 4

/-- Kinds of a pending revocation (section 12.4). -/
def revKindCode : RevKind → Byte
  | .expiry => 1 | .teardown => 2 | .forceFree => 3

/-! ### Maintenance requests (section 12.4) -/

/-- The maintenance requests. -/
inductive Request where
  | readConfig | writeConfig | hold | release | readBuffer | readPageEntry | readOffer | readDir
  | readPort | readPool | readMem | writeMem | forceFree | forceDetach | clearAll
  deriving DecidableEq, Repr

/-- The code of each request. -/
def requestCode : Request → Byte
  | .readConfig => 0x01 | .writeConfig => 0x02 | .hold => 0x10 | .release => 0x11
  | .readBuffer => 0x20 | .readPageEntry => 0x21 | .readOffer => 0x22 | .readDir => 0x23
  | .readPort => 0x24 | .readPool => 0x25 | .readMem => 0x30 | .writeMem => 0x31
  | .forceFree => 0x40 | .forceDetach => 0x41 | .clearAll => 0x42

/-- Every request. -/
def allRequests : List Request :=
  [.readConfig, .writeConfig, .hold, .release, .readBuffer, .readPageEntry, .readOffer, .readDir,
   .readPort, .readPool, .readMem, .writeMem, .forceFree, .forceDetach, .clearAll]

/-- The request a code names, if it is one. -/
def requestOf (code : Byte) : Option Request := allRequests.find? (fun r => requestCode r == code)

/-- How many parameter bytes a request has (section 12.4). WRITE_MEM's depends on its count
parameter, the fourth byte; without that byte it needs at least four (R190, R204). -/
def requestLength (r : Request) (params : List Byte) : Nat :=
  match r with
  | .readConfig => 2 | .writeConfig => 4 | .hold => 0 | .release => 0
  | .readBuffer => 2 | .readPageEntry => 2 | .readOffer => 1 | .readDir => 1
  | .readPort => 1 | .readPool => 0 | .readMem => 4
  | .writeMem => 4 + (byteAt params 3).toNat
  | .forceFree => 2 | .forceDetach => 1 | .clearAll => 0

/-- Whether the Table Controller serves a request (R192). -/
def tableRequest : Request → Bool
  | .readConfig | .writeConfig | .readMem | .readPool => false
  | _ => true

/-- The value of each response status (section 12.4). -/
def statusCode : Status → Byte
  | .ok => 0x01 | .badFrame => 0x02 | .range => 0x03 | .notHeld => 0x04 | .notLive => 0x05
  | .notChained => 0x06

end Sys2Proof.Machine
end

