-- ==== Sys2Proof/Machine/Flags.lean ====
section
/-! DEFINITION. Status bytes, flags and levels: how the window, slot, port, fault and maintenance
status are put together (R53, R71, R155, R156, R171, R175, R189), the bytes of notices (R150) and
what a read of each location gives. -/

namespace Sys2Proof.Machine

/-! ### Window slots -/

/-- The mapping of a slot that is MAPPED or VOID (R44). -/
def slotMapping : WindowSlot → Option Mapping
  | .empty => none
  | .mapped m => some m
  | .void m => some m

/-- The low bits of a window status: mode in bit 2, END in bit 3, OVR in bit 4. -/
def mappingFlags (m : Mapping) : Nat :=
  (match m.mode with | .read => 0 | .write => 4) + 8 * m.endFlag.toNat + 16 * m.ovr.toNat

/-- The status byte of a window slot (R53): an EMPTY slot reports state EMPTY, mode READ, END and
OVR clear. -/
def windowStatus : WindowSlot → Byte
  | .empty => 0
  | .mapped m => byteOf (1 + mappingFlags m)
  | .void m => byteOf (2 + mappingFlags m)

/-- The handle bytes of a window slot: three zero bytes for EMPTY (R53). -/
def windowHandle (w : WindowSlot) : List Byte :=
  match slotMapping w with
  | none => [0, 0, 0]
  | some m => handleBytes m.handle

/-- The cursor a slot reads: 0x00 for EMPTY (R51). -/
def windowCursor (w : WindowSlot) : Byte :=
  match slotMapping w with
  | none => 0
  | some m => byteOf m.cursor.val

/-- The page index a slot reads: 0x00 for EMPTY (R52). -/
def windowPageIndex (w : WindowSlot) : Byte :=
  match slotMapping w with
  | none => 0
  | some m => byteOf m.pageIndex

/-- The length copy READ_PORT reports: 0x00 for EMPTY (R196). -/
def windowLength (w : WindowSlot) : Byte :=
  match slotMapping w with
  | none => 0
  | some m => byteOf m.lengthCopy

/-! ### Slot, port and attention -/

/-- The slot status byte (section 12.1). -/
def cmdStateCode : CmdState → Byte
  | .idle => 0 | .pending => 1 | .busy => 2 | .done => 3

/-- The port state's value (section 12.1). -/
def portStateCode : PortState → Nat
  | .detached => 0 | .attached => 1 | .teardown => 2

/-- The port status byte: state in bits 1-0, LOST in bit 2, fault record present in bit 3. -/
def portStatus (hp : HostPort) : Byte :=
  byteOf (portStateCode hp.state + 4 * hp.lost.toNat + 8 * hp.fault.isSome.toNat)

/-- The attention enables as a byte: bit 0 notice, 1 command slot, 2 fault, 3 LOST (R155). -/
def enablesByte (e : Enables) : Byte :=
  byteOf (e.notice.toNat + 2 * e.slot.toNat + 4 * e.fault.toNat + 8 * e.lost.toNat)

/-- The attention enables a written byte sets: bits outside the four are ignored (R155). -/
def enablesOf (v : Byte) : Enables := ⟨v.getLsbD 0, v.getLsbD 1, v.getLsbD 2, v.getLsbD 3⟩

/-- The ATN level a Host Port drives (R156): high while ATTACHED and an enabled source holds. -/
def atnLevel (hp : HostPort) : Bool :=
  decide (hp.state = .attached) &&
    ((hp.enables.notice && !hp.queue.isEmpty) ||
     (hp.enables.slot && decide (hp.cmd.state = .done)) ||
     (hp.enables.fault && hp.fault.isSome) ||
     (hp.enables.lost && hp.lost))

/-! ### The fault record -/

/-- The value a recorded access carries: present for a write (R175). -/
def accessValue : Access → Byte
  | .write v => v
  | _ => 0

/-- The fault flags: MORE in bit 0, access WRITE in bit 1 (section 12.1). -/
def faultFlags (f : FaultRec) : Byte :=
  byteOf (f.more.toNat + (match f.access with | .write _ => 2 | _ => 0))

/-- The four bytes of the fault record at 0x7C to 0x7F: all 0x00 while it is empty (R175). -/
def faultBytes : Option FaultRec → List Byte
  | none => [0, 0, 0, 0]
  | some f => [faultCode f.kind, byteOf f.offset, accessValue f.access, faultFlags f]

/-! ### Notices -/

/-- The eight bytes of a notice at 0x70 to 0x77 (section 12.3): kind, handle, further fields;
unused bytes read 0x00 (R150). -/
def noticeBytes : Notice → List Byte
  | .offer id k src h len =>
    [0x01] ++ handleBytes h ++ [byteOf id.val, offerKindCode k, portByte src, byteOf len]
  | .withdrawn id h => [0x02] ++ handleBytes h ++ [byteOf id.val, 0, 0, 0]
  | .expired id h r => [0x03] ++ handleBytes h ++ [byteOf id.val, roleCode r, 0, 0]
  | .accepted id h p => [0x04] ++ handleBytes h ++ [byteOf id.val, portByte p, 0, 0]
  | .declined id h c => [0x05] ++ handleBytes h ++ [byteOf id.val, causeCode c, 0, 0]
  | .recall h n => [0x06] ++ handleBytes h ++ bytes16 n ++ [0, 0]
  | .returned h c => [0x07] ++ handleBytes h ++ [causeCode c, 0, 0, 0]
  | .revoked h c => [0x08] ++ handleBytes h ++ [causeCode c, 0, 0, 0]
  | .granted h o => [0x09] ++ handleBytes h ++ [portByte o, 0, 0, 0]
  | .joined h p n => [0x0A] ++ handleBytes h ++ [portByte p] ++ bytes16 n ++ [0]
  | .left h p c => [0x0B] ++ handleBytes h ++ [portByte p, causeCode c, 0, 0]

/-- The refusable kinds (R146). -/
def refusable : Notice → Bool
  | .offer .. | .granted .. | .joined .. => true
  | _ => false

/-- The bytes of the head notice: all 0x00 when the queue is empty (R150). -/
def headBytes : List Notice → List Byte
  | [] => List.replicate 8 0
  | n :: _ => noticeBytes n

/-! ### What a host read gives -/

/-- The byte a host read of a location gives (section 12.1, R51 to R53, R56, R67, R71, R150, R155,
R171, R175), when the access is taken (`readAt`). Such a read changes nothing. The offsets 0x00 to 0x40 and 0x44 give none here: a read
of a window byte is the command W0_DIRECT_VIEW_ACCESS or CURSOR_DATA_PORT_ACCESS (log 9). -/
def readLocation (hp : HostPort) (off : Nat) : Option Byte :=
  if off ≤ 0x40 then none
  else if off = 0x41 then some (windowCursor hp.w0)
  else if off = 0x42 then some (windowPageIndex hp.w0)
  else if off = 0x43 then some (windowStatus hp.w0)
  else if off = 0x44 then none
  else if off = 0x45 then some (windowCursor hp.w1)
  else if off = 0x46 then some (windowPageIndex hp.w1)
  else if off = 0x47 then some (windowStatus hp.w1)
  else if off = 0x48 then some 0
  else if off = 0x49 then some (windowStatus hp.saved)
  else if off ≤ 0x4C then some (byteAt (windowHandle hp.w0) (off - 0x4A))
  else if off ≤ 0x4F then some (byteAt (windowHandle hp.w1) (off - 0x4D))
  else if off ≤ 0x5F then some (byteAt hp.cmd.params (off - 0x50))
  else if off = 0x60 then some hp.cmd.postedCode
  else if off = 0x61 then some (cmdStateCode hp.cmd.state)
  else if off = 0x62 then some hp.cmd.resultCode
  else if off = 0x63 then some 0
  else if off ≤ 0x6F then some (byteAt hp.cmd.resultArea (off - 0x64))
  else if off ≤ 0x77 then some (byteAt (headBytes hp.queue) (off - 0x70))
  else if off = 0x78 then some 0
  else if off = 0x79 then some (byteOf hp.queue.length)
  else if off = 0x7A then some (portStatus hp)
  else if off = 0x7B then some (enablesByte hp.enables)
  else if off ≤ 0x7F then some (byteAt (faultBytes hp.fault) (off - 0x7C))
  else none

/-! ### Maintenance status and presence bits -/

/-- The Maintenance Port's status byte (R189): state in bits 1-0, HOLD in bit 7. -/
def maintStatus (m : MaintState) (hold : Bool) : Byte :=
  byteOf ((match m with | .idle => 0 | .pending _ => 1 | .ready _ _ => 2) + 128 * hold.toNat)

/-- Presence bits: bit 0 for the first optional field, bit 1 for the next (section 12.4). -/
def presence : List Bool → Nat
  | [] => 0
  | b :: bs => b.toNat + 2 * presence bs

end Sys2Proof.Machine
end

