-- ==== Sys2Proof/Config.lean ====
section
/-! DEFINITION. The values the manual leaves open. Each is a constant with no body: nothing can
be proved of the value itself, so a claim holds whatever it is. -/

namespace Sys2Proof.Config

/-- FREE VALUE. The byte that an address of the Page Memory holds from power-up until the first
write to it: "When power is first applied, the bytes hold arbitrary values" (R28). Log 6. Safe. -/
opaque powerUpByte : Nat → Byte

/-- FREE VALUE. Whether a device reset that comes when `freeCount` is the first argument lets the
byte of a page write in progress be stored at the address before it abandons the write: "Its page
write may have been served in part" (R39, and R170 for a copy page). Log 7. Safe. -/
opaque abandonedByteStored : Nat → Nat → Bool

/-- FREE VALUE. The same for a byte of the WRITE_MEM that has the Table Controller's grant: "A
WRITE_MEM whose transfer had been granted may have stored its bytes" (R201). Log 7. Safe. -/
opaque abandonedRequestByteStored : Nat → Nat → Bool

/-- FREE VALUE. Whether the Data Mover's waiting transfer was granted before the request of another
requester arrived, when `freeCount` is the argument: "When none is waiting, it grants the first
request that arrives" (R30), and the manual gives no arrival order. Log 5. Safe. -/
opaque moverGrantedFirst : Nat → Bool

/-- FREE VALUE. Whether the take of a granted command came before the teardown start that reaches
its PENDING slot, when `freeCount` is the argument: "A take and a teardown start at one PENDING slot
may be taken in either order" (R74). Log 27. Safe. -/
opaque takenFirst : Nat → Bool

end Sys2Proof.Config
end

