-- ==== Sys2Proof/Machine/Memory.lean ====
section
/-! DEFINITION. The Page Memory (R28): 524288 bytes, kept as the list of the bytes that something
has written since power-up, at strictly rising addresses. -/

namespace Sys2Proof.Machine

/-- The Page Memory. An address that is not listed has not been written since power-up. -/
abbrev Memory := List Host.Cell

/-- Bytes in the Page Memory (R28). -/
def memorySize : Nat := 524288

/-- The byte at an address. An unlisted address holds its power-up byte, which is free (log 6). -/
def memRead : Memory → Nat → Byte
  | [], n => Config.powerUpByte n
  | (k, v) :: t, n => if n = k then v else memRead t n

/-- Store a byte at an address: it keeps its value until the next write (R28). -/
def memWrite : Memory → Nat → Byte → Memory
  | [], n, v => [(n, v)]
  | (k, w) :: t, n, v =>
    if n < k then (n, v) :: (k, w) :: t
    else if n = k then (n, v) :: t
    else (k, w) :: memWrite t n v

/-- Store a run of bytes at consecutive addresses. -/
def memWriteRun (m : Memory) : Nat → List Byte → Memory
  | _, [] => m
  | n, v :: vs => memWriteRun (memWrite m n v) (n + 1) vs

/-- Read a run of `len` bytes at consecutive addresses. -/
def memReadRun (m : Memory) (n : Nat) : Nat → List Byte
  | 0 => []
  | len + 1 => memRead m n :: memReadRun m (n + 1) len

/-- A run of bytes whose write a device reset abandons: each byte is stored where `stored` says so
of its address (R39, R170, R201; log 7). -/
def memAbandonRun (stored : Nat → Bool) (m : Memory) : Nat → List Byte → Memory
  | _, [] => m
  | n, v :: vs => memAbandonRun stored (if stored n then memWrite m n v else m) (n + 1) vs

/-- The memory address of byte `b` of page `p`: p × 64 + b (R28). -/
def pageAddr (p : Fin 8192) (b : Nat) : Nat := p.val * 64 + b

/-- The 64 zero bytes of a scrub step (R33). -/
def zeroPage : List Byte := List.replicate 64 0

/-- The one canonical form of a memory: addresses strictly rising and below 524288. A listed
byte is one that was written; no unlisted address has a value it could equal (log 6). -/
def Memory.wf (m : Memory) : Bool :=
  decide (m.Pairwise (fun x y => x.1 < y.1)) && m.all (fun x => x.1 < memorySize)

end Sys2Proof.Machine
end

