-- ==== Sys2Proof/Machine/Ops.lean ====
section
/-! DEFINITION. The shared operations: reading and writing the records, what a Host Port does with
each request that reaches it, access and chains, jobs, teardown starts, retirement and return, the
arbiters, and how a step ends. -/

namespace Sys2Proof.Machine

/-! ### Records -/

/-- The Host Port of a port. -/
def portAt (s : State) (p : Port) : HostPort := perGet s.ports p

/-- Change one Host Port. -/
def updPort (p : Port) (f : HostPort → HostPort) (s : State) : State :=
  { s with ports := perSet s.ports p (f (portAt s p)) }

/-- Change all four Host Ports. -/
def updPorts (f : Port → HostPort → HostPort) (s : State) : State :=
  { s with ports := perOf (fun p => f p (portAt s p)) }

/-- The record an unlisted buffer number has: VACANT with generation 0 (R26). -/
def vacantRec : BufRec := ⟨0, none⟩

/-- A buffer record (R1). -/
def recAt (s : State) (b : BufNo) : BufRec := tabGet vacantRec s.buffers b.val

/-- The fields of a live record; none for a VACANT one. -/
def liveAt (s : State) (b : BufNo) : Option Live := (recAt s b).live

/-- The generation of a record. -/
def genAt (s : State) (b : BufNo) : Gen := (recAt s b).gen

/-- The handle a record's number and generation make: the current handle of a live record (R4). -/
def handleAt (s : State) (b : BufNo) : Handle := ⟨b, genAt s b⟩

/-- Replace a record. -/
def setRec (b : BufNo) (r : BufRec) (s : State) : State :=
  { s with buffers := tabSet vacantRec s.buffers b.val r }

/-- Replace the fields of a live record; its generation stays. -/
def setLive (b : BufNo) (l : Live) (s : State) : State := setRec b ⟨genAt s b, some l⟩ s

/-- A Page Map entry (R18). -/
def entryAt (s : State) (pg : PageNo) : PageEntry := tabGet .scrub s.pageMap pg.val

/-- An Offer Table entry: none when it is free (R120). -/
def offerAt (s : State) (id : OfferId) : Option Offer := tabGet none s.offers id.val

/-- Replace an Offer Table entry; none frees it. -/
def setOffer (id : OfferId) (o : Option Offer) (s : State) : State :=
  { s with offers := tabSet none s.offers id.val o }

/-- The ownership counts of a port (R23). -/
def countsAt (s : State) (p : Port) : Counts := perGet s.counts p

/-- Raise a port's ownership counts (R23). -/
def raiseCounts (p : Port) (buffers pages : Nat) (s : State) : State :=
  { s with counts :=
      perSet s.counts p ⟨(countsAt s p).buffers + buffers, (countsAt s p).pages + pages⟩ }

/-- Lower a port's ownership counts (R23). -/
def lowerCounts (p : Port) (buffers pages : Nat) (s : State) : State :=
  { s with counts :=
      perSet s.counts p ⟨(countsAt s p).buffers - buffers, (countsAt s p).pages - pages⟩ }

/-- Whether a port is ATTACHED (R171). -/
def attached (s : State) (p : Port) : Bool := (portAt s p).state = .attached

/-! ### What a Host Port does with a request -/

/-- Whether a slot is MAPPED on a handle (R59). -/
def mappedOn (h : Handle) : WindowSlot → Bool
  | .mapped m => m.handle = h
  | _ => false

/-- A void request at one slot (R59): MAPPED on the handle becomes VOID with every field kept. -/
def voidSlot (h : Handle) : WindowSlot → WindowSlot
  | .mapped m => if m.handle = h then .void m else .mapped m
  | w => w

/-- A length update at one slot (R60). -/
def lengthSlot (h : Handle) (n : Nat) : WindowSlot → WindowSlot
  | .mapped m => if m.handle = h then .mapped { m with lengthCopy := n } else .mapped m
  | w => w

/-- Whether a trim request voids a slot (R61). -/
def trimmed (h : Handle) (n : Nat) : WindowSlot → Bool
  | .mapped m => m.handle = h && n ≤ m.pageIndex
  | _ => false

/-- A trim request at one slot (R61): a slot on a removed page becomes VOID, another on the handle
takes the new length. -/
def trimSlot (h : Handle) (n : Nat) : WindowSlot → WindowSlot
  | .mapped m =>
    if m.handle = h then
      if n ≤ m.pageIndex then .void m else .mapped { m with lengthCopy := n }
    else .mapped m
  | w => w

/-- Apply a request to the three slots of a port. -/
def onSlots (f : WindowSlot → WindowSlot) (hp : HostPort) : HostPort :=
  { hp with w0 := f hp.w0, w1 := f hp.w1, saved := f hp.saved }

/-- How many of a port's three slots satisfy a test: the number a Host Port answers (R59, R61). -/
def countSlots (f : WindowSlot → Bool) (hp : HostPort) : Nat :=
  (f hp.w0).toNat + (f hp.w1).toNat + (f hp.saved).toNat

/-- The slot in a position W0 or W1. -/
def slotAt (w : Window) (hp : HostPort) : WindowSlot :=
  match w with
  | .w0 => hp.w0
  | .w1 => hp.w1

/-- Replace the slot in a position W0 or W1. -/
def putSlot (w : Window) (x : WindowSlot) (hp : HostPort) : HostPort :=
  match w with
  | .w0 => { hp with w0 := x }
  | .w1 => { hp with w1 := x }

/-- An install (R58): it replaces the record in the position it names, or is discarded when the
port is not ATTACHED (R58, R64). -/
def takeInstall (w : Window) (m : Mapping) (hp : HostPort) : HostPort :=
  if hp.state = .attached then putSlot w (.mapped m) hp else hp

/-- An append of a notice (R147). -/
def takeAppend (n : Notice) (hp : HostPort) : HostPort :=
  if hp.state = .attached then
    if hp.queue.length < 16 then { hp with queue := hp.queue ++ [n] } else { hp with lost := true }
  else hp

/-- The take of a posted command: the slot becomes BUSY (R69). -/
def takeCommand (hp : HostPort) : HostPort := { hp with cmd := { hp.cmd with state := .busy } }

/-- A completion (R70): stored in a BUSY slot, which becomes DONE; discarded by any other. -/
def takeCompletion (r : Result) (area : List Byte) (hp : HostPort) : HostPort :=
  if hp.cmd.state = .busy then
    { hp with cmd := { hp.cmd with
        state := .done, resultCode := resultCode r, resultArea := padTo 12 area } }
  else hp

/-- The access a fault record holds (R175): READ or WRITE. -/
def recordedAccess : Access → Access
  | .readLost => .read
  | acc => acc

/-- The fault record with one more fault (R176): an empty record takes it, a full one keeps its
fault and sets MORE. -/
def addFault (k : FaultKind) (off : Nat) (acc : Access) : Option FaultRec → Option FaultRec
  | none => some ⟨k, off, recordedAccess acc, false⟩
  | some f => some { f with more := true }

/-- The Host Port's part of a teardown start step (R179, parts 1 to 4 and 6). -/
def startStepPort (c : TeardownCause) (hp : HostPort) : HostPort :=
  { hp with
    state := .teardown
    lastCause := c
    w0 := .empty
    w1 := .empty
    saved := .empty
    queue := []
    lost := false
    cmd :=
      match hp.cmd.state with
      | .pending => { hp.cmd with state := .idle }
      | .busy => { hp.cmd with state := .idle, cancelRequested := false }
      | _ => hp.cmd
    fault := none }

/-! ### Requests and notices of a handling -/

/-- Append a notice to a port's queue (R147). -/
def notify (p : Port) (n : Notice) (s : State) : State := updPort p (takeAppend n) s

/-- A void request to one Host Port (R59). -/
def voidAt (p : Port) (h : Handle) (s : State) : State := updPort p (onSlots (voidSlot h)) s

/-- The number of slots a void request would void (R59). -/
def voidCount (s : State) (p : Port) (h : Handle) : Nat := countSlots (mappedOn h) (portAt s p)

/-- Send a completion to a port's command slot (R70). -/
def complete (p : Port) (r : Result) (area : List Byte) (s : State) : State :=
  updPort p (takeCompletion r area) s

/-- A refusable notice is admitted when the queue holds 12 notices or fewer (R148). -/
def queueAdmits (s : State) (p : Port) : Bool := (portAt s p).queue.length ≤ 12

/-! ### Access (R13) -/

/-- The access of a port to a buffer. -/
inductive AccessLevel where
  | none | read | readWrite
  deriving DecidableEq, Repr

/-- A port's access to a live buffer (R13). -/
def access (l : Live) (p : Port) : AccessLevel :=
  match l.st with
  | .held share => if l.owner = p then .readWrite else if perGet share p then .read else .none
  | .offered _ => if l.owner = p then .readWrite else .none
  | .lent q => if q = p then .readWrite else .none
  | .recalling q _ => if q = p then .readWrite else .none

/-- The value of an access level in INFO (section 12.2). -/
def accessCode : AccessLevel → Nat
  | .none => 0 | .read => 1 | .readWrite => 2

/-- Whether an access level allows a mapping of a mode (R13). -/
def allows : AccessLevel → MapMode → Bool
  | .readWrite, _ => true
  | .read, .read => true
  | _, _ => false

/-- The borrower of a live record: present in LENT and RECALLING (R1). -/
def borrowerOf (l : Live) : Option Port :=
  match l.st with
  | .lent q => some q
  | .recalling q _ => some q
  | _ => none

/-- The share set of a live record: empty unless HELD (R1). -/
def shareOf (l : Live) : PortSet :=
  match l.st with
  | .held share => share
  | _ => noPorts

/-- The offer reference of a live record: present in OFFERED (R1). -/
def offerRefOf (l : Live) : Option OfferId :=
  match l.st with
  | .offered id => some id
  | _ => none

/-- The recall countdown of a live record: present in RECALLING (R1). -/
def countdownOf (l : Live) : Option Nat :=
  match l.st with
  | .recalling _ n => some n
  | _ => none

/-- Whether a live record is HELD. -/
def isHeld (l : Live) : Bool :=
  match l.st with
  | .held _ => true
  | _ => false

/-! ### Chains (R19, R20) -/

/-- The page an entry names as its next. -/
def nextOf (pm : List (Nat × PageEntry)) (pg : PageNo) : Option PageNo :=
  match tabGet .scrub pm pg.val with
  | .chained _ n => n
  | _ => none

/-- The pages reached from a page by following next, at most `n` of them (R19). -/
def chainFrom (pm : List (Nat × PageEntry)) (pg : PageNo) : Nat → List PageNo
  | 0 => []
  | n + 1 =>
    pg :: (match nextOf pm pg with
      | none => []
      | some q => chainFrom pm q n)

/-- The chain of a live record, head page first (R19). -/
def chainOf (s : State) (l : Live) : List PageNo := chainFrom s.pageMap l.head l.length

/-- The page behind a page index of a buffer, resolved through the Page Map (R21, R32). -/
def resolveIndex (s : State) (b : BufNo) (i : Nat) : Option PageNo :=
  match liveAt s b with
  | none => none
  | some l => (chainOf s l)[i]?

/-- Chain pages to a buffer in their order: each entry's next is the page after it, the last has
none (R19). -/
def linkChain (b : BufNo) : List PageNo → List (Nat × PageEntry) → List (Nat × PageEntry)
  | [], pm => pm
  | [pg], pm => tabSet .scrub pm pg.val (.chained b none)
  | pg :: q :: rest, pm =>
    linkChain b (q :: rest) (tabSet .scrub pm pg.val (.chained b (some q)))

/-- Pages leave a chain: each entry becomes SCRUB with buffer and next absent (R20). -/
def unchain : List PageNo → List (Nat × PageEntry) → List (Nat × PageEntry)
  | [], pm => pm
  | pg :: rest, pm => unchain rest (tabSet .scrub pm pg.val .scrub)

/-- Move pages from a chain to the tail of the Scrub Queue in their order (R20, R36). -/
def scrubPages (pages : List PageNo) (s : State) : State :=
  { s with pageMap := unchain pages s.pageMap, scrubQueue := s.scrubQueue ++ pages }

/-! ### Copy jobs (R165) -/

/-- Whether a copy page of a port's job is in progress (R165). -/
def copyPageOf (page : Option PageWork) (p : Port) : Bool :=
  match page with
  | some (.copyRead q _) => q = p
  | some (.copyWrite q _ _) => q = p
  | _ => false

/-- A port's copy job, if the Data Mover holds one. -/
def jobAt (s : State) (p : Port) : Option Job := perGet s.jobs p

/-- Replace a port's copy job. -/
def setJob (p : Port) (j : Option Job) (s : State) : State :=
  { s with jobs := perSet s.jobs p j }

/-- The cause a stopped job ends with (R165). -/
def endCauseOf : StopCause → EndCause
  | .cancelled => .cancelled
  | .aborted => .aborted

/-- A job ends (R165): it leaves the mover and a job-end report joins the tail of the list. -/
def endJob (p : Port) (j : Job) (c : EndCause) (s : State) : State :=
  { setJob p none s with reports := s.reports ++ [⟨p, j.src, j.dst, j.done, c⟩] }

/-- The Data Mover takes a cancel or a stop for a port (R165): a RUNNING job becomes STOPPING and
ends at once unless one of its pages is in progress; otherwise it has no effect. -/
def stopJob (p : Port) (c : StopCause) (s : State) : State :=
  match jobAt s p with
  | none => s
  | some j =>
    match j.state with
    | .stopping _ => s
    | .running =>
      if copyPageOf s.page p then setJob p (some { j with state := .stopping c }) s
      else endJob p j (endCauseOf c) s

/-- Stop requests for every port of a list, in its order (R25). The manual gives the stop requests
of one handling no order; the model sends them in ascending port number, which decides the order of
the job-end reports of jobs that end at once (DESIGN CHOICE, unsafe; log 28). -/
def stopJobs (ps : List Port) (s : State) : State :=
  ps.foldl (fun s p => stopJob p .aborted s) s

/-! ### Retirement and return (R10, R11) -/

/-- Who receives REVOKED when a record is retired (R11, R15): every party that had access but the
caller of FREE, and for FORCE_FREE the owner whatever its access. -/
def revokedAtRetirement (l : Live) (cause : Cause) (caller : Option Port) (p : Port) : Bool :=
  (access l p != .none || (cause == .forceFree && l.owner == p)) && caller != some p

/-- The windows and notices of a retirement (R11 step 1): a void request naming the handle to each
Host Port, and REVOKED to the ports it is for. -/
def revokeAll (l : Live) (h : Handle) (cause : Cause) (caller : Option Port) (s : State) : State :=
  updPorts (fun p hp =>
    let hp := onSlots (voidSlot h) hp
    if revokedAtRetirement l cause caller p then takeAppend (.revoked h cause) hp else hp) s

/-- Remove every Directory entry that names a buffer (R111). -/
def unpublishAll (b : BufNo) (s : State) : State :=
  { s with dir := s.dir.filter (fun e => e.handle.buf != b) }

/-- A live record becomes VACANT (R11): windows voided and REVOKED posted, Directory entries
removed, the chain appended to the Scrub Queue, the owner's counts lowered, the generation
advanced, every other field absent. -/
def retire (b : BufNo) (l : Live) (cause : Cause) (caller : Option Port) (s : State) : State :=
  let h := handleAt s b
  let pages := chainOf s l
  s |> revokeAll l h cause caller
    |> unpublishAll b
    |> scrubPages pages
    |> lowerCounts l.owner 1 l.length
    |> setRec b ⟨h.gen + 1, none⟩

/-- A lent record returns to its owner (R10, R132, R137, R184): HELD with the share set empty,
borrower and countdown absent, the borrower's slots voided. -/
def returnToOwner (b : BufNo) (l : Live) (borrower : Port) (s : State) : State :=
  s |> setLive b { l with st := .held noPorts } |> voidAt borrower (handleAt s b)

/-- A port leaves a HELD record's share set and its slots on the buffer are voided (R8, R107,
R109, R185). -/
def leaveShare (b : BufNo) (l : Live) (p : Port) (s : State) : State :=
  s |> setLive b { l with st := .held (perSet (shareOf l) p false) } |> voidAt p (handleAt s b)

/-- An offer ends without ACCEPT (R9): the entry becomes free and the record it names returns to
HELD with the same owner. -/
def endOffer (id : OfferId) (o : Offer) (s : State) : State :=
  let s := setOffer id none s
  match liveAt s o.handle.buf with
  | none => s
  | some l =>
    if l.st = .offered id then setLive o.handle.buf { l with st := .held noPorts } s else s

/-! ### Pending revocations (R25) -/

/-- Whether a pending revocation retires the record: FORCE_FREE, or the owner's teardown. -/
def retires (l : Live) (r : Revocation) : Bool :=
  match r.kind with
  | .forceFree => true
  | .teardown => r.port = l.owner
  | .expiry => false

/-- Whether a pending revocation waits for a port's mark (R25). -/
def waitsFor (l : Live) (r : Revocation) (p : Port) : Bool :=
  perGet l.marks p && (retires l r || r.port = p)

/-- Whether a record holds a pending revocation that has no mark left to wait for (R166). -/
def revocationReady (l : Live) : Bool :=
  match l.pendingRev with
  | none => false
  | some r => allPorts.all (fun p => !waitsFor l r p)

/-- A forced cause that retires the record is taken for a record with marks (R25, R183, R198): it
takes the place of a waiting revocation that does not retire the record, and every marked job is
asked to stop, in ascending port number (log 28). -/
def awaitRetirement (b : BufNo) (l : Live) (r : Revocation) (s : State) : State :=
  let pr := match l.pendingRev with
    | none => r
    | some old => if retires l old then old else r
  s |> setLive b { l with pendingRev := some pr } |> stopJobs (portsIn l.marks)

/-- The offer of an OFFERED record is removed for FORCE_FREE (R9, R198 step 1): its entry becomes
free and WITHDRAWN goes to the target. -/
def removeOffer (b : BufNo) (l : Live) (s : State) : State :=
  match offerRefOf l with
  | none => s
  | some id =>
    match offerAt s id with
    | none => s
    | some o => s |> endOffer id o |> notify o.dst (.withdrawn id (handleAt s b))

/-- The retirement a FORCE_FREE makes, with the offer removed first when the record is OFFERED
(R9, R198 steps 1 and 4). -/
def forceRetire (b : BufNo) (l : Live) (s : State) : State :=
  s |> removeOffer b l |> retire b l .forceFree none

/-- A waiting revocation is completed (R25, R166): the transition its cause calls for, with its
voids and notices, and the pending revocation cleared. -/
def completeRevocation (b : BufNo) (s : State) : State :=
  match liveAt s b with
  | none => s
  | some l =>
    match l.pendingRev with
    | none => s
    | some r =>
      let l := { l with pendingRev := none }
      let h := handleAt s b
      match r.kind with
      | .forceFree => forceRetire b l s
      | .expiry =>
        match borrowerOf l with
        | none => setLive b l s
        | some q =>
          s |> returnToOwner b l q |> notify q (.revoked h .expiry)
            |> notify l.owner (.returned h .forced)
      | .teardown =>
        if r.port = l.owner then retire b l .peerLost none s
        else if borrowerOf l = some r.port then
          s |> returnToOwner b l r.port |> notify l.owner (.returned h .peerLost)
        else if isHeld l then
          s |> leaveShare b l r.port |> notify l.owner (.left h r.port .peerLost)
        else setLive b l s

/-- Complete a record's revocation if it no longer waits (R166 step 4). -/
def settleRevocation (b : BufNo) (s : State) : State :=
  match liveAt s b with
  | none => s
  | some l => if revocationReady l then completeRevocation b s else s

/-- Remove a port from a record's copy marks (R24, R166 step 3). -/
def unmark (b : BufNo) (p : Port) (s : State) : State :=
  match liveAt s b with
  | none => s
  | some l => setLive b { l with marks := perSet l.marks p false } s

/-- Add a port to a record's copy marks (R24, R161). -/
def mark (b : BufNo) (p : Port) (s : State) : State :=
  match liveAt s b with
  | none => s
  | some l => setLive b { l with marks := perSet l.marks p true } s

/-! ### The Table Controller's arbiter (R75, R76, R78) -/

/-- Whether the active walk waits: the record at its position holds a pending revocation
(R186; log 15). -/
def walkWaits (s : State) : Bool :=
  match s.walkPhase with
  | .offers => false
  | .buffers =>
    match bufNoOf s.walkPos with
    | none => false
    | some b =>
      match liveAt s b with
      | none => false
      | some l => l.pendingRev.isSome

/-- Whether the Maintenance Port holds a request it routes to the Table Controller (R75, R192). -/
def maintPresents (m : MaintState) : Bool :=
  match m with
  | .pending req =>
    match requestOf req.code with
    | none => false
    | some r => tableRequest r
  | _ => false

/-- The ticks that the tick handling in progress took at its start (R134; log 10). -/
def ticksTaken (s : State) : Option Nat :=
  match s.underway with
  | some (.ticks k) => some k
  | _ => none

/-- The command slot of a port whose command was taken and is being handled while the port's teardown
has started (R74; log 27). -/
def slotTaken (s : State) (p : Port) : Option CmdSlot :=
  match s.underway with
  | some (.command q slot) => if q = p then some slot else none
  | _ => none

/-- Whether a requester presents a request (R75), or has one in progress (R77). -/
def presents (s : State) : Requester → Bool
  | .port p => (portAt s p).cmd.state = .pending || (slotTaken s p).isSome
  | .tick => 0 < s.pendingTicks || (ticksTaken s).isSome
  | .teardown => !s.walkList.isEmpty && !walkWaits s
  | .jobEnd => !s.reports.isEmpty
  | .maintenance => maintPresents s.maint

/-- Whether the arbiter may grant a requester: while HOLD is in force only maintenance (R78). -/
def grantable (s : State) (r : Requester) : Bool :=
  presents s r && (!s.hold || r = .maintenance)

/-- The requesters in ring order after one of them, that one last (R76). -/
def ringAfter : Requester → List Requester
  | .port .a => [.port .b, .port .c, .port .d, .tick, .teardown, .jobEnd, .maintenance, .port .a]
  | .port .b => [.port .c, .port .d, .tick, .teardown, .jobEnd, .maintenance, .port .a, .port .b]
  | .port .c => [.port .d, .tick, .teardown, .jobEnd, .maintenance, .port .a, .port .b, .port .c]
  | .port .d => [.tick, .teardown, .jobEnd, .maintenance, .port .a, .port .b, .port .c, .port .d]
  | .tick => [.teardown, .jobEnd, .maintenance, .port .a, .port .b, .port .c, .port .d, .tick]
  | .teardown => [.jobEnd, .maintenance, .port .a, .port .b, .port .c, .port .d, .tick, .teardown]
  | .jobEnd => [.maintenance, .port .a, .port .b, .port .c, .port .d, .tick, .teardown, .jobEnd]
  | .maintenance =>
    [.port .a, .port .b, .port .c, .port .d, .tick, .teardown, .jobEnd, .maintenance]

/-- The requester the arbiter grants next: the first after the last-granted one in the ring that
presents a request (R76, R78). -/
def nextGrant (s : State) : Option Requester := (ringAfter s.tcLast).find? (grantable s)

/-- The arbiter after an event (R76): a grant that stands is kept while its request is presented;
otherwise the next requester in the ring is granted. Nothing is granted while RST is asserted. -/
def arbitrate (s : State) : State :=
  if s.rst then { s with tcGrant := none }
  else
    match s.tcGrant with
    | none => { s with tcGrant := nextGrant s }
    | some r => if grantable s r then s else { s with tcGrant := nextGrant s }

/-- Whether the arbiter has granted a requester and its handling may run. -/
def granted (s : State) (r : Requester) : Bool :=
  !s.rst && s.tcGrant = some r && grantable s r

/-- The end of a handling (R76, R77): its requester becomes the last-granted one and the arbiter
grants again. -/
def endHandling (r : Requester) (s : State) : State :=
  arbitrate { s with tcLast := r, tcGrant := none }

/-! ### Teardown starts (R178 to R180) -/

/-- A teardown start reaches the Table Controller: the port joins the walk list, and becomes the
active walk with phase OFFERS and position 0 when the list was empty (R180). -/
def addWalk (p : Port) (s : State) : State :=
  if s.walkList = [] then { s with walkList := [p], walkPhase := .offers, walkPos := 0 }
  else { s with walkList := s.walkList ++ [p] }

/-- A teardown start meets the take of its port's granted command (R74): either comes first, as the
free value `Config.takenFirst` says (log 27). With the take first the slot is BUSY when the start
reaches it, and the handling goes on to its end. -/
def meetTake (p : Port) (s : State) : State :=
  if granted s (.port p) && (portAt s p).cmd.state = .pending then
    let u := { s with freeCount := s.freeCount + 1 }
    let slot := { (portAt s p).cmd with state := .idle, cancelRequested := false }
    if Config.takenFirst s.freeCount then
      updPort p takeCommand { u with underway := some (.command p slot) }
    else u
  else s

/-- A teardown cause at a Host Port (R178): an ATTACHED port makes the start step of R179; in
TEARDOWN or DETACHED the cause has no effect. -/
def teardownCause (p : Port) (c : TeardownCause) (s : State) : State :=
  if attached s p then
    s |> meetTake p |> updPort p (startStepPort c) |> stopJob p .aborted |> addWalk p
  else s

/-- A fault raised by an access (R176), after the access has been answered. -/
def raiseFault (p : Port) (k : FaultKind) (off : Nat) (acc : Access) (s : State) : State :=
  if attached s p then
    match perGet s.cfg.policy p with
    | .report => updPort p (fun hp => { hp with fault := addFault k off acc hp.fault }) s
    | .detach => teardownCause p (.fault k) s
  else s

/-! ### The Memory Arbiter (R29, R30) -/

/-- The place of a requester in the fixed ring A, B, C, D, Data Mover, Maintenance Port (R30). -/
def memRingPlace : MemRequester → Nat
  | .host .a => 0 | .host .b => 1 | .host .c => 2 | .host .d => 3 | .mover => 4 | .maintenance => 5

/-- How many places after the last-granted requester one stands in the ring (R30). -/
def memRingDistance (last r : MemRequester) : Nat :=
  (memRingPlace r + 5 - memRingPlace last) % 6

/-- Whether one waiting requester is granted before another (R30). -/
def memBefore (last r q : MemRequester) : Bool := memRingDistance last r < memRingDistance last q

/-- Whether the Data Mover has raised a transfer that has not been granted (R29, R33). -/
def moverWaiting (s : State) : Bool :=
  match s.page with
  | some (.scrub _ served) => !served
  | some (.copyRead _ captured) => captured.isNone
  | some (.copyWrite _ _ served) => !served
  | none => false

/-- The source page of a port's copy page in progress (R163). -/
def copySource (s : State) (p : Port) : Option PageNo :=
  match jobAt s p with
  | none => none
  | some j => resolveIndex s j.src.buf (j.srcStart + j.done)

/-- The destination page of a port's copy page in progress (R163). -/
def copyDest (s : State) (p : Port) : Option PageNo :=
  match jobAt s p with
  | none => none
  | some j => resolveIndex s j.dst.buf (j.dstStart + j.done)

/-- The Memory Arbiter grants the Data Mover's waiting transfer and serves it whole (R31, R33): a
zero-fill, the capture of a source page, or the write of a captured page. None when a page index
does not resolve (log 18). -/
def serveMover (s : State) : Option State :=
  match s.page with
  | some (.scrub pg false) =>
    some { s with
      mem := memWriteRun s.mem (pageAddr pg 0) zeroPage
      page := some (.scrub pg true)
      memLast := .mover }
  | some (.copyRead p none) =>
    match copySource s p with
    | none => none
    | some pg =>
      some { s with
        page := some (.copyRead p (some (memReadRun s.mem (pageAddr pg 0) 64)))
        memLast := .mover }
  | some (.copyWrite p bytes false) =>
    match copyDest s p with
    | none => none
    | some pg =>
      some { s with
        mem := memWriteRun s.mem (pageAddr pg 0) bytes
        page := some (.copyWrite p bytes true)
        memLast := .mover }
  | _ => some s

/-- The Memory Arbiter grants a host's or the Maintenance Port's transfer (R30). While the Data
Mover's transfer is waiting it may come first: it does when the mover stands before the requester in
the ring, and else the free value `Config.moverGrantedFirst` says whether it was granted before this
request arrived (log 5). -/
def memGrant (r : MemRequester) (s : State) : Option State :=
  if moverWaiting s then
    let u := { s with freeCount := s.freeCount + 1 }
    if memBefore s.memLast .mover r || Config.moverGrantedFirst s.freeCount then
      (serveMover u).map (fun t => { t with memLast := r })
    else some { u with memLast := r }
  else some { s with memLast := r }

/-! ### What the pins of a port give -/

/-- The byte a host read of a location drives (R205): none while RST is asserted, when no access is
taken. -/
def readAt (s : State) (p : Port) (off : Nat) : Option Byte :=
  if s.rst then none else readLocation (portAt s p) off

/-- The level of a port's ATN: low while RST is asserted (R156, R205). -/
def atnAt (s : State) (p : Port) : Bool := !s.rst && atnLevel (portAt s p)

/-! ### How a step ends -/

/-- A step that ends in a next state, the arbiter having granted afresh where it must. -/
def done (s : State) : Host.Outcome State Fault Refusal := .next (arbitrate s)

/-- A step that a page index without a page stops (log 18). -/
def doneOrStuck : Option State → Host.Outcome State Fault Refusal
  | some s => done s
  | none => .fault .pageNotResolved

/-- A host bus cycle or a change at the Host Port: nothing is taken while RST is asserted (R205). -/
def hostStep (s : State) (f : State → State) : Host.Outcome State Fault Refusal :=
  if s.rst then .next s else done (f s)

/-- The handling of a request of the Table Controller (R77): it runs when its requester's grant
stands, and its end lets the arbiter grant again. A request that is not granted is not handled
(R75; log 2). -/
def handling (r : Requester) (s : State) (f : State → State) : Host.Outcome State Fault Refusal :=
  if granted s r then .next (endHandling r (f s)) else .next s

end Sys2Proof.Machine
end

