-- ==== Sys2Proof/Machine/PortCommand.lean ====
section
/-! DEFINITION. The path every posted command takes (chapter 4): its take, the checks of code,
port state and handle that come before its own, and its completion. -/

namespace Sys2Proof.Machine

/-- A posted parameter byte of a port (R66), numbered from offset 0x50. -/
def param (s : State) (p : Port) (i : Nat) : Byte := byteAt (portAt s p).cmd.postedParams i

/-- A posted 16-bit parameter of a port (R202). -/
def paramNum (s : State) (p : Port) (i : Nat) : Nat := numAt (portAt s p).cmd.postedParams i

/-- The command a port has posted: none for a code that is no command (R79). -/
def postedCommand (s : State) (p : Port) : Option Command :=
  commandOf (portAt s p).cmd.postedCode

/-- What the checks of a command answer: the result of the first that fails, or the state after
its effects and the bytes of its result area (R79, R81). -/
abbrev Answer := Except Result (State × List Byte)

/-- The completion of a command (R70, R79, R81): a refused command leaves everything as it was,
with a result area of zeros. -/
def completeAnswer (p : Port) (s : State) : Answer → State
  | .error r => complete p r [] s
  | .ok (t, area) => complete p .ok area t

/-- The rest of a handling whose port's teardown started after the take (R74, R143; log 27): it reads
the slot that was taken, its changes stand, and its completion is discarded. The slot the port holds
now is not its own and stays. -/
def runOn (p : Port) (slot : CmdSlot) (f : State → State) (s : State) : State :=
  { f (updPort p (fun hp => { hp with cmd := slot }) s) with underway := none }
    |> updPort p (fun hp => { hp with cmd := (portAt s p).cmd })

/-- The handling of the command posted at a port (R69, R77): it runs when the port's grant stands
and the posted code is the command's; the slot becomes BUSY, and the handling follows. A handling
that is in progress already runs to its end. -/
def portHandling (p : Port) (c : Option Command) (s : State) (f : State → State) :
    Host.Outcome State Fault Refusal :=
  match slotTaken s p with
  | none =>
    if granted s (.port p) && postedCommand s p = c then
      .next (endHandling (.port p) (f (updPort p takeCommand s)))
    else .next s
  | some slot =>
    if granted s (.port p) && commandOf slot.postedCode = c then
      .next (endHandling (.port p) (runOn p slot f s))
    else .next s

/-- Whether the check of the port state passes (R79): the port is ATTACHED, or was when its command,
still being handled, was taken. -/
def admitted (s : State) (p : Port) : Bool := attached s p || (slotTaken s p).isSome

/-- The checks and effects of a command from an ATTACHED port; from any other it is refused with
DETACHED (R79). -/
def fromAttached (p : Port) (body : State → Answer) (s : State) : State :=
  if admitted s p then completeAnswer p s (body s) else complete p .detached [] s

/-- Handle validation (R5) of the handle at a place of the posted parameters: RANGE for a buffer
number above 1023, BAD_HANDLE for a VACANT record or a generation that differs. -/
def checkHandle (s : State) (p : Port) (i : Nat) : Except Result (BufNo × Live) :=
  match bufNoOf (paramNum s p i) with
  | none => .error .range
  | some b =>
    match liveAt s b with
    | none => .error .badHandle
    | some l => if genAt s b = param s p (i + 2) then .ok (b, l) else .error .badHandle

/-- The caller's owned buffers and owned pages as four bytes (section 12.3). -/
def countsBytes (s : State) (p : Port) : List Byte :=
  bytes16 (countsAt s p).buffers ++ bytes16 (countsAt s p).pages

end Sys2Proof.Machine
end

