-- ==== Sys2Proof/Machine/Attachment.lean ====
section
/-! DEFINITION. Port attachment and faults (chapter 10) and CLEAR_LOST (R153): BAD_COMMAND, ATTACH,
DETACH, CLEAR_FAULT, CLEAR_LOST. -/

namespace Sys2Proof.Machine

/-- What the Host Port does with an attach request (R172). -/
def takeAttach (hp : HostPort) : HostPort := { hp with state := .attached }

/-- ATTACH (R172), in every port state: ALREADY when ATTACHED, DETACHED in TEARDOWN or with PRST
asserted; else the port becomes ATTACHED and the result reports its last teardown cause. The attach
request and the completion are one action (DESIGN CHOICE, unsafe; log 30). -/
def attachAnswer (p : Port) (s : State) : Answer :=
  let hp := portAt s p
  if hp.state = .attached then .error .already
  else if hp.state = .teardown then .error .detached
  else if hp.prst then .error .detached
  else .ok (updPort p takeAttach s,
    [portByte p, teardownCode hp.lastCause, teardownFaultCode hp.lastCause])

/-- DETACH from an ATTACHED port (R82, R174): completed with OK, then a teardown cause. No other cause
comes between the two (DESIGN CHOICE, unsafe; log 30). -/
def detachFrom (p : Port) (s : State) : State :=
  if attached s p then s |> complete p .ok [] |> teardownCause p .detach
  else complete p .detached [] s

/-- CLEAR_FAULT (R177): the record as it stands is the result, and the record is emptied. -/
def clearFaultAnswer (p : Port) (s : State) : Answer :=
  .ok (updPort p (fun hp => { hp with fault := none }) s, faultBytes (portAt s p).fault)

/-- CLEAR_LOST (R153): LOST is reported with the notice count, and cleared. -/
def clearLostAnswer (p : Port) (s : State) : Answer :=
  .ok (updPort p (fun hp => { hp with lost := false }) s,
    [byteOfBool (portAt s p).lost, byteOf (portAt s p).queue.length])

/-! ### Meanings -/

/-- BAD_COMMAND (R79): a posted code that is no command, in every port state. -/
def execBadCommand (p : Port) (s : State) : Host.Outcome State Fault Refusal :=
  portHandling p none s (complete p .badCommand [])

/-- ATTACH (R172). -/
def execAttach (p : Port) (s : State) : Host.Outcome State Fault Refusal :=
  portHandling p (some .attach) s (fun s => completeAnswer p s (attachAnswer p s))

/-- DETACH (R174). -/
def execDetach (p : Port) (s : State) : Host.Outcome State Fault Refusal :=
  portHandling p (some .detach) s (detachFrom p)

/-- CLEAR_FAULT (R177). -/
def execClearFault (p : Port) (s : State) : Host.Outcome State Fault Refusal :=
  portHandling p (some .clearFault) s (fromAttached p (clearFaultAnswer p))

/-- CLEAR_LOST (R153). -/
def execClearLost (p : Port) (s : State) : Host.Outcome State Fault Refusal :=
  portHandling p (some .clearLost) s (fromAttached p (clearLostAnswer p))

end Sys2Proof.Machine
end

