-- ==== Sys2Proof/Machine/Directory.lean ====
section
/-! DEFINITION. The Directory (chapter 6): PUBLISH, UNPUBLISH, LOOKUP, NEXT, SUBSCRIBE. -/

namespace Sys2Proof.Machine

/-- Insert an entry at the place its name takes in the order (R110). -/
def dirInsert (e : DirEntry) : List DirEntry → List DirEntry
  | [] => [e]
  | x :: xs => if e.name < x.name then e :: x :: xs else x :: dirInsert e xs

/-- The entry that carries a name. -/
def dirFind (d : List DirEntry) (name : Nat) : Option DirEntry := d.find? (fun e => e.name = name)

/-- The entry with the least name greater than the one given: the first such one, since the
entries stand in ascending order (R110, R115). -/
def dirNext (d : List DirEntry) (name : Nat) : Option DirEntry := d.find? (fun e => name < e.name)

/-- The most entries the Directory holds (R110). -/
def dirSize : Nat := 64

/-- The current length of the buffer an entry names (R114); R111 makes that buffer live. -/
def entryLength (s : State) (e : DirEntry) : Byte :=
  match liveAt s e.handle.buf with
  | none => 0
  | some l => byteOf l.length

/-- PUBLISH (R112). -/
def publishAnswer (p : Port) (s : State) : Answer :=
  match checkHandle s p 0 with
  | .error r => .error r
  | .ok (b, l) =>
    let name := paramNum s p 3
    if name = 0 then .error .range
    else
      match dirModeOf (param s p 5) with
      | none => .error .range
      | some mode =>
        if l.owner ≠ p then .error .notOwner
        else if !isHeld l then .error .state
        else if (dirFind s.dir name).isSome then .error .duplicate
        else if dirSize ≤ s.dir.length then .error .dirFull
        else
          let d := dirInsert ⟨name, handleAt s b, p, mode⟩ s.dir
          .ok ({ s with dir := d }, [byteOf d.length])

/-- UNPUBLISH (R113). -/
def unpublishAnswer (p : Port) (s : State) : Answer :=
  let name := paramNum s p 0
  if name = 0 then .error .range
  else
    match dirFind s.dir name with
    | none => .error .notFound
    | some e =>
      if e.publisher ≠ p then .error .notOwner
      else
        let d := s.dir.filter (fun x => x.name != name)
        .ok ({ s with dir := d }, handleBytes e.handle ++ [byteOf d.length])

/-- LOOKUP (R114). -/
def lookupAnswer (p : Port) (s : State) : Answer :=
  let name := paramNum s p 0
  if name = 0 then .error .range
  else
    match dirFind s.dir name with
    | none => .error .notFound
    | some e =>
      .ok (s, handleBytes e.handle ++ [portByte e.publisher, dirModeCode e.mode, entryLength s e])

/-- NEXT (R115). -/
def nextAnswer (p : Port) (s : State) : Answer :=
  match dirNext s.dir (paramNum s p 0) with
  | none => .error .notFound
  | some e =>
    .ok (s, bytes16 e.name ++ handleBytes e.handle ++
      [portByte e.publisher, dirModeCode e.mode, entryLength s e])

/-- SUBSCRIBE (R116, R117): the caller joins the share set and the owner receives JOINED. The owner's
port state (check 6) and its queue (check 8) are read at one moment, with no teardown start of the
owner between them (DESIGN CHOICE, unsafe; log 32). -/
def subscribeAnswer (p : Port) (s : State) : Answer :=
  let name := paramNum s p 0
  if name = 0 then .error .range
  else
    match dirFind s.dir name with
    | none => .error .notFound
    | some e =>
      match liveAt s e.handle.buf with
      | none => .error .notFound
      | some l =>
        if l.owner = p then .error .self
        else if e.mode = .listed then .error .notOpen
        else if !isHeld l then .error .state
        else if !attached s e.publisher then .error .peerLost
        else if perGet (shareOf l) p then .error .already
        else if !queueAdmits s l.owner then .error .queueFull
        else
          let h := handleAt s e.handle.buf
          .ok (s |> setLive e.handle.buf { l with st := .held (perSet (shareOf l) p true) }
              |> notify l.owner (.joined h p name),
            handleBytes h ++ [byteOf l.length, portByte l.owner])

/-! ### Meanings -/

/-- PUBLISH (R112). -/
def execPublish (p : Port) (s : State) : Host.Outcome State Fault Refusal :=
  portHandling p (some .publish) s (fromAttached p (publishAnswer p))

/-- UNPUBLISH (R113). -/
def execUnpublish (p : Port) (s : State) : Host.Outcome State Fault Refusal :=
  portHandling p (some .unpublish) s (fromAttached p (unpublishAnswer p))

/-- LOOKUP (R114). -/
def execLookup (p : Port) (s : State) : Host.Outcome State Fault Refusal :=
  portHandling p (some .lookup) s (fromAttached p (lookupAnswer p))

/-- NEXT (R115). -/
def execNextName (p : Port) (s : State) : Host.Outcome State Fault Refusal :=
  portHandling p (some .next) s (fromAttached p (nextAnswer p))

/-- SUBSCRIBE (R117). -/
def execSubscribe (p : Port) (s : State) : Host.Outcome State Fault Refusal :=
  portHandling p (some .subscribe) s (fromAttached p (subscribeAnswer p))

end Sys2Proof.Machine
end

