-- ==== Sys2Proof/Machine/Frames.lean ====
section
/-! DEFINITION. SPI frames and configuration (sections 11.1 and 11.2): REQUEST_FRAME, FETCH_FRAME,
UNKNOWN_FRAME. -/

namespace Sys2Proof.Machine

/-! ### Configuration (R193, R204) -/

/-- The configuration items; a per-port item carries the port that was named. -/
inductive CfgItem where
  | bufQuota (p : Port) | pageQuota (p : Port) | policy (p : Port)
  | offerTicks | recallTicks | tickDiv
  deriving DecidableEq, Repr

/-- The item that an item byte and a port byte name: none for an unknown item and for a port above
3 of a per-port item; the port byte of any other item is ignored (R193, R204). -/
def cfgItemOf (item port : Byte) : Option CfgItem :=
  match item.toNat with
  | 1 => (portOf port).map .bufQuota
  | 2 => (portOf port).map .pageQuota
  | 3 => (portOf port).map .policy
  | 4 => some .offerTicks
  | 5 => some .recallTicks
  | 6 => some .tickDiv
  | _ => none

/-- The value of a fault policy (section 12.4). -/
def policyNum : Policy → Nat
  | .report => 0
  | .detach => 1

/-- The value of a configuration item. -/
def cfgGet (c : Cfg) : CfgItem → Nat
  | .bufQuota p => perGet c.bufQuota p
  | .pageQuota p => perGet c.pageQuota p
  | .policy p => policyNum (perGet c.policy p)
  | .offerTicks => c.offerTicks
  | .recallTicks => c.recallTicks
  | .tickDiv => c.tickDiv

/-- Whether a value lies in an item's range (R193). -/
def cfgInRange (v : Nat) : CfgItem → Bool
  | .bufQuota _ => v ≤ 1024
  | .pageQuota _ => v ≤ 8192
  | .policy _ => v ≤ 1
  | .offerTicks => 1 ≤ v && v ≤ 65535
  | .recallTicks => 1 ≤ v && v ≤ 65535
  | .tickDiv => v ≤ 255

/-- The configuration with an item set to a value. -/
def cfgSet (c : Cfg) (v : Nat) : CfgItem → Cfg
  | .bufQuota p => { c with bufQuota := perSet c.bufQuota p v }
  | .pageQuota p => { c with pageQuota := perSet c.pageQuota p v }
  | .policy p => { c with policy := perSet c.policy p (if v = 0 then .report else .detach) }
  | .offerTicks => { c with offerTicks := v }
  | .recallTicks => { c with recallTicks := v }
  | .tickDiv => { c with tickDiv := v }

/-- READ_CONFIG (R193, R204), served at the Maintenance Port. -/
def readConfig (ps : List Byte) (s : State) : State :=
  match cfgItemOf (byteAt ps 0) (byteAt ps 1) with
  | none => { s with maint := .ready .range [] }
  | some it => { s with maint := .ready .ok (bytes16 (cfgGet s.cfg it)) }

/-- WRITE_CONFIG (R193), served at the Maintenance Port: the value replaced is returned. -/
def writeConfig (ps : List Byte) (s : State) : State :=
  match cfgItemOf (byteAt ps 0) (byteAt ps 1) with
  | none => { s with maint := .ready .range [] }
  | some it =>
    if cfgInRange (numAt ps 2) it then
      { s with
        maint := .ready .ok (bytes16 (cfgGet s.cfg it))
        cfg := cfgSet s.cfg (numAt ps 2) it }
    else { s with maint := .ready .range [] }

/-! ### Frames -/

/-- The bytes shifted out in a frame of `n` whole bytes that answers nothing but the status byte
(R190): 0x00 after it. For the code and parameter bytes of a REQUEST frame the manual gives no value,
and 0x00 is the model's choice (DESIGN CHOICE, unsafe; log 31). -/
def shiftStatus (n : Nat) (s : State) : State :=
  { s with sdo := (maintStatus s.maint s.hold :: List.replicate n 0).take n }

/-- A complete REQUEST frame with a code in IDLE (R190, R192): an unknown code is answered
BAD_FRAME, a frame short of parameter bytes is discarded, READ_CONFIG and WRITE_CONFIG are served
at once, and any other request is held. -/
def takeRequest (code : Byte) (ps : List Byte) (s : State) : State :=
  match requestOf code with
  | none => { s with maint := .ready .badFrame [] }
  | some r =>
    if ps.length < requestLength r ps then s
    else
      match r with
      | .readConfig => readConfig ps s
      | .writeConfig => writeConfig ps s
      | _ => { s with maint := .pending ⟨code, ps.take (requestLength r ps)⟩ }

/-- A REQUEST frame with the bytes after its first (R190): judged by the port state at its
beginning. -/
def requestFrameStep (bytes : List Byte) (s : State) : State :=
  let t := shiftStatus (bytes.length + 1) s
  match s.maint, bytes with
  | .idle, code :: ps => takeRequest code ps t
  | _, _ => t

/-- A FETCH frame of `n` whole bytes (R191): in READY the response follows the status byte, and the
port becomes IDLE when the response status has been shifted out whole. -/
def fetchFrameStep (n : Nat) (s : State) : State :=
  match s.maint with
  | .ready status data =>
    let out := maintStatus s.maint s.hold :: statusCode status :: data
    { s with
      sdo := padTo n out
      maint := if 2 ≤ n then .idle else s.maint }
  | _ => shiftStatus n s

/-! ### Meanings -/

/-- REQUEST_FRAME (R190). -/
def execRequestFrame (bytes : List Byte) (s : State) : Host.Outcome State Fault Refusal :=
  if s.rst then .next s else done (requestFrameStep bytes s)

/-- FETCH_FRAME (R191). -/
def execFetchFrame (n : Nat) (s : State) : Host.Outcome State Fault Refusal :=
  if s.rst then .next s else done (fetchFrameStep n s)

/-- UNKNOWN_FRAME (R190): nothing follows the status byte and nothing changes. -/
def execUnknownFrame (_first : Byte) (n : Nat) (s : State) : Host.Outcome State Fault Refusal :=
  if s.rst then .next s else done (shiftStatus n s)

end Sys2Proof.Machine
end

