-- ==== Sys2Proof/Machine/HostWindow.lean ====
section
/-! DEFINITION. Host accesses to the window region (chapter 3): the direct view, the cursor data
ports, the cursor and page index locations and the window control. -/

namespace Sys2Proof.Machine

/-- What an access leaves on the data lines (R205): the byte for a read, nothing for a write or for
a read whose strobe is gone when RDY rises. -/
def drives (acc : Access) (v : Byte) : Option Byte :=
  match acc with
  | .read => some v
  | .readLost => none
  | .write _ => none

/-- The answer of a bus cycle (R205). -/
def answer (p : Port) (acc : Access) (v : Byte) (s : State) : State :=
  updPort p (fun hp => { hp with dataOut := drives acc v }) s

/-- Whether an access is a write that a slot's mode does not permit (R46, R47). -/
def forbiddenWrite (m : Mapping) (acc : Access) : Bool :=
  match acc, m.mode with
  | .write _, .read => true
  | _, _ => false

/-- An access served from the Page Memory (R32): one transfer at the Memory Arbiter, the page
resolved when it is granted, the byte read or stored. -/
def serveByte (p : Port) (acc : Access) (b : BufNo) (index : Nat) (byte : Fin 64) (s : State) :
    Option State :=
  match memGrant (.host p) s with
  | none => none
  | some s =>
    match resolveIndex s b index with
    | none => none
    | some pg =>
      let a := pageAddr pg byte.val
      match acc with
      | .write v => some (answer p acc 0 { s with mem := memWrite s.mem a v })
      | acc => some (answer p acc (memRead s.mem a) s)

/-- An access that is answered without the Page Memory: a read gives 0x00, a write is discarded
(R45). -/
def answerZero (p : Port) (acc : Access) (s : State) : State := answer p acc 0 s

/-- W0_DIRECT_VIEW_ACCESS (R46): byte `k` of W0's current page, by W0's state and mode. -/
def directViewAccess (p : Port) (k : Fin 64) (acc : Access) (s : State) :
    Host.Outcome State Fault Refusal :=
  match (portAt s p).w0 with
  | .empty => done (s |> answerZero p acc |> raiseFault p .unmappedAccess k.val acc)
  | .void _ => done (answerZero p acc s)
  | .mapped m =>
    if forbiddenWrite m acc then
      done (s |> answerZero p acc |> raiseFault p .readonlyWrite k.val acc)
    else doneOrStuck (serveByte p acc m.handle.buf m.pageIndex k s)

/-- The offset of a window's cursor data port (R47). -/
def dataPortOffset : Window → Nat
  | .w0 => 0x40
  | .w1 => 0x44

/-- The offset of a window's cursor (R51). -/
def cursorOffset : Window → Nat
  | .w0 => 0x41
  | .w1 => 0x45

/-- The offset of a window's page index (R52). -/
def pageIndexOffset : Window → Nat
  | .w0 => 0x42
  | .w1 => 0x46

/-- The position after a served cursor access (R48): the next byte, the first byte of the next
page, or the last byte with END set. -/
def advance (m : Mapping) : Mapping :=
  if m.cursor.val < 63 then { m with cursor := Fin.ofNat 64 (m.cursor.val + 1) }
  else if m.pageIndex + 1 < m.lengthCopy then { m with pageIndex := m.pageIndex + 1, cursor := 0 }
  else { m with endFlag := true }

/-- CURSOR_DATA_PORT_ACCESS (R47), the five cases in their order. -/
def dataPortAccess (p : Port) (w : Window) (acc : Access) (s : State) :
    Host.Outcome State Fault Refusal :=
  match slotAt w (portAt s p) with
  | .empty => done (s |> answerZero p acc |> raiseFault p .unmappedAccess (dataPortOffset w) acc)
  | .void _ => done (answerZero p acc s)
  | .mapped m =>
    if forbiddenWrite m acc then
      done (s |> answerZero p acc |> raiseFault p .readonlyWrite (dataPortOffset w) acc)
    else if m.endFlag then
      done (s |> answerZero p acc |> updPort p (putSlot w (.mapped { m with ovr := true })))
    else
      doneOrStuck
        ((serveByte p acc m.handle.buf m.pageIndex m.cursor s).map
          (updPort p (putSlot w (.mapped (advance m)))))

/-- A host write to a window's cursor (R51). -/
def writeCursor (p : Port) (w : Window) (v : Byte) (s : State) : State :=
  let s := answerZero p (.write v) s
  match slotAt w (portAt s p) with
  | .empty => raiseFault p .unmappedAccess (cursorOffset w) (.write v) s
  | .void _ => s
  | .mapped m =>
    if h : v.toNat < 64 then
      updPort p (putSlot w (.mapped { m with cursor := ⟨v.toNat, h⟩, endFlag := false })) s
    else raiseFault p .cursorRange (cursorOffset w) (.write v) s

/-- A host write to a window's page index (R52). -/
def writePageIndex (p : Port) (w : Window) (v : Byte) (s : State) : State :=
  let s := answerZero p (.write v) s
  match slotAt w (portAt s p) with
  | .empty => raiseFault p .unmappedAccess (pageIndexOffset w) (.write v) s
  | .void _ => s
  | .mapped m =>
    if v.toNat < m.lengthCopy then
      updPort p (putSlot w (.mapped { m with pageIndex := v.toNat, endFlag := false })) s
    else raiseFault p .cursorRange (pageIndexOffset w) (.write v) s

/-- The window control codes (section 12.1). -/
def unmapCode : Window → Byte
  | .w0 => 1
  | .w1 => 2

/-- UNMAP of a window (R54): the slot becomes EMPTY, whatever it held. -/
def unmapWindow (p : Port) (w : Window) (s : State) : State :=
  s |> answerZero p (.write (unmapCode w)) |> updPort p (putSlot w .empty)

/-- SWAP (R55): W0 and the saved slot exchange their whole records. -/
def swapWindows (p : Port) (s : State) : State :=
  s |> answerZero p (.write 3) |> updPort p (fun hp => { hp with w0 := hp.saved, saved := hp.w0 })

/-- A slot with OVR clear (R50). -/
def clearOvrSlot : WindowSlot → WindowSlot
  | .empty => .empty
  | .mapped m => .mapped { m with ovr := false }
  | .void m => .void { m with ovr := false }

/-- CLEAR OVR (R56): it clears OVR in W0 and in W1 whatever their states. -/
def clearOvrWindows (p : Port) (s : State) : State :=
  s |> answerZero p (.write 4)
    |> updPort p (fun hp => { hp with w0 := clearOvrSlot hp.w0, w1 := clearOvrSlot hp.w1 })

/-! ### Meanings -/

/-- W0_DIRECT_VIEW_ACCESS (R46). -/
def execW0DirectViewAccess (p : Port) (k : Fin 64) (acc : Access) (s : State) :
    Host.Outcome State Fault Refusal :=
  if s.rst then .next s else directViewAccess p k acc s

/-- CURSOR_DATA_PORT_ACCESS (R47). -/
def execCursorDataPortAccess (p : Port) (w : Window) (acc : Access) (s : State) :
    Host.Outcome State Fault Refusal :=
  if s.rst then .next s else dataPortAccess p w acc s

/-- CURSOR_WRITE (R51). -/
def execCursorWrite (p : Port) (w : Window) (v : Byte) (s : State) :
    Host.Outcome State Fault Refusal :=
  hostStep s (writeCursor p w v)

/-- PAGE_INDEX_WRITE (R52). -/
def execPageIndexWrite (p : Port) (w : Window) (v : Byte) (s : State) :
    Host.Outcome State Fault Refusal :=
  hostStep s (writePageIndex p w v)

/-- UNMAP (R54). -/
def execUnmap (p : Port) (w : Window) (s : State) : Host.Outcome State Fault Refusal :=
  hostStep s (unmapWindow p w)

/-- SWAP (R55). -/
def execSwap (p : Port) (s : State) : Host.Outcome State Fault Refusal :=
  hostStep s (swapWindows p)

/-- CLEAR_OVR (R56). -/
def execClearOvr (p : Port) (s : State) : Host.Outcome State Fault Refusal :=
  hostStep s (clearOvrWindows p)

end Sys2Proof.Machine
end

