-- ==== Sys2Proof/Machine/HostLocations.lean ====
section
/-! DEFINITION. Host writes to the other locations of a port (chapters 4, 8 and 10): posting,
acknowledge and cancel, pop, attention enables, the fault record, and the locations with no
behaviour of their own; and the cycle with both strobes. -/

namespace Sys2Proof.Machine

/-- A host write to offset 0x60 (R68): it posts a command in IDLE or DONE, and is discarded with
POST_WHILE_BUSY in PENDING or BUSY. -/
def postAt (p : Port) (code : Byte) (s : State) : State :=
  let s := answerZero p (.write code) s
  let c := (portAt s p).cmd
  if c.state = .idle ∨ c.state = .done then
    updPort p (fun hp => { hp with cmd := { c with
      state := .pending
      postedCode := code
      postedParams := c.params
      resultCode := 0
      resultArea := List.replicate 12 0
      cancelRequested := false } }) s
  else raiseFault p .postWhileBusy 0x60 (.write code) s

/-- A host write to offset 0x61 (R71): a DONE slot becomes IDLE; otherwise it is ignored. -/
def acknowledgeAt (p : Port) (v : Byte) (s : State) : State :=
  s |> answerZero p (.write v) |> updPort p (fun hp =>
    if hp.cmd.state = .done then { hp with cmd := { hp.cmd with state := .idle } } else hp)

/-- Whether a job-end report of a port is held (R73, R159). -/
def reportHeld (s : State) (p : Port) : Bool := s.reports.any (fun r => r.port = p)

/-- A host write to offset 0x63 (R72, R73): it withdraws a PENDING command with CANCELLED; for a
BUSY COPY it is forwarded to the Data Mover, or recorded while the job is not yet held; otherwise
it is ignored. -/
def cancelAt (p : Port) (v : Byte) (s : State) : State :=
  let s := answerZero p (.write v) s
  let c := (portAt s p).cmd
  match c.state with
  | .pending =>
    updPort p (fun hp => { hp with cmd := { c with
      state := .done
      resultCode := resultCode .cancelled
      resultArea := List.replicate 12 0 } }) s
  | .busy =>
    if c.postedCode = commandCode .copy then
      if (jobAt s p).isSome || reportHeld s p then stopJob p .cancelled s
      else updPort p (fun hp => { hp with cmd := { c with cancelRequested := true } }) s
    else s
  | _ => s

/-- A host write to offset 0x78 (R151): it removes the head notice, if there is one. -/
def popAt (p : Port) (v : Byte) (s : State) : State :=
  s |> answerZero p (.write v) |> updPort p (fun hp => { hp with queue := hp.queue.tail })

/-- A host write to offset 0x7B (R155): it sets the four enables. -/
def enablesAt (p : Port) (v : Byte) (s : State) : State :=
  s |> answerZero p (.write v) |> updPort p (fun hp => { hp with enables := enablesOf v })

/-- A host write to offset 0x7C (R175): it empties the fault record. -/
def clearRecordAt (p : Port) (v : Byte) (s : State) : State :=
  s |> answerZero p (.write v) |> updPort p (fun hp => { hp with fault := none })

/-- A host write to the parameter area (R67). -/
def storeParam (p : Port) (i : Nat) (v : Byte) (s : State) : State :=
  s |> answerZero p (.write v)
    |> updPort p (fun hp => { hp with cmd := { hp.cmd with params := hp.cmd.params.set i v } })

/-- A host write to a read-only location (R53, R67, R150, R175): discarded, with
WRITE_TO_READ_ONLY_LOCATION. -/
def readOnlyWrite (p : Port) (off : Nat) (v : Byte) (s : State) : State :=
  s |> answerZero p (.write v) |> raiseFault p .writeToReadOnlyLocation off (.write v)

/-- The window control at offset 0x48 (R54 to R56): its four codes; any other value is ignored. -/
def windowControlWrite (p : Port) (v : Byte) (s : State) : State :=
  if v = 1 then unmapWindow p .w0 s
  else if v = 2 then unmapWindow p .w1 s
  else if v = 3 then swapWindows p s
  else if v = 4 then clearOvrWindows p s
  else answerZero p (.write v) s

/-- A host write at any offset from 0x41 on, but the cursor data port 0x44, by the port map of
section 12.1. -/
def writeLocation (p : Port) (off : Nat) (v : Byte) (s : State) : State :=
  if off = 0x41 then writeCursor p .w0 v s
  else if off = 0x42 then writePageIndex p .w0 v s
  else if off = 0x45 then writeCursor p .w1 v s
  else if off = 0x46 then writePageIndex p .w1 v s
  else if off = 0x48 then windowControlWrite p v s
  else if 0x50 ≤ off ∧ off ≤ 0x5F then storeParam p (off - 0x50) v s
  else if off = 0x60 then postAt p v s
  else if off = 0x61 then acknowledgeAt p v s
  else if off = 0x63 then cancelAt p v s
  else if off = 0x78 then popAt p v s
  else if off = 0x7B then enablesAt p v s
  else if off = 0x7C then clearRecordAt p v s
  else readOnlyWrite p off v s

/-- A host write at an offset, by the port map of section 12.1. -/
def locationWrite (p : Port) (off : Fin 128) (v : Byte) (s : State) :
    Host.Outcome State Fault Refusal :=
  if h : off.val < 64 then directViewAccess p ⟨off.val, h⟩ (.write v) s
  else if off.val = 0x40 then dataPortAccess p .w0 (.write v) s
  else if off.val = 0x44 then dataPortAccess p .w1 (.write v) s
  else done (writeLocation p off.val v s)

/-! ### Meanings -/

/-- HOST_LOCATION_WRITE (R67): a parameter area byte is stored, an unknown window control value is
ignored, a write to a read-only location is discarded with its fault. At an offset of another row
the write has that location's meaning (log 25). -/
def execHostLocationWrite (p : Port) (off : Fin 128) (v : Byte) (s : State) :
    Host.Outcome State Fault Refusal :=
  if s.rst then .next s else locationWrite p off v s

/-- POST_COMMAND (R68). -/
def execPostCommand (p : Port) (code : Byte) (s : State) : Host.Outcome State Fault Refusal :=
  hostStep s (postAt p code)

/-- ACKNOWLEDGE (R71). -/
def execAcknowledge (p : Port) (v : Byte) (s : State) : Host.Outcome State Fault Refusal :=
  hostStep s (acknowledgeAt p v)

/-- CANCEL (R72, R73). -/
def execCancel (p : Port) (v : Byte) (s : State) : Host.Outcome State Fault Refusal :=
  hostStep s (cancelAt p v)

/-- POP (R151). -/
def execPop (p : Port) (v : Byte) (s : State) : Host.Outcome State Fault Refusal :=
  hostStep s (popAt p v)

/-- ATTENTION_ENABLES_WRITE (R155). -/
def execAttentionEnablesWrite (p : Port) (v : Byte) (s : State) :
    Host.Outcome State Fault Refusal :=
  hostStep s (enablesAt p v)

/-- CLEAR_FAULT_RECORD (R175). -/
def execClearFaultRecord (p : Port) (v : Byte) (s : State) : Host.Outcome State Fault Refusal :=
  hostStep s (clearRecordAt p v)

/-- BOTH_STROBES_CYCLE (R205): no access is taken, the data lines are not driven, no fault is
raised. -/
def execBothStrobesCycle (p : Port) (s : State) : Host.Outcome State Fault Refusal :=
  hostStep s (updPort p (fun hp => { hp with dataOut := none }))

end Sys2Proof.Machine
end

