-- ==== Sys2Proof/Machine/Copy.lean ====
section
/-! DEFINITION. COPY (R160, R161) and the job-end report (R166). -/

namespace Sys2Proof.Machine

/-- Whether two runs of `n` page indexes share one (R160 check 6). -/
def runsOverlap (i j n : Nat) : Bool := i < j + n && j < i + n

/-- Whether a record holds a pending revocation (R161). -/
def holdsRevocation (s : State) (b : BufNo) : Bool :=
  match liveAt s b with
  | none => false
  | some l => l.pendingRev.isSome

/-- The checks of COPY after handle validation (R160), and the new job. -/
def copyChecks (p : Port) (s : State) : Except Result Job :=
  match checkHandle s p 0 with
  | .error r => .error r
  | .ok (src, ls) =>
    match checkHandle s p 4 with
    | .error r => .error r
    | .ok (dst, ld) =>
      let i := (param s p 3).toNat
      let j := (param s p 7).toNat
      let n := (param s p 8).toNat
      if n = 0 ∨ 32 < n then .error .range
      else if !allows (access ls p) .read then .error .noAccess
      else if !allows (access ld p) .write then .error .noAccess
      else if ls.length < i + n then .error .range
      else if ld.length < j + n then .error .range
      else if src = dst ∧ runsOverlap i j n then .error .overlap
      else .ok ⟨handleAt s src, i, handleAt s dst, j, n, 0, .running⟩

/-- The cancel-requested flag of a port's slot is cleared (R73). -/
def clearCancel (p : Port) (s : State) : State :=
  updPort p (fun hp => { hp with cmd := { hp.cmd with cancelRequested := false } }) s

/-- The Host Port takes the job-created signal (R161): in TEARDOWN it forwards a stop; a requested
cancel is forwarded and its flag cleared; otherwise nothing changes. -/
def jobCreated (p : Port) (s : State) : State :=
  if (portAt s p).state = .teardown then stopJob p .aborted s
  else if (portAt s p).cmd.cancelRequested then
    s |> stopJob p .cancelled |> clearCancel p
  else s

/-- A new job at the Data Mover (R161): STOPPING with cause ABORTED when either record holds a
pending revocation, and then it ends at once (R165); otherwise RUNNING. -/
def createJob (p : Port) (j : Job) (s : State) : State :=
  let s' := setJob p (some j) s
  if holdsRevocation s j.src.buf || holdsRevocation s j.dst.buf then stopJob p .aborted s' else s'

/-- An accepted COPY (R161): marks on both records, a new job, the job-created signal; no
completion, so the slot stays BUSY. -/
def acceptCopy (p : Port) (j : Job) (s : State) : State :=
  s |> mark j.src.buf p |> mark j.dst.buf p |> createJob p j |> jobCreated p

/-- A COPY is refused: completed with the result, and the cancel-requested flag cleared (R73). -/
def refuseCopy (p : Port) (r : Result) (s : State) : State :=
  s |> complete p r [] |> clearCancel p

/-- COPY from an ATTACHED port is refused by its checks or accepted (R160, R161); from any other it
is refused with DETACHED (R79). -/
def copyFrom (p : Port) (s : State) : State :=
  if admitted s p then
    match copyChecks p s with
    | .error r => refuseCopy p r s
    | .ok j => acceptCopy p j s
  else refuseCopy p .detached s

/-- Whether a record holds a pending revocation that waits for a port's mark (R166 step 1). -/
def waitsForMark (s : State) (b : BufNo) (p : Port) : Bool :=
  match liveAt s b with
  | none => false
  | some l =>
    match l.pendingRev with
    | none => false
    | some r => waitsFor l r p

/-- The result of a COPY (R166 step 1, R167). -/
def reportResult (s : State) (r : Report) : Result :=
  if r.cause = .aborted || waitsForMark s r.src.buf r.port || waitsForMark s r.dst.buf r.port then
    .aborted
  else
    match r.cause with
    | .ok => .ok
    | .cancelled => .cancelled
    | .aborted => .aborted

/-- The two records of a report in ascending buffer number, once when they are one (R166). -/
def ascending (a b : BufNo) : List BufNo :=
  if a = b then [a] else if a.val < b.val then [a, b] else [b, a]

/-- Remove a port's marks from the records of a job, once when they are one (R166 step 3). -/
def unmarkAll (bs : List BufNo) (p : Port) (s : State) : State :=
  bs.foldl (fun s b => unmark b p s) s

/-- Complete the revocations of a list of records that no longer wait (R166 step 4). -/
def settleRevocations (bs : List BufNo) (s : State) : State :=
  bs.foldl (fun s b => settleRevocation b s) s

/-- The Table Controller takes the oldest job-end report (R166): the completion first, then the
marks, then the revocations that no longer wait. -/
def takeReport (s : State) : State :=
  match s.reports with
  | [] => s
  | r :: rest =>
    { s with reports := rest }
      |> complete r.port (reportResult s r) [byteOf r.done]
      |> unmarkAll (ascending r.src.buf r.dst.buf) r.port
      |> settleRevocations (ascending r.src.buf r.dst.buf)

/-! ### Meanings -/

/-- COPY (R161). -/
def execCopy (p : Port) (s : State) : Host.Outcome State Fault Refusal :=
  portHandling p (some .copy) s (copyFrom p)

/-- JOB_END_REPORT (R166). -/
def execJobEndReport (s : State) : Host.Outcome State Fault Refusal :=
  handling .jobEnd s takeReport

end Sys2Proof.Machine
end

