-- ==== Sys2Proof/Machine/Mover.lean ====
section
/-! DEFINITION. The Data Mover (section 2.4 and chapter 9): scrub steps and copy pages. -/

namespace Sys2Proof.Machine

/-- Whether there is scrub work (R162). -/
def scrubWork (s : State) : Bool := !s.scrubQueue.isEmpty

/-- Whether a port's job is RUNNING (R162). -/
def runningJob (s : State) (p : Port) : Bool :=
  match jobAt s p with
  | none => false
  | some j => j.state = .running

/-- The ring of ports after the last copy port, that port last (R162). -/
def portsAfter (p : Port) : List Port :=
  [portAfter p, portAfter (portAfter p), portAfter (portAfter (portAfter p)), p]

/-- The port the next copy page goes to (R162): the first after the last copy port whose job is
RUNNING. -/
def nextCopyPort (s : State) : Option Port := (portsAfter s.lastCopy).find? (runningJob s)

/-- The kind of page work the mover begins (R162): none with a page in progress or while paused;
next kind if it has work, else the other. -/
def chosenKind (s : State) : Option WorkKind :=
  if s.page.isSome || s.paused || s.rst then none
  else
    match s.nextKind with
    | .scrub =>
      if scrubWork s then some .scrub else if (nextCopyPort s).isSome then some .copy else none
    | .copy =>
      if (nextCopyPort s).isSome then some .copy else if scrubWork s then some .scrub else none

/-- The start of a scrub step (R37): the Scrub Queue head becomes the current scrub page and a
zero-fill is raised; the page stays at the head. -/
def startScrub (s : State) : State :=
  match s.scrubQueue with
  | [] => s
  | pg :: _ => { s with page := some (.scrub pg false), nextKind := .copy }

/-- The end of a scrub step (R38): once the zero-fill has been served, the page moves from the
Scrub Queue head to the Free List tail and its place becomes FREE. -/
def endScrub (pg : PageNo) (s : State) : State :=
  { s with
    scrubQueue := s.scrubQueue.tail
    freeList := s.freeList ++ [pg]
    pageMap := tabSet .scrub s.pageMap pg.val .free
    page := none }

/-- The start of a copy page (R162, R163): it goes to the next RUNNING job and its page read is
raised. -/
def startCopyPage (s : State) : State :=
  match nextCopyPort s with
  | none => s
  | some p => { s with page := some (.copyRead p none), nextKind := .scrub, lastCopy := p }

/-- The read has ended: the page write is raised (R163). -/
def endRead (s : State) : State :=
  match s.page with
  | some (.copyRead p (some bytes)) => { s with page := some (.copyWrite p bytes false) }
  | _ => s

/-- The job is judged at the end of its copy page (R165), pages done having risen by one: STOPPING,
it ends with its stop cause; RUNNING with its count done, it ends OK. -/
def judgeJob (p : Port) (s : State) : State :=
  match jobAt s p with
  | none => s
  | some j =>
    let j := { j with done := j.done + 1 }
    match j.state with
    | .stopping c => endJob p j (endCauseOf c) s
    | .running => if j.done = j.count then endJob p j .ok s else setJob p (some j) s

/-- The write has ended: the copy page ends (R163). -/
def endWrite (s : State) : State :=
  match s.page with
  | some (.copyWrite p _ _) => judgeJob p { s with page := none }
  | _ => s

/-- The end of a scrub step, its zero-fill served now if it has not been (R38, log 5). -/
def scrubStepEnd (s : State) : Option State :=
  match s.page with
  | some (.scrub pg _) => (serveMover s).map (endScrub pg)
  | _ => some s

/-- The end of a copy page's read, served now if it has not been (R163, log 5). -/
def copyReadEnd (s : State) : Option State :=
  match s.page with
  | some (.copyRead _ _) => (serveMover s).map endRead
  | _ => some s

/-- The end of a copy page's write, served now if it has not been (R163, log 5). -/
def copyWriteEnd (s : State) : Option State :=
  match s.page with
  | some (.copyWrite _ _ _) => (serveMover s).map endWrite
  | _ => some s

/-- A page in progress runs to its end: a scrub step, or both phases of a copy page (R169, R194
step 2). -/
def finishPage (s : State) : Option State :=
  match s.page with
  | none => some s
  | some (.scrub _ _) => scrubStepEnd s
  | some (.copyRead _ _) =>
    match copyReadEnd s with
    | none => none
    | some s => copyWriteEnd s
  | some (.copyWrite _ _ _) => copyWriteEnd s

/-! ### Meanings -/

/-- SCRUB_STEP_START (R37): when the mover's choice is a scrub step. -/
def execScrubStepStart (s : State) : Host.Outcome State Fault Refusal :=
  if chosenKind s = some .scrub then done (startScrub s) else .next s

/-- SCRUB_STEP_END (R38): when a scrub step is in progress. -/
def execScrubStepEnd (s : State) : Host.Outcome State Fault Refusal :=
  if s.rst then .next s else doneOrStuck (scrubStepEnd s)

/-- COPY_PAGE_START (R162): when the mover's choice is a copy page. -/
def execCopyPageStart (s : State) : Host.Outcome State Fault Refusal :=
  if chosenKind s = some .copy then done (startCopyPage s) else .next s

/-- COPY_PAGE_READ_END (R163): when a copy page is in phase READ. -/
def execCopyPageReadEnd (s : State) : Host.Outcome State Fault Refusal :=
  if s.rst then .next s else doneOrStuck (copyReadEnd s)

/-- COPY_PAGE_WRITE_END (R163): when a copy page is in phase WRITE. -/
def execCopyPageWriteEnd (s : State) : Host.Outcome State Fault Refusal :=
  if s.rst then .next s else doneOrStuck (copyWriteEnd s)

end Sys2Proof.Machine
end

