-- ==== Sys2Proof/Machine/Ownership.lean ====
section
/-! DEFINITION. Owning buffers (chapter 5): ALLOC, EXTEND, TRIM, FREE, INFO. -/

namespace Sys2Proof.Machine

/-- The lowest-numbered VACANT record at or above a number, among the next `n` (R6). -/
def vacantFrom (t : List (Nat × BufRec)) (k : Nat) : Nat → Option Nat
  | 0 => none
  | n + 1 => if (tabGet vacantRec t k).live = none then some k else vacantFrom t (k + 1) n

/-- The lowest-numbered VACANT record (R6). -/
def lowestVacant (s : State) : Option BufNo :=
  match vacantFrom s.buffers 0 1024 with
  | none => none
  | some k => bufNoOf k

/-- The page quota check (R84): whether growth by `n` pages would exceed the port's page quota. -/
def overPages (s : State) (p : Port) (n : Nat) : Bool :=
  perGet s.cfg.pageQuota p < (countsAt s p).pages + n

/-- The quota check of one more buffer of `n` pages (R84). -/
def overQuota (s : State) (p : Port) (n : Nat) : Bool :=
  perGet s.cfg.bufQuota p < (countsAt s p).buffers + 1 || overPages s p n

/-- Pages taken from the head of the Free List and chained to a buffer, after the old tail page
when there is one (R19, R35). -/
def takeAndChain (b : BufNo) (oldTail : Option PageNo) (n : Nat) (s : State) : State :=
  let pages := s.freeList.take n
  let chain := match oldTail with
    | none => pages
    | some t => t :: pages
  { s with freeList := s.freeList.drop n, pageMap := linkChain b chain s.pageMap }

/-- A new record of `n` pages (R7). -/
def newLive (p : Port) (pages : List PageNo) (hd tl : PageNo) : Live where
  owner := p
  st := .held noPorts
  length := pages.length
  head := hd
  tail := tl
  marks := noPorts
  pendingRev := none
  forced := none

/-- ALLOC (R86, R87). -/
def allocAnswer (p : Port) (s : State) : Answer :=
  let n := (param s p 0).toNat
  if n = 0 ∨ 32 < n then .error .range
  else if overQuota s p n then .error .quota
  else
    match lowestVacant s with
    | none => .error .noRecord
    | some b =>
      if s.freeList.length < n then .error .noPages
      else
        match (s.freeList.take n).head?, (s.freeList.take n).getLast? with
        | some hd, some tl =>
          let t := s |> takeAndChain b none n
            |> setLive b (newLive p (s.freeList.take n) hd tl) |> raiseCounts p 1 n
          .ok (t, handleBytes (handleAt s b) ++ [byteOf n] ++ countsBytes t p)
        | _, _ => .error .noPages

/-- EXTEND (R88, R89): pages appended at the tail, then a length update to every port. -/
def extendAnswer (p : Port) (s : State) : Answer :=
  match checkHandle s p 0 with
  | .error r => .error r
  | .ok (b, l) =>
    let n := (param s p 3).toNat
    if n = 0 ∨ 32 < n then .error .range
    else if l.owner ≠ p then .error .notOwner
    else if !isHeld l then .error .state
    else if 32 < l.length + n then .error .range
    else if overPages s p n then .error .quota
    else if s.freeList.length < n then .error .noPages
    else
      match (s.freeList.take n).getLast? with
      | some tl =>
        let t := s |> takeAndChain b (some l.tail) n
          |> setLive b { l with length := l.length + n, tail := tl } |> raiseCounts p 0 n
          |> updPorts (fun _ => onSlots (lengthSlot (handleAt s b) (l.length + n)))
        .ok (t, [byteOf (l.length + n)] ++ bytes16 (countsAt t p).pages)
      | none => .error .noPages

/-- A trim request at one port with the notice that follows from it (R91 steps 4 and 5): REVOKED
cause TRIM to a port other than the caller that voided one or more slots. -/
def trimPort (caller : Port) (h : Handle) (n : Nat) (q : Port) (hp : HostPort) : HostPort :=
  let voided := countSlots (trimmed h n) hp
  let hp' := onSlots (trimSlot h n) hp
  if q ≠ caller ∧ 0 < voided then takeAppend (.revoked h .trim) hp' else hp'

/-- The last kept page becomes the tail and loses its next (R20). -/
def cutChain (b : BufNo) (tl : PageNo) (s : State) : State :=
  { s with pageMap := tabSet .scrub s.pageMap tl.val (.chained b none) }

/-- TRIM (R90, R91): pages removed from the tail to the Scrub Queue, then a trim request to every
port. -/
def trimAnswer (p : Port) (s : State) : Answer :=
  match checkHandle s p 0 with
  | .error r => .error r
  | .ok (b, l) =>
    let n := (param s p 3).toNat
    if n = 0 ∨ 32 < n then .error .range
    else if l.owner ≠ p then .error .notOwner
    else if !isHeld l then .error .state
    else if l.length ≤ n then .error .range
    else if !isEmptySet l.marks then .error .busy
    else
      let m := l.length - n
      let chain := chainOf s l
      let tl := ((chain.take m).getLast?).getD l.head
      let t := s |> scrubPages (chain.drop m) |> cutChain b tl
        |> setLive b { l with length := m, tail := tl } |> lowerCounts p 0 n
        |> updPorts (trimPort p (handleAt s b) m)
      .ok (t, [byteOf m] ++ bytes16 (countsAt t p).pages)

/-- FREE (R93, R94): retirement under R11. -/
def freeAnswer (p : Port) (s : State) : Answer :=
  match checkHandle s p 0 with
  | .error r => .error r
  | .ok (b, l) =>
    if l.owner ≠ p then .error .notOwner
    else if !isHeld l then .error .state
    else if !isEmptySet l.marks then .error .busy
    else
      let t := retire b l .freed (some p) s
      .ok (t, [byteOf l.length] ++ countsBytes t p)

/-- A port number in two bits; absent reads as 0 (R202). -/
def optPortNum : Option Port → Nat
  | none => 0
  | some q => portNum q

/-- The result area of INFO (R97, section 12.3). -/
def infoBytes (s : State) (p : Port) (l : Live) : List Byte :=
  [byteOf (bufStateCode l.st + 16 * accessCode (access l p)),
   byteOf (portNum l.owner + 4 * optPortNum (borrowerOf l)),
   byteOf (setNum (shareOf l) + 16 * setNum l.marks),
   byteOf l.length,
   byteOf (match offerRefOf l with | none => 0 | some id => id.val)]
  ++ bytes16 ((countdownOf l).getD 0) ++ countsBytes s p

/-- INFO (R96, R97). -/
def infoAnswer (p : Port) (s : State) : Answer :=
  match checkHandle s p 0 with
  | .error r => .error r
  | .ok (_, l) => .ok (s, infoBytes s p l)

/-! ### Meanings -/

/-- ALLOC (R87). -/
def execAlloc (p : Port) (s : State) : Host.Outcome State Fault Refusal :=
  portHandling p (some .alloc) s (fromAttached p (allocAnswer p))

/-- EXTEND (R89). -/
def execExtend (p : Port) (s : State) : Host.Outcome State Fault Refusal :=
  portHandling p (some .extend) s (fromAttached p (extendAnswer p))

/-- TRIM (R91). -/
def execTrim (p : Port) (s : State) : Host.Outcome State Fault Refusal :=
  portHandling p (some .trim) s (fromAttached p (trimAnswer p))

/-- FREE (R94). -/
def execFree (p : Port) (s : State) : Host.Outcome State Fault Refusal :=
  portHandling p (some .free) s (fromAttached p (freeAnswer p))

/-- INFO (R97). -/
def execInfo (p : Port) (s : State) : Host.Outcome State Fault Refusal :=
  portHandling p (some .info) s (fromAttached p (infoAnswer p))

end Sys2Proof.Machine
end

