-- ==== Sys2Proof/Machine/Lending.lean ====
section
/-! DEFINITION. Offers, lending and recall (chapter 7): LEND, GIVE, ACCEPT, DECLINE, WITHDRAW,
RECALL, RETURN. -/

namespace Sys2Proof.Machine

/-- The lowest-numbered free Offer Table entry at or above an id, among the next `n` (R120). -/
def freeOfferFrom (t : List (Nat × Option Offer)) (k : Nat) : Nat → Option Nat
  | 0 => none
  | n + 1 => if tabGet none t k = none then some k else freeOfferFrom t (k + 1) n

/-- The lowest-numbered free entry of the Offer Table (R120). -/
def lowestFreeOffer (s : State) : Option OfferId :=
  match freeOfferFrom s.offers 0 16 with
  | none => none
  | some k => offerNoOf k

/-- LEND and GIVE (R122, R123): they differ in the kind they give the offer. The target's port state
(check 7) and its queue (check 10) are read at one moment, with no teardown start of the target
between them (DESIGN CHOICE, unsafe; log 32). -/
def offerAnswer (kind : OfferKind) (p : Port) (s : State) : Answer :=
  match checkHandle s p 0 with
  | .error r => .error r
  | .ok (b, l) =>
    if l.owner ≠ p then .error .notOwner
    else if !isHeld l then .error .state
    else if !isEmptySet (shareOf l) then .error .shared
    else if param s p 3 = portByte p then .error .self
    else
      match portOf (param s p 3) with
      | none => .error .range
      | some q =>
        if !attached s q then .error .peerLost
        else if !isEmptySet l.marks then .error .busy
        else
          match lowestFreeOffer s with
          | none => .error .offerFull
          | some id =>
            if !queueAdmits s q then .error .queueFull
            else
              let h := handleAt s b
              .ok (s |> setOffer id (some ⟨kind, p, q, h, s.cfg.offerTicks⟩)
                  |> setLive b { l with st := .offered id, forced := none }
                  |> notify q (.offer id kind p h l.length),
                [byteOf id.val] ++ bytes16 s.cfg.offerTicks)

/-- The match of an ACCEPT or DECLINE against the offer entry (R124 checks 2 and 3): RANGE for an
id above 15; NO_OFFER when the entry is free, names another buffer or another target. -/
def matchOffer (p : Port) (b : BufNo) (s : State) : Except Result (OfferId × Offer) :=
  match offerIdOf (param s p 3) with
  | none => .error .range
  | some id =>
    match offerAt s id with
    | none => .error .noOffer
    | some o => if o.handle.buf = b ∧ o.dst = p then .ok (id, o) else .error .noOffer

/-- ACCEPT of a LEND (R125): the caller becomes the borrower, the owner's slots are voided and the
owner receives ACCEPTED. -/
def acceptLend (p : Port) (id : OfferId) (b : BufNo) (l : Live) (s : State) :
    State × List Byte :=
  let h := handleAt s b
  (s |> setOffer id none |> setLive b { l with st := .lent p } |> voidAt l.owner h
     |> notify l.owner (.accepted id h p),
   handleBytes h ++ [offerKindCode .lend, byteOf l.length, portByte l.owner])

/-- ACCEPT of a GIVE (R126): the caller becomes the owner, the counts move, the Directory entries
go, the old owner's slots are voided and it receives ACCEPTED. -/
def acceptGive (p : Port) (id : OfferId) (b : BufNo) (l : Live) (s : State) :
    State × List Byte :=
  let h := handleAt s b
  let t := s |> setOffer id none |> setLive b { l with owner := p, st := .held noPorts }
    |> lowerCounts l.owner 1 l.length |> raiseCounts p 1 l.length |> unpublishAll b
    |> voidAt l.owner h |> notify l.owner (.accepted id h p)
  (t, handleBytes h ++ [offerKindCode .give, byteOf l.length] ++ countsBytes t p)

/-- ACCEPT (R124 to R126). -/
def acceptAnswer (p : Port) (s : State) : Answer :=
  match checkHandle s p 0 with
  | .error r => .error r
  | .ok (b, l) =>
    match matchOffer p b s with
    | .error r => .error r
    | .ok (id, o) =>
      if !attached s o.src then .error .peerLost
      else if !isEmptySet l.marks then .error .busy
      else
        match o.kind with
        | .lend => .ok (acceptLend p id b l s)
        | .give => if overQuota s p l.length then .error .quota else .ok (acceptGive p id b l s)

/-- DECLINE (R127). -/
def declineAnswer (p : Port) (s : State) : Answer :=
  match checkHandle s p 0 with
  | .error r => .error r
  | .ok (b, _) =>
    match matchOffer p b s with
    | .error r => .error r
    | .ok (id, o) =>
      .ok (s |> endOffer id o |> notify o.src (.declined id (handleAt s b) .decline),
        [byteOf id.val])

/-- WITHDRAW (R128). -/
def withdrawAnswer (p : Port) (s : State) : Answer :=
  match checkHandle s p 0 with
  | .error r => .error r
  | .ok (b, l) =>
    if l.owner ≠ p then .error .notOwner
    else
      match offerRefOf l with
      | none => .error .state
      | some id =>
        match offerAt s id with
        | none => .error .state
        | some o =>
          .ok (s |> endOffer id o |> notify o.dst (.withdrawn id (handleAt s b)), [byteOf id.val])

/-- RECALL (R130): the countdown is the grace period, or RECALL_TICKS when that is 0. -/
def recallAnswer (p : Port) (s : State) : Answer :=
  match checkHandle s p 0 with
  | .error r => .error r
  | .ok (b, l) =>
    if l.owner ≠ p then .error .notOwner
    else
      match l.st with
      | .lent q =>
        let grace := paramNum s p 3
        let n := if grace = 0 then s.cfg.recallTicks else grace
        .ok (s |> setLive b { l with st := .recalling q n } |> notify q (.recall (handleAt s b) n),
          bytes16 n)
      | _ => .error .state

/-- RETURN (R131, R132). -/
def returnAnswer (p : Port) (s : State) : Answer :=
  match checkHandle s p 0 with
  | .error r => .error r
  | .ok (b, l) =>
    if l.forced = some p then .error .late
    else if borrowerOf l ≠ some p then .error .notBorrower
    else if perGet l.marks p then .error .busy
    else
      let h := handleAt s b
      .ok (s |> returnToOwner b l p |> notify l.owner (.returned h .returned),
        [byteOf (voidCount s p h)])

/-! ### Meanings -/

/-- LEND (R123). -/
def execLend (p : Port) (s : State) : Host.Outcome State Fault Refusal :=
  portHandling p (some .lend) s (fromAttached p (offerAnswer .lend p))

/-- GIVE (R123). -/
def execGive (p : Port) (s : State) : Host.Outcome State Fault Refusal :=
  portHandling p (some .give) s (fromAttached p (offerAnswer .give p))

/-- ACCEPT (R125, R126). -/
def execAccept (p : Port) (s : State) : Host.Outcome State Fault Refusal :=
  portHandling p (some .accept) s (fromAttached p (acceptAnswer p))

/-- DECLINE (R127). -/
def execDecline (p : Port) (s : State) : Host.Outcome State Fault Refusal :=
  portHandling p (some .decline) s (fromAttached p (declineAnswer p))

/-- WITHDRAW (R128). -/
def execWithdraw (p : Port) (s : State) : Host.Outcome State Fault Refusal :=
  portHandling p (some .withdraw) s (fromAttached p (withdrawAnswer p))

/-- RECALL (R130). -/
def execRecall (p : Port) (s : State) : Host.Outcome State Fault Refusal :=
  portHandling p (some .recall) s (fromAttached p (recallAnswer p))

/-- RETURN (R132). -/
def execReturnBuffer (p : Port) (s : State) : Host.Outcome State Fault Refusal :=
  portHandling p (some .ret) s (fromAttached p (returnAnswer p))

end Sys2Proof.Machine
end

