-- ==== Sys2Proof/Machine/Ticks.lean ====
section
/-! DEFINITION. The Deadline Unit and ticks (sections 7.5 and 7.6): DEADLINE_TICK, TICK_HANDLING,
OFFER_EXPIRY, RECALL_EXPIRY, and one period of CLK. -/

namespace Sys2Proof.Machine

/-- The periods of CLK in one tick period (R133). -/
def tickPeriod (tickDiv : Nat) : Nat := (tickDiv + 1) * 256

/-- The prescaler restarts at 0 and reads TICK_DIV for the period that begins (R133). -/
def restartPrescaler (s : State) : State :=
  { s with prescaler := 0, period := tickPeriod s.cfg.tickDiv }

/-- A tick arrives at the Table Controller (R134): it raises the pending-tick count, is lost at
255, and is discarded during HOLD. -/
def arriveTick (s : State) : State :=
  if s.hold then s
  else if s.pendingTicks < 255 then { s with pendingTicks := s.pendingTicks + 1 }
  else s

/-- The prescaler has counted its period: one tick, and the count restarts (R133). -/
def produceTick (s : State) : State := s |> restartPrescaler |> arriveTick

/-- One period of CLK (R133): the prescaler counts it, and produces a tick at its full period. -/
def clkPeriod (s : State) : State :=
  if s.prescaler + 1 < s.period then { s with prescaler := s.prescaler + 1 } else produceTick s

/-- What the part does when no command waits: one period of CLK passes (log 8); while RST is
asserted the prescaler stands. -/
def idle (s : State) : Host.Outcome State Fault Refusal :=
  if s.rst then .next s else done (clkPeriod s)

/-- An offer expiry (R136): the entry is freed, the record returns to HELD, and EXPIRED goes to
the offeror and to the target. -/
def expireOffer (id : OfferId) (o : Offer) (s : State) : State :=
  s |> endOffer id o |> notify o.src (.expired id o.handle .offeror)
    |> notify o.dst (.expired id o.handle .target)

/-- A recall expiry (R137, R138): the record returns to its owner by force, or, while the borrower
has a copy mark on it, holds a pending revocation with countdown 0 and the borrower's job is asked
to stop. -/
def expireRecall (b : BufNo) (l : Live) (q : Port) (s : State) : State :=
  if perGet l.marks q then
    s |> setLive b { l with
        st := .recalling q 0, forced := some q, pendingRev := some ⟨.expiry, q⟩ }
      |> stopJob q .aborted
  else
    s |> returnToOwner b { l with forced := some q } q
      |> notify q (.revoked (handleAt s b) .expiry)
      |> notify l.owner (.returned (handleAt s b) .forced)

/-- The visit of one Offer Table entry in a tick handling of `k` ticks (R135 pass 1). -/
def tickOffer (k : Nat) (s : State) (id : OfferId) : State :=
  match offerAt s id with
  | none => s
  | some o =>
    if k < o.countdown then setOffer id (some { o with countdown := o.countdown - k }) s
    else expireOffer id o s

/-- The visit of one record in a tick handling of `k` ticks (R135 pass 2): only a RECALLING record
without a pending revocation is counted down. -/
def tickRecall (k : Nat) (s : State) (b : BufNo) : State :=
  match liveAt s b with
  | none => s
  | some l =>
    match l.st with
    | .recalling q n =>
      if l.pendingRev.isSome then s
      else if k < n then setLive b { l with st := .recalling q (n - k) } s
      else expireRecall b l q s
    | _ => s

/-- The offer ids in use, ascending (R135). -/
def offersInUse (s : State) : List OfferId := s.offers.filterMap (fun e => offerNoOf e.1)

/-- The buffer numbers of the listed records, ascending: every live record is among them. -/
def recordsListed (s : State) : List BufNo := s.buffers.filterMap (fun e => bufNoOf e.1)

/-- The offer pass of a tick handling (R135). -/
def tickOffers (k : Nat) (s : State) : State := (offersInUse s).foldl (tickOffer k) s

/-- The recall pass of a tick handling (R135). -/
def tickRecalls (k : Nat) (s : State) : State := (recordsListed s).foldl (tickRecall k) s

/-- The ticks that the tick handling applies (R134, R135): the count it took when it is in progress,
else the whole pending count, which it takes at its start. -/
def ticksInHand (s : State) : Nat := (ticksTaken s).getD s.pendingTicks

/-- The start of a tick handling (R134): it takes the whole pending count, which becomes 0. A handling
that is in progress has taken its count already, and later ticks wait for the next one. -/
def takeTicks (s : State) : State :=
  match ticksTaken s with
  | some _ => s
  | none => { s with pendingTicks := 0, underway := some (.ticks s.pendingTicks) }

/-- A tick handling (R134, R135), or the rest of the one in progress: it applies the count it took in
two passes, and ends. -/
def handleTicks (s : State) : State :=
  { takeTicks s with underway := none } |> tickOffers (ticksInHand s) |> tickRecalls (ticksInHand s)

/-- Whether an entry's countdown has run out against the handling's ticks (R135). -/
def offerDue (s : State) (id : OfferId) : Bool :=
  match offerAt s id with
  | none => false
  | some o => o.countdown ≤ ticksInHand s

/-- Whether a recall's countdown has run out against the handling's ticks (R135). -/
def recallDue (s : State) (b : BufNo) : Bool :=
  match liveAt s b with
  | none => false
  | some l =>
    match l.st with
    | .recalling _ n => l.pendingRev.isNone && n ≤ ticksInHand s
    | _ => false

/-- The next offer expiry of the tick handling: the lowest entry that is due (R135). -/
def nextDueOffer (s : State) : Option OfferId := (offersInUse s).find? (offerDue s)

/-- The next recall expiry of the tick handling: the lowest record that is due (R135). -/
def nextDueRecall (s : State) : Option BufNo := (recordsListed s).find? (recallDue s)

/-! ### Meanings -/

/-- DEADLINE_TICK (R133): the prescaler reaches its full period and produces a tick. -/
def execDeadlineTick (s : State) : Host.Outcome State Fault Refusal :=
  if s.rst then .next s else done (produceTick s)

/-- TICK_HANDLING (R135). -/
def execTickHandling (s : State) : Host.Outcome State Fault Refusal :=
  handling .tick s handleTicks

/-- OFFER_EXPIRY (R136): within the tick handling that is granted, and that takes its count now if
it has not begun, the expiry of the entry whose turn it is; the handling goes on, and TICK_HANDLING
is the rest of it (log 10). -/
def execOfferExpiry (id : Fin 16) (s : State) : Host.Outcome State Fault Refusal :=
  if granted s .tick && nextDueOffer s = some id then
    match offerAt s id with
    | none => .next s
    | some o => done (s |> takeTicks |> expireOffer id o)
  else .next s

/-- RECALL_EXPIRY (R137, R138): within the tick handling that is granted, after its offer expiries,
the expiry of the record whose turn it is; the handling goes on (log 10). -/
def execRecallExpiry (b : Fin 1024) (s : State) : Host.Outcome State Fault Refusal :=
  if granted s .tick && (nextDueOffer s).isNone && nextDueRecall s = some b then
    match liveAt s b with
    | none => .next s
    | some l =>
      match borrowerOf l with
      | none => .next s
      | some q => done (s |> takeTicks |> expireRecall b l q)
  else .next s

end Sys2Proof.Machine
end

