-- ==== Sys2Proof/Machine/Pins.lean ====
section
/-! DEFINITION. The pins: PRST of a port (R173) and RST (R26, R42, R201, R205, R206):
PRST_ASSERTION, PRST_DEASSERTION, DEVICE_RESET, RST_RELEASE. -/

namespace Sys2Proof.Machine

/-- PRST of a port takes a level. -/
def setPrst (p : Port) (level : Bool) (s : State) : State :=
  updPort p (fun hp => { hp with prst := level }) s

/-- The PRST input of a port becomes asserted (R173): the change from deasserted to asserted is a
teardown cause with cause PRST. An input that is asserted already makes no change of level. -/
def assertPrst (p : Port) (s : State) : State :=
  if (portAt s p).prst then s else s |> setPrst p true |> teardownCause p .prst

/-- The memory after the page write in progress that a device reset abandons (R39, R170): a
zero-fill or the write of a captured page that has not been granted yet may be served in part. -/
def abandonPageWork (s : State) : Memory :=
  match s.page with
  | some (.scrub pg false) => memAbandonRun (Config.abandonedByteStored s.freeCount) s.mem (pageAddr pg 0) zeroPage
  | some (.copyWrite p bytes false) =>
    match copyDest s p with
    | none => s.mem
    | some pg =>
      memAbandonRun (Config.abandonedByteStored s.freeCount) s.mem (pageAddr pg 0) bytes
  | _ => s.mem

/-- The parameters of READ_MEM and WRITE_MEM after the checks of R197, in their order: the page,
the offset and the count. -/
def memoryParams (ps : List Byte) : Except Status (PageNo × Nat × Nat) :=
  match pageNoOf (numAt ps 0) with
  | none => .error .range
  | some pg =>
    let offset := (byteAt ps 2).toNat
    let count := (byteAt ps 3).toNat
    if 63 < offset then .error .range
    else if count = 0 ∨ 64 < count then .error .range
    else if 64 < offset + count then .error .range
    else .ok (pg, offset, count)

/-- The buffer a page is chained to, by its Page Map entry. -/
def chainedTo (s : State) (pg : PageNo) : Option BufNo :=
  match entryAt s pg with
  | .chained b _ => some b
  | _ => none

/-- The data bytes of a WRITE_MEM: the count bytes after the four parameters (section 12.4). -/
def writeData (ps : List Byte) (count : Nat) : List Byte := (ps.drop 4).take count

/-- The memory after the WRITE_MEM that a device reset takes while it has the Table Controller's
grant, so that its transfer may have been granted (R201): its bytes are stored or not. One that waits
behind another requester's grant stores nothing. -/
def abandonWriteMem (s : State) (m : Memory) : Memory :=
  match s.maint with
  | .pending req =>
    if requestOf req.code = some .writeMem && granted s .maintenance then
      match memoryParams req.params with
      | .error _ => m
      | .ok (pg, offset, count) =>
        if (chainedTo s pg).isSome then
          memAbandonRun (Config.abandonedRequestByteStored s.freeCount) m (pageAddr pg offset)
            (writeData req.params count)
        else m
    else m
  | _ => m

/-- The state a device reset leaves while RST is asserted (R26, R42, R66, R144, R159, R188, R189,
R201): every block takes its values after device reset; the levels of the PRST inputs, the Page
Memory and the waiting commands stay. -/
def resetDevice (s : State) : State :=
  { State.reset with
    ports := perOf (fun p => HostPort.reset (portAt s p).prst)
    mem := abandonWriteMem s (abandonPageWork s)
    rst := true
    freeCount := s.freeCount + 1
    pending := s.pending }

/-- RST is released (R133, R206): the prescaler starts at 0. -/
def releaseRst (s : State) : State := restartPrescaler { s with rst := false }

/-! ### Meanings -/

/-- PRST_ASSERTION (R173). While RST is asserted the level follows the pin and nothing is taken
(R206). -/
def execPrstAssertion (p : Port) (s : State) : Host.Outcome State Fault Refusal :=
  if s.rst then .next (setPrst p true s) else done (assertPrst p s)

/-- PRST_DEASSERTION (R173): no action is taken on it; the level follows the pin. -/
def execPrstDeassertion (p : Port) (s : State) : Host.Outcome State Fault Refusal :=
  if s.rst then .next (setPrst p false s) else done (setPrst p false s)

/-- DEVICE_RESET (R26): the assertion of RST. While it is asserted already nothing changes. -/
def execDeviceReset (s : State) : Host.Outcome State Fault Refusal :=
  if s.rst then .next s else .next (resetDevice s)

/-- RST_RELEASE (R206). -/
def execRstRelease (s : State) : Host.Outcome State Fault Refusal :=
  if s.rst then done (releaseRst s) else .next s

end Sys2Proof.Machine
end

