-- ==== Sys2Proof/Machine/Maintenance.lean ====
section
/-! DEFINITION. The services of a held maintenance request (sections 11.3 to 11.6): HOLD and
RELEASE, the inspections, READ_MEM and WRITE_MEM, and the forced operations. -/

namespace Sys2Proof.Machine

/-! ### The path of a held request -/

/-- What the checks of a request answer: the status of the first that fails, or the state after
its effects and the response data (R192). -/
abbrev MaintAnswer := Except Status (State × List Byte)

/-- The response is written in the last action of the service (R192); a request refused with any
status but OK changes nothing and carries no data. -/
def respond (s : State) : MaintAnswer → State
  | .error st => { s with maint := .ready st [] }
  | .ok (t, data) => { t with maint := .ready .ok data }

/-- The parameters of the held request, when it is the request named. -/
def heldRequest (s : State) (r : Request) : Option (List Byte) :=
  match s.maint with
  | .pending req => if requestOf req.code = some r then some req.params else none
  | _ => none

/-- The handling of a held request by the Table Controller (R192): it runs when the maintenance
grant stands and the held request is the one named. None of the answer means that a page index
has no page (log 18). -/
def maintHandling (r : Request) (s : State) (f : List Byte → Option MaintAnswer) :
    Host.Outcome State Fault Refusal :=
  match heldRequest s r with
  | none => .next s
  | some ps =>
    if granted s .maintenance then
      match f ps with
      | none => .fault .pageNotResolved
      | some a => .next (endHandling .maintenance (respond s a))
    else .next s

/-- The service of a held request without the Table Controller (R192). -/
def maintService (r : Request) (s : State) (f : List Byte → Option MaintAnswer) :
    Host.Outcome State Fault Refusal :=
  match heldRequest s r with
  | none => .next s
  | some ps => if s.rst then .next s else doneOrStuck ((f ps).map (respond s))

/-! ### HOLD and RELEASE (R194) -/

/-- HOLD: the mover is paused and its page in progress runs to its end, then the HOLD indication
is set (log 11); in force already, nothing changes. -/
def holdAnswer (s : State) : Option MaintAnswer :=
  if s.hold then some (.ok (s, [2]))
  else
    (finishPage { s with paused := true }).map (fun t => .ok ({ t with hold := true }, [1]))

/-- RELEASE: the HOLD indication and the paused flag are cleared; not in force, nothing
changes. -/
def releaseAnswer (s : State) : MaintAnswer :=
  if s.hold then .ok ({ s with hold := false, paused := false }, [1]) else .ok (s, [2])

/-! ### Inspection (R195, R196) -/

/-- A port in a byte; absent reads as 0 (R202). -/
def optPortByte : Option Port → Byte
  | none => 0
  | some p => portByte p

/-- A page number in two bytes; absent reads as 0 (R202). -/
def optPageBytes : Option PageNo → List Byte
  | none => [0, 0]
  | some pg => bytes16 pg.val

/-- READ_BUFFER's presence bits, in the order of R1's optional fields (log 12). -/
def livePresence (l : Live) : Nat :=
  presence [true, (borrowerOf l).isSome, true, true, true, true, (offerRefOf l).isSome,
    (countdownOf l).isSome, true, l.pendingRev.isSome, l.forced.isSome]

/-- READ_BUFFER's response data (section 12.4). -/
def recordBytes (r : BufRec) : List Byte :=
  match r.live with
  | none => r.gen :: List.replicate 18 0
  | some l =>
    [r.gen, byteOf (bufStateCode l.st)] ++ bytes16 (livePresence l) ++
    [portByte l.owner, optPortByte (borrowerOf l), byteOf (setNum (shareOf l)), byteOf l.length] ++
    bytes16 l.head.val ++ bytes16 l.tail.val ++
    [byteOf (match offerRefOf l with | none => 0 | some id => id.val)] ++
    bytes16 ((countdownOf l).getD 0) ++ [byteOf (setNum l.marks)] ++
    (match l.pendingRev with
     | none => [0, 0]
     | some r => [revKindCode r.kind, portByte r.port]) ++ [optPortByte l.forced]

/-- READ_BUFFER (R195). -/
def readBufferAnswer (ps : List Byte) (s : State) : MaintAnswer :=
  match bufNoOf (numAt ps 0) with
  | none => .error .range
  | some b => .ok (s, recordBytes (recAt s b))

/-- READ_PAGE_ENTRY's response data (section 12.4): place, buffer, next and presence. -/
def entryBytes : PageEntry → List Byte
  | .free => [0, 0, 0, 0, 0, 0]
  | .scrub => [1, 0, 0, 0, 0, 0]
  | .chained b next =>
    [2] ++ bytes16 b.val ++ optPageBytes next ++ [byteOf (presence [true, next.isSome])]

/-- READ_PAGE_ENTRY (R195). -/
def readPageEntryAnswer (ps : List Byte) (s : State) : MaintAnswer :=
  match pageNoOf (numAt ps 0) with
  | none => .error .range
  | some pg => .ok (s, entryBytes (entryAt s pg))

/-- READ_OFFER's response data (section 12.4): 'in use' is 1 or 0 (DESIGN CHOICE; log 29). -/
def offerBytes : Option Offer → List Byte
  | none => List.replicate 9 0
  | some o =>
    [1, offerKindCode o.kind, portByte o.src, portByte o.dst] ++ handleBytes o.handle ++
      bytes16 o.countdown

/-- READ_OFFER (R195). -/
def readOfferAnswer (ps : List Byte) (s : State) : MaintAnswer :=
  match offerIdOf (byteAt ps 0) with
  | none => .error .range
  | some id => .ok (s, offerBytes (offerAt s id))

/-- A Directory entry in READ_DIR (section 12.4): 'entry present' as 1 or 0 (DESIGN CHOICE; log 29),
then its fields. -/
def dirEntryBytes : Option DirEntry → List Byte
  | none => List.replicate 8 0
  | some e =>
    [1] ++ bytes16 e.name ++ handleBytes e.handle ++ [portByte e.publisher, dirModeCode e.mode]

/-- READ_DIR (R195): a position at or above the count gives the count and no entry. -/
def readDirAnswer (ps : List Byte) (s : State) : MaintAnswer :=
  let i := (byteAt ps 0).toNat
  if 63 < i then .error .range
  else .ok (s, byteOf s.dir.length :: dirEntryBytes s.dir[i]?)

/-- The seven bytes of a window slot in READ_PORT (section 12.4). -/
def slotBytes (w : WindowSlot) : List Byte :=
  [windowStatus w] ++ windowHandle w ++ [windowPageIndex w, windowCursor w, windowLength w]

/-- A port's job in READ_PORT: none, RUNNING, STOPPING or a held report, and its pages done. -/
def jobBytes (s : State) (p : Port) : List Byte :=
  match jobAt s p with
  | some j => [byteOf (match j.state with | .running => 1 | .stopping _ => 2), byteOf j.done]
  | none =>
    match s.reports.find? (fun r => r.port = p) with
    | some r => [3, byteOf r.done]
    | none => [0, 0]

/-- A port's walk in READ_PORT: not listed, listed, or active with its phase and position. -/
def walkBytes (s : State) (p : Port) : List Byte :=
  if s.walkList.head? = some p then
    [2, byteOf (match s.walkPhase with | .offers => 1 | .buffers => 2)] ++ bytes16 s.walkPos
  else if p ∈ s.walkList then [1, 0, 0, 0]
  else [0, 0, 0, 0]

/-- READ_PORT's response data (section 12.4, log 24): LOST is 1 or 0 (DESIGN CHOICE; log 29). -/
def portBytes (s : State) (p : Port) : List Byte :=
  let hp := portAt s p
  [byteOf (portStateCode hp.state), teardownCode hp.lastCause, teardownFaultCode hp.lastCause] ++
  countsBytes s p ++ [cmdStateCode hp.cmd.state, hp.cmd.postedCode] ++
  [byteOf hp.queue.length, byteOfBool hp.lost, enablesByte hp.enables] ++ faultBytes hp.fault ++
  slotBytes hp.w0 ++ slotBytes hp.w1 ++ slotBytes hp.saved ++ jobBytes s p ++ walkBytes s p

/-- READ_PORT (R196). -/
def readPortAnswer (ps : List Byte) (s : State) : MaintAnswer :=
  match portOf (byteAt ps 0) with
  | none => .error .range
  | some p => .ok (s, portBytes s p)

/-- The current scrub page (R37): the page of the scrub step in progress. -/
def currentScrub (s : State) : Option PageNo :=
  match s.page with
  | some (.scrub pg _) => some pg
  | _ => none

/-- READ_POOL's response data (section 12.4): paused is 1 or 0 (DESIGN CHOICE; log 29). -/
def poolBytes (s : State) : List Byte :=
  bytes16 s.freeList.length ++ optPageBytes s.freeList.head? ++
  bytes16 s.scrubQueue.length ++ optPageBytes s.scrubQueue.head? ++
  optPageBytes (currentScrub s) ++
  [byteOf (presence
      [s.freeList.head?.isSome, s.scrubQueue.head?.isSome, (currentScrub s).isSome]),
   byteOfBool s.paused, byteOf (allPorts.countP (fun p => (jobAt s p).isSome)),
   byteOf s.reports.length]

/-! ### Memory access (R197) -/

/-- READ_MEM: one transfer of the maintenance requester. -/
def readMemAnswer (ps : List Byte) (s : State) : Option MaintAnswer :=
  match memoryParams ps with
  | .error st => some (.error st)
  | .ok (pg, offset, count) =>
    (memGrant .maintenance s).map (fun t =>
      .ok (t, memReadRun t.mem (pageAddr pg offset) count))

/-- WRITE_MEM: refused NOT_CHAINED unless the page is chained, else one write transfer. -/
def writeMemAnswer (ps : List Byte) (s : State) : Option MaintAnswer :=
  match memoryParams ps with
  | .error st => some (.error st)
  | .ok (pg, offset, count) =>
    match chainedTo s pg with
    | none => some (.error .notChained)
    | some b =>
      (memGrant .maintenance s).map (fun t =>
        .ok ({ t with mem := memWriteRun t.mem (pageAddr pg offset) (writeData ps count) },
          bytes16 b.val))

/-! ### FORCE_FREE (R198, R169) -/

/-- What the Data Mover holds of a port's copy, a job or a report: its two buffers and its pages
done (R169). -/
def copyHeld (s : State) (p : Port) : Option (BufNo × BufNo × Nat) :=
  match jobAt s p with
  | some j => some (j.src.buf, j.dst.buf, j.done)
  | none => (s.reports.find? (fun r => r.port = p)).map (fun r => (r.src.buf, r.dst.buf, r.done))

/-- The Data Mover takes an end-now request (R169): it removes the port's job or its report, and
makes no report. -/
def dropCopy (p : Port) (s : State) : State :=
  { setJob p none s with reports := s.reports.filter (fun r => r.port != p) }

/-- The copy of one marked port is ended for the record freed (R169, R198 step 2): the completion
with ABORTED, the marks off both records, and the other record's revocation completed when it
waited for that mark alone. -/
def endCopyNow (b : BufNo) (s : State) (p : Port) : State :=
  match copyHeld s p with
  | none => unmark b p s
  | some (src, dst, n) =>
    let other := if src = b then dst else src
    let s := s |> dropCopy p |> complete p .aborted [byteOf n] |> unmark src p |> unmark dst p
    if other = b then s else settleRevocation other s

/-- The copies on a record are ended, in ascending port number (R198 step 2). -/
def endCopiesNow (b : BufNo) (l : Live) (s : State) : State :=
  (portsIn l.marks).foldl (endCopyNow b) s

/-- The immediate FORCE_FREE (R198 steps 1 to 4): the offer, the copies, the waiting revocation
discarded, the retirement. -/
def forceFreeNow (b : BufNo) (l : Live) (s : State) : State :=
  let s := s |> removeOffer b l |> endCopiesNow b l
  match liveAt s b with
  | none => s
  | some l => retire b { l with pendingRev := none } .forceFree none s

/-- The data of FORCE_FREE: the handle, the owner, the length and a number of copies. -/
def forceFreeData (s : State) (b : BufNo) (l : Live) : List Byte :=
  handleBytes (handleAt s b) ++
    [portByte l.owner, byteOf l.length, byteOf (portsIn l.marks).length]

/-- FORCE_FREE (R198): outside HOLD a record with marks is held for retirement (R25; logs 13 and
14); otherwise it is retired in this handling. -/
def forceFreeAnswer (ps : List Byte) (s : State) : MaintAnswer :=
  match bufNoOf (numAt ps 0) with
  | none => .error .range
  | some b =>
    match liveAt s b with
    | none => .error .notLive
    | some l =>
      let data := forceFreeData s b l
      if !s.hold && !isEmptySet l.marks then
        .ok (awaitRetirement b l ⟨.forceFree, l.owner⟩ s, data)
      else .ok (forceFreeNow b l s, data)

/-! ### FORCE_DETACH and CLEAR_ALL (R199, R200) -/

/-- FORCE_DETACH (R199): the port takes a teardown cause; the data gives the state it found. -/
def forceDetachAnswer (ps : List Byte) (s : State) : MaintAnswer :=
  match portOf (byteAt ps 0) with
  | none => .error .range
  | some p =>
    .ok (teardownCause p .forceDetach s, [byteOf (portStateCode (portAt s p).state)])

/-- A record after CLEAR_ALL (R27): a live one becomes VACANT with its generation advanced. -/
def clearedRec (r : BufRec) : BufRec :=
  match r.live with
  | none => r
  | some _ => ⟨r.gen + 1, none⟩

/-- The Buffer Table after CLEAR_ALL (R27), in its canonical form. -/
def clearedTable (t : List (Nat × BufRec)) : List (Nat × BufRec) :=
  (t.map (fun e => (e.1, clearedRec e.2))).filter (fun e => e.2 != vacantRec)

/-- A Host Port after CLEAR_ALL (R44, R66, R145, R155, R188): its values after device reset with
last teardown cause CLEAR_ALL. The lines it drives stay. -/
def clearedPort (hp : HostPort) : HostPort :=
  { HostPort.reset hp.prst with lastCause := .clearAll, dataOut := hp.dataOut }

/-- The state CLEAR_ALL leaves (R27, R43, R110, R144, R170, R180, R188, R200). -/
def clearAllState (s : State) : State :=
  restartPrescaler
    { s with
      ports := perOf (fun p => clearedPort (portAt s p))
      buffers := clearedTable s.buffers
      pageMap := []
      offers := []
      dir := []
      counts := State.reset.counts
      pendingTicks := 0
      walkList := []
      walkPhase := .offers
      walkPos := 0
      freeList := []
      scrubQueue := allPages
      jobs := State.reset.jobs
      page := none
      nextKind := .scrub
      lastCopy := .d
      reports := [] }

/-- CLEAR_ALL (R200): refused NOT_HELD outside HOLD. -/
def clearAllAnswer (s : State) : MaintAnswer :=
  if s.hold then .ok (clearAllState s, []) else .error .notHeld

/-! ### Meanings -/

/-- HOLD (R194). -/
def execHold (s : State) : Host.Outcome State Fault Refusal :=
  maintHandling .hold s (fun _ => holdAnswer s)

/-- RELEASE (R194). -/
def execRelease (s : State) : Host.Outcome State Fault Refusal :=
  maintHandling .release s (fun _ => some (releaseAnswer s))

/-- READ_BUFFER (R195). -/
def execReadBuffer (s : State) : Host.Outcome State Fault Refusal :=
  maintHandling .readBuffer s (fun ps => some (readBufferAnswer ps s))

/-- READ_PAGE_ENTRY (R195). -/
def execReadPageEntry (s : State) : Host.Outcome State Fault Refusal :=
  maintHandling .readPageEntry s (fun ps => some (readPageEntryAnswer ps s))

/-- READ_OFFER (R195). -/
def execReadOffer (s : State) : Host.Outcome State Fault Refusal :=
  maintHandling .readOffer s (fun ps => some (readOfferAnswer ps s))

/-- READ_DIR (R195). -/
def execReadDir (s : State) : Host.Outcome State Fault Refusal :=
  maintHandling .readDir s (fun ps => some (readDirAnswer ps s))

/-- READ_PORT (R196). -/
def execReadPort (s : State) : Host.Outcome State Fault Refusal :=
  maintHandling .readPort s (fun ps => some (readPortAnswer ps s))

/-- READ_POOL (R196). -/
def execReadPool (s : State) : Host.Outcome State Fault Refusal :=
  maintService .readPool s (fun _ => some (.ok (s, poolBytes s)))

/-- READ_MEM (R197). -/
def execReadMem (s : State) : Host.Outcome State Fault Refusal :=
  maintService .readMem s (fun ps => readMemAnswer ps s)

/-- WRITE_MEM (R197). -/
def execWriteMem (s : State) : Host.Outcome State Fault Refusal :=
  maintHandling .writeMem s (fun ps => writeMemAnswer ps s)

/-- FORCE_FREE (R198). -/
def execForceFree (s : State) : Host.Outcome State Fault Refusal :=
  maintHandling .forceFree s (fun ps => some (forceFreeAnswer ps s))

/-- FORCE_DETACH (R199). -/
def execForceDetach (s : State) : Host.Outcome State Fault Refusal :=
  maintHandling .forceDetach s (fun ps => some (forceDetachAnswer ps s))

/-- CLEAR_ALL (R200). -/
def execClearAll (s : State) : Host.Outcome State Fault Refusal :=
  maintHandling .clearAll s (fun _ => some (clearAllAnswer s))

end Sys2Proof.Machine
end

