-- ==== Sys2Proof/Machine/Sharing.lean ====
section
/-! DEFINITION. MAP (R57, R58) and the share set (chapter 6): SHARE, UNSHARE, LEAVE. -/

namespace Sys2Proof.Machine

/-- The mapping an install carries (R58): cursor 0, END and OVR clear. -/
def newMapping (h : Handle) (mode : MapMode) (len index : Nat) : Mapping :=
  ⟨h, mode, len, index, 0, false, false⟩

/-- MAP (R57, R58). -/
def mapAnswer (p : Port) (s : State) : Answer :=
  match checkHandle s p 0 with
  | .error r => .error r
  | .ok (b, l) =>
    match windowOf (param s p 3) with
    | none => .error .range
    | some w =>
      match mapModeOf (param s p 4) with
      | none => .error .range
      | some mode =>
        if !allows (access l p) mode then .error .noAccess
        else if l.length ≤ (param s p 5).toNat then .error .range
        else
          .ok (updPort p
            (takeInstall w (newMapping (handleAt s b) mode l.length (param s p 5).toNat)) s,
            [byteOf l.length])

/-- SHARE (R103, R104): the target joins the share set and receives GRANTED. Its port state (check 5)
and its queue (check 7) are read at one moment, with no teardown start of the target between them
(DESIGN CHOICE, unsafe; log 32). -/
def shareAnswer (p : Port) (s : State) : Answer :=
  match checkHandle s p 0 with
  | .error r => .error r
  | .ok (b, l) =>
    if l.owner ≠ p then .error .notOwner
    else if !isHeld l then .error .state
    else
      match portOf (param s p 3) with
      | none => .error .range
      | some q =>
        if q = p then .error .self
        else if !attached s q then .error .peerLost
        else if perGet (shareOf l) q then .error .already
        else if !queueAdmits s q then .error .queueFull
        else
          let m := perSet (shareOf l) q true
          .ok (s |> setLive b { l with st := .held m } |> notify q (.granted (handleAt s b) l.owner),
            [byteOf (setNum m)])

/-- UNSHARE (R106, R107): the target leaves the share set, its slots are voided, and it receives
REVOKED cause UNSHARE. -/
def unshareAnswer (p : Port) (s : State) : Answer :=
  match checkHandle s p 0 with
  | .error r => .error r
  | .ok (b, l) =>
    if l.owner ≠ p then .error .notOwner
    else
      match portOf (param s p 3) with
      | none => .error .range
      | some q =>
        if q = p then .error .self
        else if !perGet (shareOf l) q then .error .already
        else if perGet l.marks q then .error .busy
        else
          let h := handleAt s b
          .ok (s |> leaveShare b l q |> notify q (.revoked h .unshare),
            [byteOf (setNum (perSet (shareOf l) q false)), byteOf (voidCount s q h)])

/-- LEAVE (R108, R109): the caller leaves the share set, its slots are voided, and the owner
receives LEFT cause LEAVE. -/
def leaveAnswer (p : Port) (s : State) : Answer :=
  match checkHandle s p 0 with
  | .error r => .error r
  | .ok (b, l) =>
    if !perGet (shareOf l) p then .error .already
    else if perGet l.marks p then .error .busy
    else
      let h := handleAt s b
      .ok (s |> leaveShare b l p |> notify l.owner (.left h p .leave), [byteOf (voidCount s p h)])

/-! ### Meanings -/

/-- MAP (R58). -/
def execMap (p : Port) (s : State) : Host.Outcome State Fault Refusal :=
  portHandling p (some .map) s (fromAttached p (mapAnswer p))

/-- SHARE (R104). -/
def execShare (p : Port) (s : State) : Host.Outcome State Fault Refusal :=
  portHandling p (some .share) s (fromAttached p (shareAnswer p))

/-- UNSHARE (R107). -/
def execUnshare (p : Port) (s : State) : Host.Outcome State Fault Refusal :=
  portHandling p (some .unshare) s (fromAttached p (unshareAnswer p))

/-- LEAVE (R109). -/
def execLeave (p : Port) (s : State) : Host.Outcome State Fault Refusal :=
  portHandling p (some .leave) s (fromAttached p (leaveAnswer p))

end Sys2Proof.Machine
end

