-- ==== Sys2Proof/Machine/Walk.lean ====
section
/-! DEFINITION. The teardown walk (section 10.4): WALK_STEP. -/

namespace Sys2Proof.Machine

/-- Whether an offer names a port (R181). -/
def offerRelated (p : Port) (o : Offer) : Bool := o.src = p || o.dst = p

/-- Whether a live record holds a relation with a port (R181): owner, borrower or share set. -/
def bufferRelated (p : Port) (l : Live) : Bool :=
  l.owner = p || borrowerOf l = some p || perGet (shareOf l) p

/-- The first entry in use, from an id onward, that names the port (R181). -/
def nextRelatedOffer (s : State) (p : Port) (start : Nat) : Option (OfferId × Offer) :=
  s.offers.findSome? (fun e =>
    match offerNoOf e.1, e.2 with
    | some id, some o => if start ≤ e.1 && offerRelated p o then some (id, o) else none
    | _, _ => none)

/-- The first live record, from a number onward, that holds a relation with the port (R181). -/
def nextRelatedBuffer (s : State) (p : Port) (start : Nat) : Option (BufNo × Live) :=
  s.buffers.findSome? (fun e =>
    match bufNoOf e.1, e.2.live with
    | some b, some l => if start ≤ e.1 && bufferRelated p l then some (b, l) else none
    | _, _ => none)

/-- A step that settles an offer entry (R182): WITHDRAWN to the target of an offer the port made,
DECLINED cause PEER_LOST to the offeror of one made to it. -/
def settleOffer (p : Port) (id : OfferId) (o : Offer) (s : State) : State :=
  let s := endOffer id o s
  if o.src = p then notify o.dst (.withdrawn id o.handle) s
  else notify o.src (.declined id o.handle .peerLost) s

/-- A step at a record the port owns (R183): retired, or, while it carries marks, held for
retirement with every marked job asked to stop. A waiting FORCE_FREE is left as it is. -/
def settleOwned (p : Port) (b : BufNo) (l : Live) (s : State) : State :=
  if isEmptySet l.marks then retire b l .peerLost none s
  else
    match l.pendingRev with
    | some ⟨.forceFree, _⟩ => s
    | _ => awaitRetirement b l ⟨.teardown, p⟩ s

/-- A step at a record the port borrows (R184): returned to its owner, or, while the port has a
mark on it, held for return with the port's job asked to stop. A waiting revocation is left as it
is. -/
def settleBorrowed (p : Port) (b : BufNo) (l : Live) (s : State) : State :=
  if l.pendingRev.isSome then s
  else if perGet l.marks p then
    s |> setLive b { l with forced := some p, pendingRev := some ⟨.teardown, p⟩ }
      |> stopJob p .aborted
  else
    s |> returnToOwner b { l with forced := some p } p
      |> notify l.owner (.returned (handleAt s b) .peerLost)

/-- A step at a record in whose share set the port stands (R185): it leaves the set, or, while it
has a mark on the record, its removal waits with its job asked to stop. A waiting revocation is
left as it is (R186). -/
def settleShared (p : Port) (b : BufNo) (l : Live) (s : State) : State :=
  if l.pendingRev.isSome then s
  else if perGet l.marks p then
    s |> setLive b { l with pendingRev := some ⟨.teardown, p⟩ } |> stopJob p .aborted
  else s |> leaveShare b l p |> notify l.owner (.left (handleAt s b) p .peerLost)

/-- A step at a record that holds a relation with the port (R183 to R186). -/
def settleBuffer (p : Port) (b : BufNo) (l : Live) (s : State) : State :=
  if l.owner = p then settleOwned p b l s
  else if borrowerOf l = some p then settleBorrowed p b l s
  else settleShared p b l s

/-- The end of the active walk (R187): the port leaves the walk list and becomes DETACHED; the
next port of the list becomes the active walk with phase OFFERS and position 0 (R180), where both stand
also when no port is left (DESIGN CHOICE, unsafe; log 23). -/
def endWalk (p : Port) (s : State) : State :=
  { s with walkList := s.walkList.tail, walkPhase := .offers, walkPos := 0 }
    |> updPort p (fun hp => { hp with state := .detached })

/-- A step in phase BUFFERS from a buffer number onward (R181): the first related record is
settled, or the walk ends. -/
def walkBuffers (p : Port) (start : Nat) (s : State) : State :=
  match nextRelatedBuffer s p start with
  | some (b, l) => settleBuffer p b l { s with walkPhase := .buffers, walkPos := b.val }
  | none => endWalk p s

/-- One walk step of the active walk (R181). -/
def stepWalk (s : State) : State :=
  match s.walkList with
  | [] => s
  | p :: _ =>
    match s.walkPhase with
    | .offers =>
      match nextRelatedOffer s p s.walkPos with
      | some (id, o) => settleOffer p id o { s with walkPos := id.val }
      | none => walkBuffers p 0 s
    | .buffers => walkBuffers p s.walkPos s

/-- WALK_STEP (R181). -/
def execWalkStep (s : State) : Host.Outcome State Fault Refusal :=
  handling .teardown s stepWalk

end Sys2Proof.Machine
end

