-- ==== Sys2Proof/Machine/Dispatch.lean ====
section
/-! DEFINITION. The meaning of every command: one arm for each row of spec/opcode_table.json. -/

namespace Sys2Proof.Machine

/-- What a command does to everything but the queue of waiting commands. -/
def exec (i : Instr) (s : State) : Host.Outcome State Fault Refusal :=
  match i with
  | .w0DirectViewAccess p k acc => Sys2Proof.Machine.execW0DirectViewAccess p k acc s
  | .cursorDataPortAccess p w acc => Sys2Proof.Machine.execCursorDataPortAccess p w acc s
  | .cursorWrite p w v => Sys2Proof.Machine.execCursorWrite p w v s
  | .pageIndexWrite p w v => Sys2Proof.Machine.execPageIndexWrite p w v s
  | .unmap p w => Sys2Proof.Machine.execUnmap p w s
  | .swap p => Sys2Proof.Machine.execSwap p s
  | .clearOvr p => Sys2Proof.Machine.execClearOvr p s
  | .hostLocationWrite p off v => Sys2Proof.Machine.execHostLocationWrite p off v s
  | .postCommand p code => Sys2Proof.Machine.execPostCommand p code s
  | .acknowledge p v => Sys2Proof.Machine.execAcknowledge p v s
  | .cancel p v => Sys2Proof.Machine.execCancel p v s
  | .pop p v => Sys2Proof.Machine.execPop p v s
  | .attentionEnablesWrite p v => Sys2Proof.Machine.execAttentionEnablesWrite p v s
  | .clearFaultRecord p v => Sys2Proof.Machine.execClearFaultRecord p v s
  | .bothStrobesCycle p => Sys2Proof.Machine.execBothStrobesCycle p s
  | .prstAssertion p => Sys2Proof.Machine.execPrstAssertion p s
  | .deviceReset => Sys2Proof.Machine.execDeviceReset s
  | .rstRelease => Sys2Proof.Machine.execRstRelease s
  | .badCommand p => Sys2Proof.Machine.execBadCommand p s
  | .attach p => Sys2Proof.Machine.execAttach p s
  | .detach p => Sys2Proof.Machine.execDetach p s
  | .clearFault p => Sys2Proof.Machine.execClearFault p s
  | .clearLost p => Sys2Proof.Machine.execClearLost p s
  | .alloc p => Sys2Proof.Machine.execAlloc p s
  | .extend p => Sys2Proof.Machine.execExtend p s
  | .trim p => Sys2Proof.Machine.execTrim p s
  | .free p => Sys2Proof.Machine.execFree p s
  | .info p => Sys2Proof.Machine.execInfo p s
  | .map p => Sys2Proof.Machine.execMap p s
  | .share p => Sys2Proof.Machine.execShare p s
  | .unshare p => Sys2Proof.Machine.execUnshare p s
  | .leave p => Sys2Proof.Machine.execLeave p s
  | .publish p => Sys2Proof.Machine.execPublish p s
  | .unpublish p => Sys2Proof.Machine.execUnpublish p s
  | .lookup p => Sys2Proof.Machine.execLookup p s
  | .nextName p => Sys2Proof.Machine.execNextName p s
  | .subscribe p => Sys2Proof.Machine.execSubscribe p s
  | .lend p => Sys2Proof.Machine.execLend p s
  | .give p => Sys2Proof.Machine.execGive p s
  | .accept p => Sys2Proof.Machine.execAccept p s
  | .decline p => Sys2Proof.Machine.execDecline p s
  | .withdraw p => Sys2Proof.Machine.execWithdraw p s
  | .recall p => Sys2Proof.Machine.execRecall p s
  | .returnBuffer p => Sys2Proof.Machine.execReturnBuffer p s
  | .copy p => Sys2Proof.Machine.execCopy p s
  | .deadlineTick => Sys2Proof.Machine.execDeadlineTick s
  | .tickHandling => Sys2Proof.Machine.execTickHandling s
  | .offerExpiry id => Sys2Proof.Machine.execOfferExpiry id s
  | .recallExpiry buf => Sys2Proof.Machine.execRecallExpiry buf s
  | .walkStep => Sys2Proof.Machine.execWalkStep s
  | .jobEndReport => Sys2Proof.Machine.execJobEndReport s
  | .scrubStepStart => Sys2Proof.Machine.execScrubStepStart s
  | .scrubStepEnd => Sys2Proof.Machine.execScrubStepEnd s
  | .copyPageStart => Sys2Proof.Machine.execCopyPageStart s
  | .copyPageReadEnd => Sys2Proof.Machine.execCopyPageReadEnd s
  | .copyPageWriteEnd => Sys2Proof.Machine.execCopyPageWriteEnd s
  | .requestFrame bytes => Sys2Proof.Machine.execRequestFrame bytes s
  | .fetchFrame n => Sys2Proof.Machine.execFetchFrame n s
  | .unknownFrame first n => Sys2Proof.Machine.execUnknownFrame first n s
  | .hold => Sys2Proof.Machine.execHold s
  | .release => Sys2Proof.Machine.execRelease s
  | .readBuffer => Sys2Proof.Machine.execReadBuffer s
  | .readPageEntry => Sys2Proof.Machine.execReadPageEntry s
  | .readOffer => Sys2Proof.Machine.execReadOffer s
  | .readDir => Sys2Proof.Machine.execReadDir s
  | .readPort => Sys2Proof.Machine.execReadPort s
  | .readPool => Sys2Proof.Machine.execReadPool s
  | .readMem => Sys2Proof.Machine.execReadMem s
  | .writeMem => Sys2Proof.Machine.execWriteMem s
  | .forceFree => Sys2Proof.Machine.execForceFree s
  | .forceDetach => Sys2Proof.Machine.execForceDetach s
  | .clearAll => Sys2Proof.Machine.execClearAll s
  | .prstDeassertion p => Sys2Proof.Machine.execPrstDeassertion p s

end Sys2Proof.Machine
end

