-- ==== Sys2Proof/WellFormed.lean ====
section
/-! DEFINITION. Which commands the spec's rows admit: what their operands must satisfy beyond
their types. -/

namespace Sys2Proof

/-- The offsets of the read-only locations of a Host Port (R53, R67, R150, R175). -/
def readOnlyOffset (o : Nat) : Bool :=
  o = 0x43 || o = 0x47 || o = 0x49 || (0x4A ≤ o && o ≤ 0x4F) || o = 0x62 ||
  (0x64 ≤ o && o ≤ 0x6F) || (0x70 ≤ o && o ≤ 0x77) || o = 0x79 || o = 0x7A ||
  (0x7D ≤ o && o ≤ 0x7F)

/-- The four window control codes (R202, section 12.1). -/
def windowControlCode (v : Byte) : Bool := v = 1 || v = 2 || v = 3 || v = 4

/-- A host write that the row HOST_LOCATION_WRITE names: a parameter byte, a window control value
that is none of the four codes, or a read-only location. -/
def plainLocationWrite (off : Fin 128) (v : Byte) : Bool :=
  (0x50 ≤ off.val && off.val ≤ 0x5F) || (off.val = 0x48 && !windowControlCode v) ||
  readOnlyOffset off.val

/-- Whether a command is one the rows admit. -/
def Instr.wellFormed : Instr → Bool
  | .hostLocationWrite _ off v => plainLocationWrite off v
  | .fetchFrame n => 1 ≤ n
  | .unknownFrame first n => first != 1 && first != 2 && 1 ≤ n
  | _ => true

end Sys2Proof
end

