-- ==== Sys2Proof/Safety.lean ====
section
/-! DEFINITION. What a safe part is: the laws of the manual that hold between any two steps, as
predicates of the state, and the shapes in which the statements speak of a step's effect. -/

namespace Sys2Proof.Safety

open Sys2Proof.Machine

/-! ### Laws -/

/-- A notice queue holds 0 to 16 notices (R145). -/
def QueueLaw (s : State) : Prop := ∀ p, (portAt s p).queue.length ≤ 16

/-- The Page Memory has its canonical form, and the bytes a copy page carries are one page
(R28, R159). -/
def MemoryLaw (s : State) : Prop :=
  Memory.wf s.mem = true ∧
  (∀ p bytes, s.page = some (.copyRead p (some bytes)) → bytes.length = 64) ∧
  (∀ p bytes b, s.page = some (.copyWrite p bytes b) → bytes.length = 64)

/-- The Buffer Table, Page Map and Offer Table have their canonical forms (R1, R18, R120). -/
def TableLaw (s : State) : Prop :=
  tabWf vacantRec 1024 s.buffers = true ∧ tabWf .scrub 8192 s.pageMap = true ∧
  tabWf none 16 s.offers = true

/-- A port that is not ATTACHED has EMPTY slots, an empty queue, LOST clear and an empty fault
record (R44, R145, R152, R175). -/
def DetachedLaw (s : State) : Prop :=
  ∀ p, (portAt s p).state ≠ .attached →
    (portAt s p).w0 = .empty ∧ (portAt s p).w1 = .empty ∧ (portAt s p).saved = .empty ∧
    (portAt s p).queue = [] ∧ (portAt s p).lost = false ∧ (portAt s p).fault = none

/-- The walk list holds each port in TEARDOWN once, and no other (R180, R187). -/
def WalkLaw (s : State) : Prop :=
  s.walkList.Nodup ∧ ∀ p, p ∈ s.walkList ↔ (portAt s p).state = .teardown

/-- What a MAPPED slot of a port says of its buffer: the handle is current, the length copy is the
length, the page index lies in the buffer, and the port has the access its mode needs (R63). -/
def SlotLaw (s : State) (p : Port) : WindowSlot → Prop
  | .mapped m => ∃ l, liveAt s m.handle.buf = some l ∧ genAt s m.handle.buf = m.handle.gen ∧
      m.lengthCopy = l.length ∧ m.pageIndex < l.length ∧ allows (access l p) m.mode = true
  | _ => True

/-- The law of pages and chains (R18, R19, R22): each page is on the Free List, on the Scrub Queue or
in the chain of one live record, once and as its Page Map entry says; a chain has its record's length,
1 to 32, ends at its tail and holds exactly the pages chained to the record; a scrub step in progress
works on the page at the head of the Scrub Queue (R37). -/
def PageLaw (s : State) : Prop :=
  s.freeList.Nodup ∧ s.scrubQueue.Nodup ∧
  (∀ pg, pg ∈ s.freeList ↔ entryAt s pg = .free) ∧
  (∀ pg, pg ∈ s.scrubQueue ↔ entryAt s pg = .scrub) ∧
  (∀ b l, liveAt s b = some l →
    1 ≤ l.length ∧ l.length ≤ 32 ∧ (chainOf s l).length = l.length ∧ (chainOf s l).Nodup ∧
    (chainOf s l).getLast? = some l.tail ∧ nextOf s.pageMap l.tail = none ∧
    ∀ pg, pg ∈ chainOf s l ↔ ∃ n, entryAt s pg = .chained b n) ∧
  (∀ pg b n, entryAt s pg = .chained b n → liveAt s b ≠ none) ∧
  (∀ pg served, s.page = some (.scrub pg served) → s.scrubQueue.head? = some pg)

/-- The law of cleared pages (R40): every page on the Free List, and the page of a scrub step whose
zero-fill has been served, holds 64 zero bytes. -/
def ClearedLaw (s : State) : Prop :=
  ∀ pg, pg ∈ s.freeList ∨ s.page = some (.scrub pg true) →
    ∀ k, k < 64 → memRead s.mem (pg.val * 64 + k) = 0

/-- The length of a record: 0 for a VACANT one. -/
def lengthOf (s : State) (b : BufNo) : Nat :=
  match liveAt s b with
  | none => 0
  | some l => l.length

/-- The law of mapped windows (R63). -/
def MappedLaw (s : State) : Prop :=
  ∀ p, SlotLaw s p (portAt s p).w0 ∧ SlotLaw s p (portAt s p).w1 ∧ SlotLaw s p (portAt s p).saved

/-- The Directory holds at most 64 entries in ascending order of name, names 1 to 65535, each
naming by its current handle a live buffer that its publisher owns (R110, R111). -/
def DirectoryLaw (s : State) : Prop :=
  s.dir.length ≤ 64 ∧ s.dir.Pairwise (fun x y => x.name < y.name) ∧
  ∀ e ∈ s.dir, 1 ≤ e.name ∧ e.name ≤ 65535 ∧
    ∃ l, liveAt s e.handle.buf = some l ∧ genAt s e.handle.buf = e.handle.gen ∧
      l.owner = e.publisher

/-- What a record contributes to the counts of a port (R23). -/
def owned (s : State) (p : Port) (b : BufNo) : Nat × Nat :=
  match liveAt s b with
  | none => (0, 0)
  | some l => if l.owner = p then (1, l.length) else (0, 0)

/-- The law of ownership counts (R23). -/
def CountLaw (s : State) : Prop :=
  ∀ p, (countsAt s p).buffers = ∑ b : BufNo, (owned s p b).1 ∧
    (countsAt s p).pages = ∑ b : BufNo, (owned s p b).2

/-- The configuration, the pending-tick count, the count a tick handling has taken and the prescaler
lie in their ranges (R193, R134, R133). -/
def RangeLaw (s : State) : Prop :=
  (∀ p, perGet s.cfg.bufQuota p ≤ 1024 ∧ perGet s.cfg.pageQuota p ≤ 8192) ∧
  (1 ≤ s.cfg.offerTicks ∧ s.cfg.offerTicks ≤ 65535) ∧
  (1 ≤ s.cfg.recallTicks ∧ s.cfg.recallTicks ≤ 65535) ∧
  s.cfg.tickDiv ≤ 255 ∧ s.pendingTicks ≤ 255 ∧ (∀ k, ticksTaken s = some k → k ≤ 255) ∧
  s.prescaler < s.period ∧
  256 ≤ s.period ∧ s.period ≤ 65536

/-- Offers in use and OFFERED records correspond one to one: each offer in use has a countdown of 1
to 65535 and names a live record by its current handle, OFFERED under this id and owned by the
offeror, and each OFFERED record is named by the offer of its reference (R120, R121). -/
def OfferLaw (s : State) : Prop :=
  (1 ≤ s.cfg.offerTicks ∧ s.cfg.offerTicks ≤ 65535) ∧
  (∀ id o, offerAt s id = some o → 1 ≤ o.countdown ∧ o.countdown ≤ 65535 ∧
    ∃ l, liveAt s o.handle.buf = some l ∧ genAt s o.handle.buf = o.handle.gen ∧
      l.owner = o.src ∧ l.st = .offered id) ∧
  ∀ b l id, liveAt s b = some l → l.st = .offered id →
    ∃ o, offerAt s id = some o ∧ o.handle.buf = b

/-- The active walk leaves nothing behind it: in phase OFFERS no offer below its position names the
port, in phase BUFFERS none does (R181, R182); a revocation of kind TEARDOWN waits only at the
walk's position, for its port (R186). -/
def PassedLaw (s : State) : Prop :=
  (∀ p id o, s.walkList.head? = some p → offerAt s id = some o → offerRelated p o = true →
    s.walkPhase = .offers ∧ s.walkPos ≤ id.val) ∧
  (∀ b l q, liveAt s b = some l → l.pendingRev = some ⟨.teardown, q⟩ →
    s.walkList.head? = some q ∧ s.walkPhase = .buffers ∧ s.walkPos = b.val)

/-- The arbiter's grant stands with a requester that presents a request it may grant; while there
is no grant nothing it may grant is presented (R75, R76, R78). -/
def ArbiterLaw (s : State) : Prop :=
  s.rst = false →
    (∀ r, s.tcGrant = some r → grantable s r = true) ∧
    (s.tcGrant = none → ∀ r, grantable s r = false)

/-- A handling in progress holds the arbiter's grant, outside HOLD and reset (R77): a tick handling
that has taken at least one tick; or the handling of a command whose port is in TEARDOWN, with no walk
step of that port taken since its start (R74; logs 10 and 27). -/
def UnderwayLaw (s : State) : Prop :=
  match s.underway with
  | none => True
  | some (.ticks k) => s.rst = false ∧ s.hold = false ∧ s.tcGrant = some .tick ∧ 1 ≤ k
  | some (.command p slot) =>
    s.rst = false ∧ s.hold = false ∧ s.tcGrant = some (.port p) ∧
    (portAt s p).state = .teardown ∧ slot.state = .idle ∧ slot.cancelRequested = false ∧
    (s.walkList.head? = some p → s.walkPhase = .offers ∧ s.walkPos = 0)

/-! ### Shapes of a step's effect -/

/-- A Host Port whose posted command has been completed (R70): DONE, with the result code and the
result area, unused bytes 0x00. -/
def answered (hp : HostPort) (r : Result) (area : List Byte) : HostPort :=
  { hp with cmd := { hp.cmd with
      state := .done, resultCode := resultCode r, resultArea := padTo 12 area } }

/-- A Host Port with a byte, or none, on its data lines (R205). -/
def driving (hp : HostPort) (v : Option Byte) : HostPort := { hp with dataOut := v }

/-- A Host Port that a completion reaches (R70): a slot that is not BUSY discards it. -/
def completed (hp : HostPort) (r : Result) (area : List Byte) : HostPort :=
  if hp.cmd.state = .busy then answered hp r area else hp

/-- A Host Port whose cancel-requested flag is clear (R73). -/
def withoutCancel (hp : HostPort) : HostPort :=
  { hp with cmd := { hp.cmd with cancelRequested := false } }

/-- What a bus cycle that gives 0x00 leaves on the data lines: 0x00 for a read, nothing for a write
or for a read whose strobe is gone when RDY rises (R45, R205). -/
def zeroFor : Access → Option Byte
  | .read => some 0
  | .readLost => none
  | .write _ => none

/-- A notice queue after one append (R147): the notice at the tail, or, with 16 held, LOST. -/
def appended (hp : HostPort) (n : Notice) : HostPort :=
  if hp.queue.length < 16 then { hp with queue := hp.queue ++ [n] } else { hp with lost := true }

/-- A Host Port that an append reaches (R147): a port that is not ATTACHED discards it. -/
def notified (hp : HostPort) (n : Notice) : HostPort :=
  if hp.state = .attached then appended hp n else hp

/-- A Host Port after a void request (R59): each slot MAPPED on the handle is VOID, every field
kept. -/
def voided (hp : HostPort) (h : Handle) : HostPort := onSlots (voidSlot h) hp

/-- Every byte of the Page Memory outside `n` bytes from an address reads as before. -/
def OtherBytes (a n : Nat) (s t : State) : Prop :=
  ∀ x, x < a ∨ a + n ≤ x → memRead t.mem x = memRead s.mem x

/-- Every byte of the Page Memory reads as before. -/
def SameBytes (s t : State) : Prop := ∀ x, memRead t.mem x = memRead s.mem x

/-- Every Host Port but one is as before. -/
def OtherPorts (p : Port) (s t : State) : Prop := ∀ q, q ≠ p → portAt t q = portAt s q

/-- Every buffer record but one is as before. -/
def OtherRecords (b : BufNo) (s t : State) : Prop := ∀ c, c ≠ b → recAt t c = recAt s c

/-- Every Offer Table entry but one is as before. -/
def OtherOffers (id : OfferId) (s t : State) : Prop := ∀ i, i ≠ id → offerAt t i = offerAt s i

/-- A page's 64 bytes read as given, and every other byte of the Page Memory as before. -/
def PageStored (pg : PageNo) (v : Nat → Byte) (s t : State) : Prop :=
  (∀ k, k < 64 → memRead t.mem (pg.val * 64 + k) = v k) ∧ OtherBytes (pg.val * 64) 64 s t

/-- A live record is replaced, its generation and every other record staying as they are. -/
def RecordBecomes (b : BufNo) (l : Live) (s t : State) : Prop :=
  recAt t b = ⟨genAt s b, some l⟩ ∧ OtherRecords b s t

/-- A record is retired (R11): VACANT, its generation advanced by one from 255 to 0, every other
record staying as it is. -/
def RecordRetired (b : BufNo) (s t : State) : Prop :=
  recAt t b = ⟨genAt s b + 1, none⟩ ∧ OtherRecords b s t

/-- Pages leave a chain for the tail of the Scrub Queue in their order (R20, R36): each Page Map
entry becomes SCRUB, and the entries of other pages stay. -/
def PagesScrubbed (pages : List PageNo) (s t : State) : Prop :=
  t.scrubQueue = s.scrubQueue ++ pages ∧
  ∀ pg, entryAt t pg = if pg ∈ pages then .scrub else entryAt s pg

/-- One Host Port changes and nothing else does but the arbiter's standing grant. -/
def OnlyPort (p : Port) (new : HostPort) (s t : State) : Prop :=
  t = { s with ports := t.ports, tcGrant := t.tcGrant } ∧ SameBytes s t ∧
  portAt t p = new ∧ OtherPorts p s t

/-- A port's posted command is about to be taken: its request is granted, and no handling of its is
in progress (R69, R76). -/
def Taken (s : State) (p : Port) (c : Option Command) : Prop :=
  granted s (.port p) = true ∧ postedCommand s p = c ∧ slotTaken s p = none

/-- A port's command is about to be handled: its request is granted, it has posted the command, and
it is ATTACHED (R76, R79). -/
def Ready (s : State) (p : Port) (c : Command) : Prop :=
  Taken s p (some c) ∧ attached s p = true

/-- A port's command was taken before its teardown started, and its handling is in progress (R74):
the port holds nothing more, as the start step left it. -/
def RunsOn (s : State) (p : Port) (c : Option Command) (slot : CmdSlot) : Prop :=
  granted s (.port p) = true ∧ s.underway = some (.command p slot) ∧
  commandOf slot.postedCode = c ∧ slot.state = .idle ∧ slot.cancelRequested = false ∧
  (portAt s p).state = .teardown ∧ (portAt s p).w0 = .empty ∧ (portAt s p).w1 = .empty ∧
  (portAt s p).saved = .empty ∧ (portAt s p).queue = [] ∧ (portAt s p).lost = false ∧
  (portAt s p).fault = none

/-- The state in which that command was taken: the port ATTACHED, with the command PENDING and
granted. -/
def beforeStart (s : State) (p : Port) (slot : CmdSlot) : State :=
  updPort p (fun hp => { hp with state := .attached, cmd := { slot with state := .pending } })
    { s with underway := none }

/-- A maintenance request with these parameters is about to be handled by the Table Controller
(R192). -/
def MaintReady (s : State) (r : Request) (ps : List Byte) : Prop :=
  granted s .maintenance = true ∧ heldRequest s r = some ps

/-- The fault that a host access raises, with its port, offset and access (R45 to R53, R64, R68,
R175, R176); none for an access that raises no fault. -/
def faultOf (s : State) : Instr → Option (Port × FaultKind × Nat × Access)
  | .w0DirectViewAccess p k acc =>
    match (portAt s p).w0 with
    | .empty => some (p, .unmappedAccess, k.val, acc)
    | .mapped m => if forbiddenWrite m acc then some (p, .readonlyWrite, k.val, acc) else none
    | .void _ => none
  | .cursorDataPortAccess p w acc =>
    match slotAt w (portAt s p) with
    | .empty => some (p, .unmappedAccess, dataPortOffset w, acc)
    | .mapped m =>
      if forbiddenWrite m acc then some (p, .readonlyWrite, dataPortOffset w, acc) else none
    | .void _ => none
  | .cursorWrite p w v =>
    match slotAt w (portAt s p) with
    | .empty => some (p, .unmappedAccess, cursorOffset w, .write v)
    | .mapped _ =>
      if 63 < v.toNat then some (p, .cursorRange, cursorOffset w, .write v) else none
    | .void _ => none
  | .pageIndexWrite p w v =>
    match slotAt w (portAt s p) with
    | .empty => some (p, .unmappedAccess, pageIndexOffset w, .write v)
    | .mapped m =>
      if m.lengthCopy ≤ v.toNat then some (p, .cursorRange, pageIndexOffset w, .write v) else none
    | .void _ => none
  | .hostLocationWrite p off v =>
    if readOnlyOffset off.val then some (p, .writeToReadOnlyLocation, off.val, .write v) else none
  | .postCommand p code =>
    if (portAt s p).cmd.state = .pending ∨ (portAt s p).cmd.state = .busy then
      some (p, .postWhileBusy, 0x60, .write code)
    else none
  | _ => none

/-- A fault record with one more fault (R176): an empty one takes it with MORE clear, a full one
keeps its fault and sets MORE. -/
def recorded (f : Option FaultRec) (k : FaultKind) (off : Nat) (acc : Access) : Option FaultRec :=
  match f with
  | none => some ⟨k, off, match acc with | .write v => .write v | _ => .read, false⟩
  | some f => some ⟨f.kind, f.offset, f.access, true⟩

/-- The start step at a Host Port (R179): TEARDOWN with the cause, slots EMPTY, queue and fault
record empty, LOST clear, a PENDING or BUSY command slot IDLE with no result; the enables, the
parameter area, an IDLE or DONE slot and PRST stay. -/
def TornDown (c : TeardownCause) (hp new : HostPort) : Prop :=
  new.state = .teardown ∧ new.lastCause = c ∧
  new.w0 = .empty ∧ new.w1 = .empty ∧ new.saved = .empty ∧
  new.queue = [] ∧ new.lost = false ∧ new.fault = none ∧
  new.enables = hp.enables ∧ new.prst = hp.prst ∧ new.dataOut = hp.dataOut ∧
  new.cmd.params = hp.cmd.params ∧
  (hp.cmd.state = .pending ∨ hp.cmd.state = .busy →
    new.cmd.state = .idle ∧ new.cmd.resultCode = hp.cmd.resultCode) ∧
  (hp.cmd.state = .idle ∨ hp.cmd.state = .done → new.cmd = hp.cmd)

/-- A teardown start reaches the walk list (R180). -/
def WalkJoined (p : Port) (s t : State) : Prop :=
  t.walkList = s.walkList ++ [p] ∧
  (s.walkList = [] → t.walkPhase = .offers ∧ t.walkPos = 0) ∧
  (s.walkList ≠ [] → t.walkPhase = s.walkPhase ∧ t.walkPos = s.walkPos)

/-- A cancel or a stop reaches a port's job (R165): RUNNING with a page of it in progress it becomes
STOPPING, RUNNING otherwise it ends at once with a report; any other job and the reports stay. -/
def JobStopped (p : Port) (c : StopCause) (s t : State) : Prop :=
  (∀ q, q ≠ p → jobAt t q = jobAt s q) ∧
  match jobAt s p with
  | none => jobAt t p = none ∧ t.reports = s.reports
  | some j =>
    match j.state with
    | .stopping _ => jobAt t p = some j ∧ t.reports = s.reports
    | .running =>
      if copyPageOf s.page p then
        jobAt t p = some { j with state := .stopping c } ∧ t.reports = s.reports
      else
        jobAt t p = none ∧ t.reports = s.reports ++ [⟨p, j.src, j.dst, j.done, endCauseOf c⟩]

/-- A teardown start meets a granted command of its port (R74): the take may have come first, and then
the command's handling is in progress and keeps the grant (log 27). -/
def TakeMet (p : Port) (s t : State) : Prop :=
  (granted s (.port p) = true ∧ (portAt s p).cmd.state = .pending →
    t.freeCount = s.freeCount + 1 ∧
    (t.underway = s.underway ∨
      t.tcGrant = some (.port p) ∧
      t.underway = some (.command p
        { (portAt s p).cmd with state := .idle, cancelRequested := false }))) ∧
  (¬(granted s (.port p) = true ∧ (portAt s p).cmd.state = .pending) →
    t.freeCount = s.freeCount ∧ t.underway = s.underway)

/-- The start step of an ATTACHED port outside the Table Controller's handlings (R178 to R180), its
Host Port having been brought to `hp` by the cause. -/
def TeardownBegun (p : Port) (c : TeardownCause) (hp : HostPort) (s t : State) : Prop :=
  t = { s with ports := t.ports, jobs := t.jobs, reports := t.reports, walkList := t.walkList,
               walkPhase := t.walkPhase, walkPos := t.walkPos, underway := t.underway,
               freeCount := t.freeCount, tcGrant := t.tcGrant } ∧
  SameBytes s t ∧ OtherPorts p s t ∧ TornDown c hp (portAt t p) ∧
  JobStopped p .aborted s t ∧ WalkJoined p s t ∧ TakeMet p s t

/-- An access has raised a fault (R176): it is answered, a read with 0x00; the fault is recorded at an
ATTACHED port under policy REPORT, starts a teardown under policy DETACH, and does nothing at a port
that is not ATTACHED. -/
def FaultTaken (p : Port) (k : FaultKind) (off : Nat) (acc : Access) (s t : State) : Prop :=
  (attached s p = true → perGet s.cfg.policy p = .report →
    OnlyPort p { driving (portAt s p) (zeroFor acc) with
      fault := recorded (portAt s p).fault k off acc } s t) ∧
  (attached s p = true → perGet s.cfg.policy p = .detach →
    TeardownBegun p (.fault k) (driving (portAt s p) (zeroFor acc)) s t) ∧
  (attached s p = false → OnlyPort p (driving (portAt s p) (zeroFor acc)) s t)

/-- What a stop leaves of a port's job, and the report it makes (R165). -/
def stopped (s : State) (q : Port) : Option Job × List Report :=
  match jobAt s q with
  | none => (none, [])
  | some j =>
    match j.state with
    | .stopping _ => (some j, [])
    | .running =>
      if copyPageOf s.page q then (some { j with state := .stopping .aborted }, [])
      else (none, [⟨q, j.src, j.dst, j.done, .aborted⟩])

/-- Stops reach the jobs of some ports (R25, R165), each as `JobStopped` says of one: the new reports
join the tail of the list, in an order that is left open here (log 28); the other jobs stay. -/
def JobsStopped (P : Port → Prop) (s t : State) : Prop :=
  ∃ new, t.reports = s.reports ++ new ∧
    ∀ q,
      (P q → jobAt t q = (stopped s q).1 ∧ new.filter (fun r => r.port = q) = (stopped s q).2) ∧
      (¬P q → jobAt t q = jobAt s q ∧ new.filter (fun r => r.port = q) = [])

/-- A copy page of a port has ended and its job is judged (R163, R165): pages done rises by one, and
the job goes on, ends OK with its count done, or ends with its stop cause. -/
def JobJudged (p : Port) (j : Job) (s t : State) : Prop :=
  (∀ q, q ≠ p → jobAt t q = jobAt s q) ∧
  (j.state = .running → j.done + 1 ≠ j.count →
    jobAt t p = some { j with done := j.done + 1 } ∧ t.reports = s.reports) ∧
  (j.state = .running → j.done + 1 = j.count →
    jobAt t p = none ∧ t.reports = s.reports ++ [⟨p, j.src, j.dst, j.done + 1, .ok⟩]) ∧
  (∀ c, j.state = .stopping c →
    jobAt t p = none ∧ t.reports = s.reports ++ [⟨p, j.src, j.dst, j.done + 1, endCauseOf c⟩])

/-- The owner's counts after one of its buffers is retired (R11, R23); the others' stay. -/
def CountsFall (l : Live) (s t : State) : Prop :=
  ∀ q, countsAt t q = if q = l.owner then
    ⟨(countsAt s q).buffers - 1, (countsAt s q).pages - l.length⟩ else countsAt s q

/-! ### Expiry, completion of a copy, and forced freeing at one Host Port -/

/-- The offer a tick handling of `k` ticks expires at an entry (R135). -/
def dueOffer (s : State) (k : Nat) (id : OfferId) : Option Offer :=
  match offerAt s id with
  | none => none
  | some o => if o.countdown ≤ k then some o else none

/-- The record a tick handling of `k` ticks finds due for a recall expiry, with its borrower (R135). -/
def dueRecall (s : State) (k : Nat) (b : BufNo) : Option (Live × Port) :=
  match liveAt s b with
  | none => none
  | some l =>
    match l.st, l.pendingRev with
    | .recalling q n, none => if n ≤ k then some (l, q) else none
    | _, _ => none

/-- What an entry's visit in a tick handling does at a port (R136): EXPIRED to the offeror, then to
the target. -/
def offerVisit (s : State) (k : Nat) (q : Port) (hp : HostPort) (id : OfferId) : HostPort :=
  match dueOffer s k id with
  | none => hp
  | some o =>
    let hp := if o.src = q then notified hp (.expired id o.handle .offeror) else hp
    if o.dst = q then notified hp (.expired id o.handle .target) else hp

/-- What a record's visit in a tick handling does at a port (R137): the borrower's slots voided and
REVOKED to it, RETURNED to the owner; nothing while the borrower has a mark on the record (R138). -/
def recallVisit (s : State) (k : Nat) (q : Port) (hp : HostPort) (b : BufNo) : HostPort :=
  match dueRecall s k b with
  | none => hp
  | some (l, r) =>
    if perGet l.marks r then hp
    else
      let h : Handle := ⟨b, genAt s b⟩
      let hp := if r = q then notified (voided hp h) (.revoked h .expiry) else hp
      if l.owner = q then notified hp (.returned h .forced) else hp

/-- A port after a tick handling of `k` ticks (R135): the offers' visits in ascending id, then the
recalls' in ascending buffer number. -/
def afterTicks (s : State) (k : Nat) (q : Port) : HostPort :=
  (List.finRange 1024).foldl (recallVisit s k q)
    ((List.finRange 16).foldl (offerVisit s k q) (portAt s q))

/-- A record with a port's copy mark taken off (R166). -/
def unmarkedRec (r : BufRec) (p : Port) : BufRec :=
  match r.live with
  | none => r
  | some l => ⟨r.gen, some { l with marks := perSet l.marks p false }⟩

/-- A record after a job-end report is taken, when no revocation of it is completed (R166 step 3): the
port's mark is off the records of the job, and every other record stays. -/
def MarkOff (r : Report) (s t : State) (c : BufNo) : Prop :=
  recAt t c = if c = r.src.buf ∨ c = r.dst.buf then unmarkedRec (recAt s c) r.port else recAt s c

/-- A record's revocation is not completed with the mark of a port (R25): it holds none, or one that
still waits for the mark of another port. -/
def NotSettledBy (p : Port) (l : Live) : Prop :=
  ∀ rv, l.pendingRev = some rv → ∃ q, q ≠ p ∧ waitsFor l rv q = true

/-- A record's revocation waits for the mark of a port and for no other (R25). -/
def SettledBy (p : Port) (l : Live) (rv : Revocation) : Prop :=
  l.pendingRev = some rv ∧ waitsFor l rv p = true ∧ ∀ q, q ≠ p → waitsFor l rv q = false

/-- A port that a report's completion may reach (R166 step 2). -/
def reportedPort (s : State) (r : Report) (res : Result) (q : Port) : HostPort :=
  if q = r.port then completed (portAt s q) res [byteOf r.done] else portAt s q

/-- The result a report's cause gives by itself (R166 step 1). -/
def resultOf : EndCause → Result
  | .ok => .ok
  | .cancelled => .cancelled
  | .aborted => .aborted

/-- The removal of a freed record's offer at a port (R9, R198 step 1): WITHDRAWN to the target. -/
def withdrawnAt (s : State) (b : BufNo) (l : Live) (q : Port) (hp : HostPort) : HostPort :=
  match l.st with
  | .offered id =>
    match offerAt s id with
    | none => hp
    | some o => if o.dst = q then notified hp (.withdrawn id ⟨b, genAt s b⟩) else hp
  | _ => hp

/-- The retirement of a freed record at a port (R198 step 4): the slots on the handle voided, REVOKED
to the owner and to every port with access. -/
def forcedAt (s : State) (b : BufNo) (l : Live) (q : Port) (hp : HostPort) : HostPort :=
  if access l q = .none ∧ q ≠ l.owner then voided hp ⟨b, genAt s b⟩
  else notified (voided hp ⟨b, genAt s b⟩) (.revoked ⟨b, genAt s b⟩ .forceFree)

/-- What FORCE_FREE's steps do at a port when no copy marks the record (R198 steps 1 and 4). -/
def freedAt (s : State) (b : BufNo) (l : Live) (q : Port) (hp : HostPort) : HostPort :=
  forcedAt s b l q (withdrawnAt s b l q hp)

/-- The offer of a freed record is gone (R9), and the others stay. -/
def OfferGone (l : Live) (s t : State) : Prop :=
  ∀ id, offerAt t id = if l.st = .offered id then none else offerAt s id

/-- The offer that an OFFERED record refers to names it (R121). -/
def OfferNames (s : State) (b : BufNo) (l : Live) : Prop :=
  ∀ id o, l.st = .offered id → offerAt s id = some o → o.handle.buf = b

/-- How many ports a set holds. -/
def setCount (x : PortSet) : Nat := x.a.toNat + x.b.toNat + x.c.toNat + x.d.toNat

/-- The revocation that a FORCE_FREE leaves waiting (R25): one that retires the record already stays,
and any other gives way to FORCE_FREE, which names the owner (log 13). -/
def forceFreeRevocation (l : Live) : Revocation :=
  match l.pendingRev with
  | none => ⟨.forceFree, l.owner⟩
  | some old =>
    if old.kind = .forceFree ∨ (old.kind = .teardown ∧ old.port = l.owner) then old
    else ⟨.forceFree, l.owner⟩

/-- Whether the job or the report that the Data Mover holds for a port names a record (R169). -/
def copyNames (s : State) (p : Port) (c : BufNo) : Bool :=
  match copyHeld s p with
  | none => false
  | some (src, dst, _) => src = c || dst = c

/-- A port whose copy FORCE_FREE ends in HOLD (R169): the completion with ABORTED and the pages done of
its job or report. -/
def copyEndedPort (s : State) (p : Port) : HostPort :=
  match copyHeld s p with
  | none => portAt s p
  | some (_, _, n) => completed (portAt s p) .aborted [byteOf n]

/-- A live record without the marks of the copies FORCE_FREE ends in HOLD (R169): of each port of a
set, when its job or report names the record. -/
def copiesEndedLive (s : State) (ended : PortSet) (c : BufNo) (l : Live) : Live :=
  { l with marks := perOf (fun q => perGet l.marks q && !(perGet ended q && copyNames s q c)) }

/-- A record that loses those marks and nothing else. -/
def copiesEndedRec (s : State) (ended : PortSet) (c : BufNo) : BufRec :=
  match liveAt s c with
  | none => recAt s c
  | some l => ⟨genAt s c, some (copiesEndedLive s ended c l)⟩

/-! ### Several revocations completed in one handling (R25, R166 step 4, R198 step 2) -/

/-- A record and the revocation of it that a handling completes, the marks it loses taken off. -/
structure Waiting where
  buf : BufNo
  live : Live
  rev : Revocation
  deriving DecidableEq, Repr

/-- Whether the completion retires the record (R25): FORCE_FREE, or the owner's teardown. -/
def endsRecord (x : Waiting) : Bool :=
  match x.rev.kind with
  | .forceFree => true
  | .teardown => x.rev.port = x.live.owner
  | .expiry => false

/-- A revocation fits its record (R25): it retires it, or names its borrower, or, a TEARDOWN, a port
of its share set; in the latter two never the owner. -/
def RevocationFits (x : Waiting) : Prop :=
  endsRecord x = true ∨
  (x.live.owner ≠ x.rev.port ∧
    (borrowerOf x.live = some x.rev.port ∨ (x.rev.kind = .teardown ∧ isHeld x.live = true)))

/-- The record after its revocation is completed: retired (R11), or HELD with the pending revocation
cleared, by its owner alone (R137, R184) or without the port that left (R185). -/
def settledRec (s : State) (x : Waiting) : BufRec :=
  if endsRecord x then ⟨genAt s x.buf + 1, none⟩
  else ⟨genAt s x.buf, some { x.live with
    pendingRev := none
    st := .held (match x.live.st with
      | .held m => perSet m x.rev.port false
      | _ => ⟨false, false, false, false⟩) }⟩

/-- What the completion does at a port: the voids and notices of a recall expiry (R137), of a teardown
(R183, R184, R185), or of FORCE_FREE (R198). -/
def settledAt (s : State) (q : Port) (hp : HostPort) (x : Waiting) : HostPort :=
  let h : Handle := ⟨x.buf, genAt s x.buf⟩
  match x.rev.kind with
  | .forceFree => freedAt s x.buf x.live q hp
  | .expiry =>
    let hp := if x.rev.port = q then notified (voided hp h) (.revoked h .expiry) else hp
    if x.live.owner = q then notified hp (.returned h .forced) else hp
  | .teardown =>
    if x.rev.port = x.live.owner then
      if access x.live q = .none then voided hp h
      else notified (voided hp h) (.revoked h .peerLost)
    else
      let hp := if x.rev.port = q then voided hp h else hp
      if x.live.owner = q then
        notified hp (if isHeld x.live then .left h x.rev.port .peerLost else .returned h .peerLost)
      else hp

/-- The pages of the records that completions retire, in their order. -/
def pagesEnded (s : State) (xs : List Waiting) : List PageNo :=
  xs.flatMap (fun x => if endsRecord x then chainOf s x.live else [])

/-- What completions, in the order of a list, do besides the records and the ports: the retired
records' pages join the Scrub Queue, their owners' counts fall, their Directory entries go, and a
FORCE_FREE takes the record's offer with it; nothing else of these changes. -/
def Settled (xs : List Waiting) (s t : State) : Prop :=
  PagesScrubbed (pagesEnded s xs) s t ∧
  (∀ q, countsAt t q = xs.foldl (fun n x =>
    if endsRecord x && x.live.owner = q then ⟨n.buffers - 1, n.pages - x.live.length⟩ else n)
    (countsAt s q)) ∧
  t.dir = s.dir.filter (fun e => !xs.any (fun x => endsRecord x && x.buf = e.handle.buf)) ∧
  (∀ id, offerAt t id =
    if xs.any (fun x => x.rev.kind = .forceFree && x.live.st = .offered id) then none
    else offerAt s id)

/-- The other record of a port's copy, when FORCE_FREE of a record in HOLD ends that copy and its mark
is the last that the other record's revocation waits for (R169, R198 step 2). -/
def settledWith (s : State) (b : BufNo) (l : Live) (q : Port) : Option Waiting :=
  match copyHeld s q with
  | none => none
  | some (src, dst, _) =>
    let c := if src = b then dst else src
    match liveAt s c with
    | none => none
    | some lc =>
      match lc.pendingRev with
      | none => none
      | some rv =>
        if c ≠ b ∧ perGet l.marks q = true ∧ waitsFor lc rv q = true ∧
            allPorts.all (fun r => !waitsFor lc rv r ||
              (perGet l.marks r && copyNames s r c && portNum r ≤ portNum q)) = true then
          some ⟨c, copiesEndedLive s l.marks c lc, rv⟩
        else none

/-- The other records that a FORCE_FREE in HOLD settles, in the ascending order of the ports whose
copies it ends (R198 step 2). -/
def othersSettled (s : State) (b : BufNo) (l : Live) : List Waiting :=
  allPorts.filterMap (settledWith s b l)

/-! ### Bytes of the maintenance responses (section 12.4) -/

/-- A number in one byte. -/
def b1 (n : Nat) : Byte := BitVec.ofNat 8 n

/-- A number in two bytes, low byte first (R202). -/
def b2 (n : Nat) : List Byte := [BitVec.ofNat 8 n, BitVec.ofNat 8 (n / 256)]

/-- A port's number (00, Conventions); absent reads as 0 (R202). -/
def portBits : Option Port → Nat
  | none => 0
  | some .a => 0
  | some .b => 1
  | some .c => 2
  | some .d => 3

/-- A set of ports as bits (R202). -/
def setBits (x : PortSet) : Nat := x.a.toNat + 2 * x.b.toNat + 4 * x.c.toNat + 8 * x.d.toNat

/-- A handle in three bytes (section 12.1). -/
def handle3 (h : Handle) : List Byte := b2 h.buf.val ++ [h.gen]

/-- READ_BUFFER's 19 bytes: generation, state, presence (2), owner, borrower, share set, length,
head (2), tail (2), offer reference, countdown (2), copy marks, pending kind, pending port,
forced-return port. The presence bits rest on log 12: bit 0 owner, 1 borrower, 2 share set, 3 length,
4 head, 5 tail, 6 offer reference, 7 countdown, 8 copy marks, 9 pending revocation, 10 forced-return
port. -/
def bufferData (r : BufRec) : List Byte :=
  match r.live with
  | none => r.gen :: List.replicate 18 0
  | some l =>
    [r.gen, match l.st with | .held _ => 1 | .offered _ => 2 | .lent _ => 3 | .recalling _ _ => 4] ++
    b2 (1 + 2 * (borrowerOf l).isSome.toNat + 4 + 8 + 16 + 32 + 64 * (offerRefOf l).isSome.toNat +
      128 * (countdownOf l).isSome.toNat + 256 + 512 * l.pendingRev.isSome.toNat +
      1024 * l.forced.isSome.toNat) ++
    [b1 (portBits (some l.owner)), b1 (portBits (borrowerOf l)), b1 (setBits (shareOf l)),
      b1 l.length] ++ b2 l.head.val ++ b2 l.tail.val ++
    [b1 (((offerRefOf l).map Fin.val).getD 0)] ++ b2 ((countdownOf l).getD 0) ++
    [b1 (setBits l.marks),
      match l.pendingRev with
      | none => 0
      | some r => match r.kind with | .expiry => 1 | .teardown => 2 | .forceFree => 3,
      b1 (portBits (l.pendingRev.map Revocation.port)), b1 (portBits l.forced)]

/-- READ_PAGE_ENTRY's 6 bytes: place, buffer (2), next (2), presence (bit 0 buffer, bit 1 next). -/
def pageEntryData : PageEntry → List Byte
  | .free => [0, 0, 0, 0, 0, 0]
  | .scrub => [1, 0, 0, 0, 0, 0]
  | .chained b none => [2] ++ b2 b.val ++ [0, 0, 1]
  | .chained b (some n) => [2] ++ b2 b.val ++ b2 n.val ++ [3]

/-- READ_OFFER's 9 bytes: in use (1 or 0, log 29), offer kind, from, to, handle (3), countdown (2). -/
def offerData : Option Offer → List Byte
  | none => [0, 0, 0, 0, 0, 0, 0, 0, 0]
  | some o =>
    [1, match o.kind with | .lend => 1 | .give => 2, b1 (portBits (some o.src)),
      b1 (portBits (some o.dst))] ++ handle3 o.handle ++ b2 o.countdown

/-- READ_DIR's 9 bytes: count, entry present (1 or 0, log 29), name (2), handle (3), publisher,
mode. -/
def dirData (count : Nat) : Option DirEntry → List Byte
  | none => [b1 count, 0, 0, 0, 0, 0, 0, 0, 0]
  | some e =>
    [b1 count, 1] ++ b2 e.name ++ handle3 e.handle ++
      [b1 (portBits (some e.publisher)), match e.mode with | .openMode => 1 | .listed => 2]

/-- The code of a fault kind (section 12.2). -/
def faultBits : FaultKind → Byte
  | .unmappedAccess => 1
  | .readonlyWrite => 2
  | .cursorRange => 3
  | .postWhileBusy => 4
  | .writeToReadOnlyLocation => 5

/-- A window slot's 7 bytes in READ_PORT: status, handle (3), page index, cursor and length copy. -/
def slotData : WindowSlot → List Byte
  | .empty => [0, 0, 0, 0, 0, 0, 0]
  | .mapped m => slotFields 1 m
  | .void m => slotFields 2 m
where
  slotFields (state : Nat) (m : Mapping) : List Byte :=
    [b1 (state + (match m.mode with | .read => 0 | .write => 4) + 8 * m.endFlag.toNat +
      16 * m.ovr.toNat)] ++ handle3 m.handle ++ [b1 m.pageIndex, b1 m.cursor.val, b1 m.lengthCopy]

/-- READ_PORT's 43 bytes, in the order section 12.4 lists them (log 24): port state, last teardown
cause and fault kind; owned buffers (2) and pages (2); slot state and posted code; notice count, LOST
(1 or 0, log 29) and enables; the fault record (4); W0, W1 and the saved slot (7 each); job and pages
done; walk, phase and position (2). -/
def portData (s : State) (p : Port) : List Byte :=
  let hp := portAt s p
  let state : Byte := match hp.state with | .detached => 0 | .attached => 1 | .teardown => 2
  let cause : Byte :=
    match hp.lastCause with
    | .none => 0 | .detach => 1 | .prst => 2 | .fault _ => 3 | .forceDetach => 4 | .clearAll => 5
  let kind : Byte := match hp.lastCause with | .fault k => faultBits k | _ => 0
  let slot : Byte := match hp.cmd.state with | .idle => 0 | .pending => 1 | .busy => 2 | .done => 3
  let enables := b1 (hp.enables.notice.toNat + 2 * hp.enables.slot.toNat +
    4 * hp.enables.fault.toNat + 8 * hp.enables.lost.toNat)
  let fault : List Byte :=
    match hp.fault with
    | none => [0, 0, 0, 0]
    | some f =>
      match f.access with
      | .write v => [faultBits f.kind, b1 f.offset, v, b1 (f.more.toNat + 2)]
      | _ => [faultBits f.kind, b1 f.offset, 0, b1 f.more.toNat]
  let job : List Byte :=
    match jobAt s p, s.reports.find? (fun r => r.port = p) with
    | some j, _ => [match j.state with | .running => 1 | .stopping _ => 2, b1 j.done]
    | none, some r => [3, b1 r.done]
    | none, none => [0, 0]
  let walk : List Byte :=
    if s.walkList.head? = some p then
      b1 2 :: (match s.walkPhase with | .offers => b1 1 | .buffers => b1 2) :: b2 s.walkPos
    else if p ∈ s.walkList then [1, 0, 0, 0]
    else [0, 0, 0, 0]
  [state, cause, kind] ++ b2 (countsAt s p).buffers ++ b2 (countsAt s p).pages ++
  [slot, hp.cmd.postedCode, b1 hp.queue.length, b1 hp.lost.toNat, enables] ++ fault ++
  slotData hp.w0 ++ slotData hp.w1 ++ slotData hp.saved ++ job ++ walk

/-- READ_POOL's 14 bytes: free count (2), free head (2), scrub count (2), scrub head (2), current
scrub page (2), presence (bit 0 free head, 1 scrub head, 2 current scrub page), paused (1 or 0, log
29), jobs, reports. -/
def poolData (s : State) : List Byte :=
  let scrubbing : Option PageNo := match s.page with | some (.scrub pg _) => some pg | _ => none
  let page (o : Option PageNo) : List Byte := b2 ((o.map Fin.val).getD 0)
  b2 s.freeList.length ++ page s.freeList.head? ++ b2 s.scrubQueue.length ++
  page s.scrubQueue.head? ++ page scrubbing ++
  [b1 (s.freeList.head?.isSome.toNat + 2 * s.scrubQueue.head?.isSome.toNat +
      4 * scrubbing.isSome.toNat),
    b1 s.paused.toNat,
    b1 ((jobAt s .a).isSome.toNat + (jobAt s .b).isSome.toNat + (jobAt s .c).isSome.toNat +
      (jobAt s .d).isSome.toNat),
    b1 s.reports.length]

end Sys2Proof.Safety
end

