-- ==== Sys2Proof/Certificates/Slice0/Obligations.lean ====
section
/-! DEFINITION. The statements for the provers: what the manual's rules say of the part, one
`Obligations.<Name>` each. A statement of an effect gives the whole next state: the fields that
change, the Host Ports that change, and that every other field, port, record and byte of the Page
Memory stays. `tcGrant`, the model's own (log 4), is left to the arbiter's law. -/

open Sys2Proof Sys2Proof.Machine Sys2Proof.Safety

/-! ### The step -/

/-- A step takes the command at the front of the queue and runs it on the queue's rest. -/
def Obligations.StepTakesTheFront : Prop :=
  ∀ (c : Instr) (rest : List Instr) (s : State),
    step { s with pending := c :: rest } = exec c { s with pending := rest }

/-- No command is refused, none touches the queue of waiting commands, and only the commands that
make a transfer of the Page Memory, a host write at a window byte or a cursor data port among them
(log 25), can stop with the model's one fault (log 18). -/
def Obligations.CommandsLeaveTheQueue : Prop :=
  ∀ (c : Instr) (s : State),
    (∀ r, exec c s ≠ .refused r) ∧
    (∀ t, exec c s = .next t → t.pending = s.pending) ∧
    (∀ f, exec c s = .fault f →
      (∃ p k acc, c = .w0DirectViewAccess p k acc) ∨ (∃ p w acc, c = .cursorDataPortAccess p w acc) ∨
      (∃ p off v, c = .hostLocationWrite p off v ∧
        (off.val < 64 ∨ off.val = 0x40 ∨ off.val = 0x44)) ∨ c = .scrubStepEnd ∨ c = .copyPageReadEnd ∨
      c = .copyPageWriteEnd ∨ c = .hold ∨ c = .readMem ∨ c = .writeMem)

/-- While RST is asserted nothing is taken but its release and the levels of PRST (log 22); a host
read gives no byte and ATN is low. -/
def Obligations.NothingIsTakenInReset : Prop :=
  (∀ (c : Instr) (s : State), s.rst = true → c ≠ .rstRelease →
    (∀ p, c ≠ .prstAssertion p) → (∀ p, c ≠ .prstDeassertion p) → exec c s = .next s) ∧
  (∀ (s : State) (p : Port) (off : Nat), s.rst = true →
    readAt s p off = none ∧ atnAt s p = false)

/-! ### Pins -/

/-- What a device reset leaves in every record and block. A byte of the Page Memory may change only
where the zero-fill or the page write in progress, or the WRITE_MEM that has the grant, was to store
it, and then to the byte it was to store (log 7). -/
def Obligations.DeviceResetValues : Prop :=
  ∀ s : State, s.rst = false → ∃ t, exec .deviceReset s = .next t ∧
    (∀ b, recAt t b = ⟨0, none⟩) ∧ (∀ pg, entryAt t pg = .scrub) ∧ (∀ id, offerAt t id = none) ∧
    t.dir = [] ∧ (∀ p, countsAt t p = ⟨0, 0⟩) ∧ t.pendingTicks = 0 ∧ t.walkList = [] ∧
    t.tcLast = .maintenance ∧ t.freeList = [] ∧
    t.scrubQueue.length = 8192 ∧ (∀ pg : PageNo, t.scrubQueue[pg.val]? = some pg) ∧
    t.memLast = .maintenance ∧ (∀ p, jobAt t p = none) ∧ t.page = none ∧ t.nextKind = .scrub ∧
    t.lastCopy = .d ∧ t.reports = [] ∧ t.paused = false ∧ t.maint = .idle ∧ t.hold = false ∧
    (∀ p, perGet t.cfg.bufQuota p = 256 ∧ perGet t.cfg.pageQuota p = 2048 ∧
      perGet t.cfg.policy p = .report) ∧
    t.cfg.offerTicks = 1000 ∧ t.cfg.recallTicks = 500 ∧ t.cfg.tickDiv = 62 ∧
    (∀ p, (portAt t p).state = .detached ∧ (portAt t p).lastCause = .none ∧
      (portAt t p).w0 = .empty ∧ (portAt t p).w1 = .empty ∧ (portAt t p).saved = .empty ∧
      (portAt t p).queue = [] ∧ (portAt t p).lost = false ∧ (portAt t p).fault = none ∧
      (portAt t p).enables = ⟨false, false, false, false⟩ ∧ (portAt t p).dataOut = none ∧
      (portAt t p).prst = (portAt s p).prst ∧
      (portAt t p).cmd = ⟨.idle, List.replicate 16 0, 0, List.replicate 16 0, 0,
        List.replicate 12 0, false⟩) ∧
    t.rst = true ∧ t.underway = none ∧ t.pending = s.pending ∧
    (∀ x, memRead t.mem x ≠ memRead s.mem x →
      (∃ pg, s.page = some (.scrub pg false) ∧ pg.val * 64 ≤ x ∧ x < pg.val * 64 + 64 ∧
        memRead t.mem x = 0) ∨
      (∃ p bytes pg, s.page = some (.copyWrite p bytes false) ∧ copyDest s p = some pg ∧
        pg.val * 64 ≤ x ∧ x < pg.val * 64 + bytes.length ∧
        memRead t.mem x = bytes.getD (x - pg.val * 64) 0) ∨
      (∃ ps pg off n b nx, MaintReady s .writeMem ps ∧ memoryParams ps = .ok (pg, off, n) ∧
        entryAt s pg = .chained b nx ∧
        pg.val * 64 + off ≤ x ∧ x < pg.val * 64 + off + n ∧
        memRead t.mem x = ps.getD (4 + (x - (pg.val * 64 + off))) 0))

/-- The release of RST starts the prescaler at 0 and changes nothing else; an assertion of PRST at
an ATTACHED port is a teardown cause (whose start may meet the take of the port's command, log 27);
at any other port, of an input asserted already, and while RST is asserted it is a level; a
deassertion is a level. -/
def Obligations.RstReleaseAndPrst : Prop :=
  (∀ s : State, s.rst = true → ∃ t, exec .rstRelease s = .next t ∧
    t = { s with rst := false, prescaler := 0, period := (s.cfg.tickDiv + 1) * 256,
                 tcGrant := t.tcGrant } ∧ SameBytes s t) ∧
  (∀ (s : State) (p : Port), s.rst = false → (portAt s p).prst = false → attached s p = true →
    ∃ t, exec (.prstAssertion p) s = .next t ∧
      TeardownBegun p .prst { portAt s p with prst := true } s t) ∧
  (∀ (s : State) (p : Port), s.rst = true ∨ attached s p = false ∨ (portAt s p).prst = true →
    ∃ t, exec (.prstAssertion p) s = .next t ∧
      OnlyPort p { portAt s p with prst := true } s t) ∧
  (∀ (s : State) (p : Port),
    ∃ t, exec (.prstDeassertion p) s = .next t ∧
      OnlyPort p { portAt s p with prst := false } s t)

/-! ### Host accesses -/

/-- A direct-view access that W0's mode permits reads or stores byte `k` of W0's page, resolved
after the Memory Arbiter's grant `u`, and no other byte. A read whose strobe drops before RDY is served
and drives nothing. -/
def Obligations.DirectViewServed : Prop :=
  ∀ (s u : State) (p : Port) (k : Fin 64) (acc : Access) (m : Mapping) (pg : PageNo),
    s.rst = false → (portAt s p).w0 = .mapped m → (∀ v, acc = .write v → m.mode = .write) →
    memGrant (.host p) s = some u → resolveIndex u m.handle.buf m.pageIndex = some pg →
    ∃ t, exec (.w0DirectViewAccess p k acc) s = .next t ∧
      t = { u with ports := t.ports, mem := t.mem, tcGrant := t.tcGrant } ∧ OtherPorts p s t ∧
      (moverWaiting s = false → u = { s with memLast := .host p }) ∧
      (acc = .read →
        portAt t p = driving (portAt s p) (some (memRead u.mem (pg.val * 64 + k.val))) ∧
        SameBytes u t) ∧
      (acc = .readLost → portAt t p = driving (portAt s p) none ∧ SameBytes u t) ∧
      (∀ v, acc = .write v →
        portAt t p = driving (portAt s p) none ∧ memRead t.mem (pg.val * 64 + k.val) = v ∧
        OtherBytes (pg.val * 64 + k.val) 1 u t)

/-- A cursor data port access that is served reads or stores the byte at the slot's position, and
the position advances: to the next byte, to the next page, or with END set. A read whose strobe drops
before RDY advances it all the same. -/
def Obligations.DataPortServed : Prop :=
  ∀ (s u : State) (p : Port) (w : Window) (acc : Access) (m : Mapping) (pg : PageNo),
    s.rst = false → slotAt w (portAt s p) = .mapped m → (∀ v, acc = .write v → m.mode = .write) →
    m.endFlag = false →
    memGrant (.host p) s = some u → resolveIndex u m.handle.buf m.pageIndex = some pg →
    ∃ t m', exec (.cursorDataPortAccess p w acc) s = .next t ∧
      t = { u with ports := t.ports, mem := t.mem, tcGrant := t.tcGrant } ∧ OtherPorts p s t ∧
      (moverWaiting s = false → u = { s with memLast := .host p }) ∧
      (acc = .read →
        portAt t p = putSlot w (.mapped m')
          (driving (portAt s p) (some (memRead u.mem (pg.val * 64 + m.cursor.val)))) ∧
        SameBytes u t) ∧
      (acc = .readLost →
        portAt t p = putSlot w (.mapped m') (driving (portAt s p) none) ∧ SameBytes u t) ∧
      (∀ v, acc = .write v →
        portAt t p = putSlot w (.mapped m') (driving (portAt s p) none) ∧
        memRead t.mem (pg.val * 64 + m.cursor.val) = v ∧
        OtherBytes (pg.val * 64 + m.cursor.val) 1 u t) ∧
      (m.cursor.val < 63 → m'.cursor.val = m.cursor.val + 1 ∧ m' = { m with cursor := m'.cursor }) ∧
      (m.cursor.val = 63 → m.pageIndex + 1 < m.lengthCopy →
        m' = { m with pageIndex := m.pageIndex + 1, cursor := 0 }) ∧
      (m.cursor.val = 63 → m.lengthCopy ≤ m.pageIndex + 1 → m' = { m with endFlag := true })

/-- Accesses that are discarded without a fault: any access through a VOID slot, and a cursor data
port access with END set that the mode permits, which sets OVR. -/
def Obligations.DiscardedAccesses : Prop :=
  (∀ (s : State) (p : Port) (k : Fin 64) (acc : Access) (m : Mapping), s.rst = false →
    (portAt s p).w0 = .void m → ∃ t, exec (.w0DirectViewAccess p k acc) s = .next t ∧
      OnlyPort p (driving (portAt s p) (zeroFor acc)) s t) ∧
  (∀ (s : State) (p : Port) (w : Window) (acc : Access) (v : Byte) (m : Mapping), s.rst = false →
    slotAt w (portAt s p) = .void m →
    (∃ t, exec (.cursorDataPortAccess p w acc) s = .next t ∧
      OnlyPort p (driving (portAt s p) (zeroFor acc)) s t) ∧
    (∃ t, exec (.cursorWrite p w v) s = .next t ∧ OnlyPort p (driving (portAt s p) none) s t) ∧
    (∃ t, exec (.pageIndexWrite p w v) s = .next t ∧
      OnlyPort p (driving (portAt s p) none) s t)) ∧
  (∀ (s : State) (p : Port) (w : Window) (acc : Access) (m : Mapping), s.rst = false →
    slotAt w (portAt s p) = .mapped m → m.endFlag = true →
    (∀ v, acc = .write v → m.mode = .write) →
    ∃ t, exec (.cursorDataPortAccess p w acc) s = .next t ∧
      OnlyPort p (putSlot w (.mapped { m with ovr := true }) (driving (portAt s p) (zeroFor acc)))
        s t)

/-- An access that raises a fault is answered (a read with 0x00, a write discarded), and the fault
is recorded at an ATTACHED port under policy REPORT, starts a teardown under policy DETACH, and
does nothing at a port that is not ATTACHED. -/
def Obligations.HostFaults : Prop :=
  ∀ (s : State) (c : Instr) (p : Port) (k : FaultKind) (off : Nat) (acc : Access),
    s.rst = false → faultOf s c = some (p, k, off, acc) →
    ∃ t, exec c s = .next t ∧ FaultTaken p k off acc s t

/-- The cursor location: a read gives the cursor, 0x00 for an EMPTY slot; a write of 0 to 63 to a
MAPPED slot becomes the cursor and clears END, in mode READ as in mode WRITE; a write above 63 is
discarded with CURSOR_RANGE, one to an EMPTY slot with UNMAPPED_ACCESS, one to a VOID slot without a
fault. -/
def Obligations.CursorWriteRule : Prop :=
  (∀ hp : HostPort,
    readLocation hp 0x41 = some (windowCursor hp.w0) ∧
    readLocation hp 0x45 = some (windowCursor hp.w1)) ∧
  (windowCursor .empty = 0 ∧
    ∀ m, windowCursor (.mapped m) = byteOf m.cursor.val ∧
      windowCursor (.void m) = byteOf m.cursor.val) ∧
  (∀ (s : State) (p : Port) (w : Window) (v : Byte) (m : Mapping), s.rst = false →
    slotAt w (portAt s p) = .mapped m → v.toNat < 64 →
    ∃ t m', exec (.cursorWrite p w v) s = .next t ∧
      OnlyPort p (putSlot w (.mapped m') (driving (portAt s p) none)) s t ∧
      m'.cursor.val = v.toNat ∧ m' = { m with cursor := m'.cursor, endFlag := false }) ∧
  (∀ (s : State) (p : Port) (w : Window) (v : Byte) (off : Nat), s.rst = false →
    off = (match w with | .w0 => 0x41 | .w1 => 0x45) →
    (∀ m, slotAt w (portAt s p) = .mapped m → 64 ≤ v.toNat →
      ∃ t, exec (.cursorWrite p w v) s = .next t ∧
        FaultTaken p .cursorRange off (.write v) s t) ∧
    (∀ m, slotAt w (portAt s p) = .void m →
      ∃ t, exec (.cursorWrite p w v) s = .next t ∧ OnlyPort p (driving (portAt s p) none) s t) ∧
    (slotAt w (portAt s p) = .empty →
      ∃ t, exec (.cursorWrite p w v) s = .next t ∧
        FaultTaken p .unmappedAccess off (.write v) s t))

/-- The page index location: a write below the length copy to a MAPPED slot becomes the page index
and clears END; cursor and OVR stay. -/
def Obligations.PageIndexWriteRule : Prop :=
  ∀ (s : State) (p : Port) (w : Window) (v : Byte) (m : Mapping), s.rst = false →
    slotAt w (portAt s p) = .mapped m → v.toNat < m.lengthCopy →
    ∃ t, exec (.pageIndexWrite p w v) s = .next t ∧
      OnlyPort p (putSlot w (.mapped { m with pageIndex := v.toNat, endFlag := false })
        (driving (portAt s p) none)) s t

/-- The window control: CLEAR OVR clears OVR in W0 and in W1, a value that is none of the four codes
is ignored, a read of the location gives 0x00; UNMAP makes its slot EMPTY whatever it held; SWAP
exchanges the whole records of W0 and the saved slot. -/
def Obligations.WindowControl : Prop :=
  (∀ (s : State) (p : Port), s.rst = false → ∃ t, exec (.clearOvr p) s = .next t ∧
    OnlyPort p { driving (portAt s p) none with
      w0 := (match (portAt s p).w0 with
        | .empty => .empty
        | .mapped m => .mapped { m with ovr := false }
        | .void m => .void { m with ovr := false }),
      w1 := (match (portAt s p).w1 with
        | .empty => .empty
        | .mapped m => .mapped { m with ovr := false }
        | .void m => .void { m with ovr := false }) } s t) ∧
  (∀ (s : State) (p : Port) (v : Byte), s.rst = false → v.toNat = 0 ∨ 4 < v.toNat →
    ∃ t, exec (.hostLocationWrite p 0x48 v) s = .next t ∧
      OnlyPort p (driving (portAt s p) none) s t) ∧
  (∀ hp : HostPort, readLocation hp 0x48 = some 0) ∧
  (∀ (s : State) (p : Port) (w : Window), s.rst = false → ∃ t, exec (.unmap p w) s = .next t ∧
    OnlyPort p (putSlot w .empty (driving (portAt s p) none)) s t) ∧
  (∀ (s : State) (p : Port), s.rst = false → ∃ t, exec (.swap p) s = .next t ∧
    OnlyPort p { driving (portAt s p) none with
      w0 := (portAt s p).saved, saved := (portAt s p).w0 } s t)

/-- Host writes that reach one record of the port: a parameter byte; acknowledge of a DONE slot (and
of no other); pop of the head notice; the four enables, with the level ATN then has; the fault
record emptied; and the cycle with both strobes, which drives nothing. -/
def Obligations.PlainHostWrites : Prop :=
  (∀ (s : State) (p : Port) (off : Fin 128) (v : Byte), s.rst = false →
    0x50 ≤ off.val → off.val ≤ 0x5F →
    ∃ t, exec (.hostLocationWrite p off v) s = .next t ∧
      OnlyPort p { driving (portAt s p) none with cmd := { (portAt s p).cmd with
        params := (portAt s p).cmd.params.set (off.val - 0x50) v } } s t) ∧
  (∀ (s : State) (p : Port) (v : Byte), s.rst = false →
    ∃ t, exec (.acknowledge p v) s = .next t ∧
      OnlyPort p { driving (portAt s p) none with cmd := { (portAt s p).cmd with
        state := if (portAt s p).cmd.state = .done then .idle else (portAt s p).cmd.state } } s t) ∧
  (∀ (s : State) (p : Port) (v : Byte), s.rst = false → ∃ t, exec (.pop p v) s = .next t ∧
    OnlyPort p { driving (portAt s p) none with queue := (portAt s p).queue.drop 1 } s t) ∧
  (∀ (s : State) (p : Port) (v : Byte), s.rst = false →
    ∃ t, exec (.attentionEnablesWrite p v) s = .next t ∧
      OnlyPort p { driving (portAt s p) none with
        enables := ⟨v.getLsbD 0, v.getLsbD 1, v.getLsbD 2, v.getLsbD 3⟩ } s t ∧
      (atnLevel (portAt t p) = true ↔ attached s p = true ∧
        ((v.getLsbD 0 = true ∧ (portAt s p).queue ≠ []) ∨
         (v.getLsbD 1 = true ∧ (portAt s p).cmd.state = .done) ∨
         (v.getLsbD 2 = true ∧ (portAt s p).fault ≠ none) ∨
         (v.getLsbD 3 = true ∧ (portAt s p).lost = true)))) ∧
  (∀ (s : State) (p : Port) (v : Byte), s.rst = false →
    ∃ t, exec (.clearFaultRecord p v) s = .next t ∧
      OnlyPort p { driving (portAt s p) none with fault := none } s t) ∧
  (∀ (s : State) (p : Port), s.rst = false → ∃ t, exec (.bothStrobesCycle p) s = .next t ∧
    OnlyPort p (driving (portAt s p) none) s t)

/-- A post in IDLE or DONE: the value becomes the posted code, the parameter area is copied, result
code and area become 0x00, the cancel-requested flag is cleared, the slot is PENDING. -/
def Obligations.PostCommandRule : Prop :=
  ∀ (s : State) (p : Port) (code : Byte), s.rst = false →
    (portAt s p).cmd.state = .idle ∨ (portAt s p).cmd.state = .done →
    ∃ t, exec (.postCommand p code) s = .next t ∧
      OnlyPort p { driving (portAt s p) none with
        cmd := ⟨.pending, (portAt s p).cmd.params, code, (portAt s p).cmd.params, 0,
          List.replicate 12 0, false⟩ } s t ∧
      grantable t (.port p) = !s.hold

/-- A cancel in PENDING withdraws the command with CANCELLED, and the port presents no request then,
unless a handling of an earlier command of it is still in progress (log 27); of a BUSY COPY whose job or report the
Data Mover holds it is forwarded; in IDLE or DONE, or BUSY with another code, it is ignored. -/
def Obligations.CancelRule : Prop :=
  (∀ (s : State) (p : Port) (v : Byte), s.rst = false → (portAt s p).cmd.state = .pending →
    ∃ t, exec (.cancel p v) s = .next t ∧
      OnlyPort p { driving (portAt s p) none with cmd := { (portAt s p).cmd with
        state := .done, resultCode := 0x15, resultArea := List.replicate 12 0 } } s t ∧
      (slotTaken s p = none → grantable t (.port p) = false)) ∧
  (∀ (s : State) (p : Port) (v : Byte), s.rst = false → (portAt s p).cmd.state = .busy →
    (portAt s p).cmd.postedCode = 0x50 → jobAt s p ≠ none ∨ reportHeld s p = true →
    ∃ t, exec (.cancel p v) s = .next t ∧
      t = { s with ports := t.ports, jobs := t.jobs, reports := t.reports,
                   tcGrant := t.tcGrant } ∧
      SameBytes s t ∧ portAt t p = driving (portAt s p) none ∧ OtherPorts p s t ∧
      JobStopped p .cancelled s t) ∧
  (∀ (s : State) (p : Port) (v : Byte), s.rst = false →
    (portAt s p).cmd.state = .idle ∨ (portAt s p).cmd.state = .done ∨
      ((portAt s p).cmd.state = .busy ∧ (portAt s p).cmd.postedCode ≠ 0x50) →
    ∃ t, exec (.cancel p v) s = .next t ∧ OnlyPort p (driving (portAt s p) none) s t)

/-! ### Commands: the checks of code and port state, attachment, reports -/

/-- A posted code that is no command is answered BAD_COMMAND in every port state; any command but
ATTACH from a port that is not ATTACHED is answered DETACHED, and nothing else changes but COPY's
cancel-requested flag. A command that was taken before its port's teardown started is handled as it
would have been (R74, R143; log 27): its changes stand, and the port, its completion and its notices
and windows at that port aside, is as the start step left it. -/
def Obligations.UnknownCodesAndDetachedPorts : Prop :=
  (∀ (s : State) (p : Port), Taken s p none →
    ∃ t, exec (.badCommand p) s = .next t ∧
      t = { s with ports := t.ports, tcLast := .port p, tcGrant := t.tcGrant } ∧ SameBytes s t ∧
      portAt t p = answered (portAt s p) .badCommand [] ∧ OtherPorts p s t) ∧
  (∀ (s : State) (p : Port) (i : Instr) (c : Command),
    (i, c) ∈ [(Instr.detach p, Command.detach), (.clearFault p, .clearFault),
      (.clearLost p, .clearLost), (.alloc p, .alloc), (.extend p, .extend), (.trim p, .trim),
      (.free p, .free), (.info p, .info), (.map p, .map), (.share p, .share),
      (.unshare p, .unshare), (.leave p, .leave), (.publish p, .publish),
      (.unpublish p, .unpublish), (.lookup p, .lookup), (.nextName p, .next),
      (.subscribe p, .subscribe), (.lend p, .lend), (.give p, .give), (.accept p, .accept),
      (.decline p, .decline), (.withdraw p, .withdraw), (.recall p, .recall),
      (.returnBuffer p, .ret)] →
    Taken s p (some c) → attached s p = false →
    ∃ t, exec i s = .next t ∧
      t = { s with ports := t.ports, tcLast := .port p, tcGrant := t.tcGrant } ∧ SameBytes s t ∧
      portAt t p = answered (portAt s p) .detached [] ∧ OtherPorts p s t) ∧
  (∀ (s : State) (p : Port), Taken s p (some .copy) → attached s p = false →
    ∃ t, exec (.copy p) s = .next t ∧
      t = { s with ports := t.ports, tcLast := .port p, tcGrant := t.tcGrant } ∧ SameBytes s t ∧
      portAt t p = withoutCancel (answered (portAt s p) .detached []) ∧ OtherPorts p s t) ∧
  (∀ (s u : State) (p : Port) (i : Instr) (c : Command) (slot : CmdSlot),
    (i, c) ∈ [(Instr.clearFault p, Command.clearFault),
      (.clearLost p, .clearLost), (.alloc p, .alloc), (.extend p, .extend), (.trim p, .trim),
      (.free p, .free), (.info p, .info), (.map p, .map), (.share p, .share),
      (.unshare p, .unshare), (.leave p, .leave), (.publish p, .publish),
      (.unpublish p, .unpublish), (.lookup p, .lookup), (.nextName p, .next),
      (.subscribe p, .subscribe), (.lend p, .lend), (.give p, .give), (.accept p, .accept),
      (.decline p, .decline), (.withdraw p, .withdraw), (.recall p, .recall),
      (.returnBuffer p, .ret)] →
    RunsOn s p (some c) slot → DirectoryLaw s →
    (∀ id o, offerAt s id = some o → o.src ≠ o.dst) →
    exec i (beforeStart s p slot) = .next u →
    ∃ t, exec i s = .next t ∧
      t = { u with ports := t.ports, tcGrant := t.tcGrant } ∧ SameBytes u t ∧
      portAt t p = portAt s p ∧ OtherPorts p u t) ∧
  (∀ (s : State) (p : Port) (i : Instr) (c : Option Command) (slot : CmdSlot),
    (i, c) ∈ [(Instr.badCommand p, none), (.attach p, some Command.attach),
      (.detach p, some .detach)] → RunsOn s p c slot →
    ∃ t, exec i s = .next t ∧
      t = { s with ports := t.ports, underway := none, tcLast := .port p, tcGrant := t.tcGrant } ∧
      SameBytes s t ∧ ∀ q, portAt t q = portAt s q)

/-- ATTACH from a DETACHED port with PRST deasserted; CLEAR_FAULT, CLEAR_LOST and INFO. Each
reports, and changes no record. -/
def Obligations.AttachAndReports : Prop :=
  (∀ (s : State) (p : Port), Taken s p (some .attach) → (portAt s p).state = .detached →
    (portAt s p).prst = false →
    ∃ t, exec (.attach p) s = .next t ∧
      t = { s with ports := t.ports, tcLast := .port p, tcGrant := t.tcGrant } ∧ SameBytes s t ∧
      portAt t p = answered { portAt s p with state := .attached } .ok
        [portByte p, teardownCode (portAt s p).lastCause,
          teardownFaultCode (portAt s p).lastCause] ∧
      OtherPorts p s t) ∧
  (∀ (s : State) (p : Port), Ready s p .clearFault →
    ∃ t, exec (.clearFault p) s = .next t ∧
      t = { s with ports := t.ports, tcLast := .port p, tcGrant := t.tcGrant } ∧ SameBytes s t ∧
      portAt t p = answered { portAt s p with fault := none } .ok (faultBytes (portAt s p).fault) ∧
      OtherPorts p s t) ∧
  (∀ (s : State) (p : Port), Ready s p .clearLost →
    ∃ t, exec (.clearLost p) s = .next t ∧
      t = { s with ports := t.ports, tcLast := .port p, tcGrant := t.tcGrant } ∧ SameBytes s t ∧
      portAt t p = answered { portAt s p with lost := false } .ok
        [if (portAt s p).lost then 1 else 0, byteOf (portAt s p).queue.length] ∧
      OtherPorts p s t) ∧
  (∀ (s : State) (p : Port) (b : BufNo) (l : Live), Ready s p .info →
    checkHandle s p 0 = .ok (b, l) →
    ∃ t, exec (.info p) s = .next t ∧
      t = { s with ports := t.ports, tcLast := .port p, tcGrant := t.tcGrant } ∧ SameBytes s t ∧
      portAt t p = answered (portAt s p) .ok
        ([byteOf (bufStateCode l.st + 16 * accessCode (access l p)),
          byteOf (portNum l.owner + 4 * ((borrowerOf l).map portNum).getD 0),
          byteOf (setNum (shareOf l) + 16 * setNum l.marks), byteOf l.length,
          byteOf (((offerRefOf l).map Fin.val).getD 0)] ++
         bytes16 ((countdownOf l).getD 0) ++ bytes16 (countsAt s p).buffers ++
         bytes16 (countsAt s p).pages) ∧
      OtherPorts p s t)

/-- DETACH from an ATTACHED port completes with OK, then takes a teardown cause DETACH: the slot is
DONE and stays so, the port is in TEARDOWN with ATN low, and no record is changed. From a port in
DETACHED or TEARDOWN it is refused DETACHED. -/
def Obligations.DetachRule : Prop :=
  (∀ (s : State) (p : Port), Ready s p .detach →
    ∃ t, exec (.detach p) s = .next t ∧
      t = { s with ports := t.ports, jobs := t.jobs, reports := t.reports, walkList := t.walkList,
                   walkPhase := t.walkPhase, walkPos := t.walkPos, tcLast := .port p,
                   tcGrant := t.tcGrant } ∧
      SameBytes s t ∧ OtherPorts p s t ∧
      TornDown .detach (answered (portAt s p) .ok []) (portAt t p) ∧
      (portAt t p).cmd.state = .done ∧ atnLevel (portAt t p) = false ∧
      JobStopped p .aborted s t ∧ WalkJoined p s t) ∧
  (∀ (s : State) (p : Port), Taken s p (some .detach) →
    (portAt s p).state = .detached ∨ (portAt s p).state = .teardown →
    ∃ t, exec (.detach p) s = .next t ∧
      t = { s with ports := t.ports, tcLast := .port p, tcGrant := t.tcGrant } ∧ SameBytes s t ∧
      portAt t p = answered (portAt s p) .detached [] ∧ OtherPorts p s t)

/-! ### Commands: owning buffers -/

/-- A chain that is linked reads back, from its first page, as its pages in their order, each
chained to the buffer and the last without a next; the entries of other pages stay. -/
def Obligations.LinkedChain : Prop :=
  ∀ (b : BufNo) (hd : PageNo) (tl : List PageNo) (pm : List (Nat × PageEntry)),
    (hd :: tl).Nodup →
    chainFrom (linkChain b (hd :: tl) pm) hd (tl.length + 1) = hd :: tl ∧
    (∀ pg ∈ hd :: tl, ∃ n, tabGet .scrub (linkChain b (hd :: tl) pm) pg.val = .chained b n) ∧
    tabGet .scrub (linkChain b (hd :: tl) pm) ((hd :: tl).getLast (by simp)).val = .chained b none ∧
    (∀ pg : PageNo, pg ∉ hd :: tl →
      tabGet .scrub (linkChain b (hd :: tl) pm) pg.val = tabGet .scrub pm pg.val)

/-- ALLOC takes the lowest-numbered VACANT record, HELD by the caller with an empty share set, empty
marks and the length asked for, its pages the first of the Free List in their order; the counts
rise; the handle, length and counts are the result; no notice, no window. -/
def Obligations.AllocRule : Prop :=
  ∀ (s : State) (p : Port) (b : BufNo) (n : Nat), Ready s p .alloc →
    n = (param s p 0).toNat → 1 ≤ n → n ≤ 32 →
    (countsAt s p).buffers + 1 ≤ perGet s.cfg.bufQuota p →
    (countsAt s p).pages + n ≤ perGet s.cfg.pageQuota p →
    liveAt s b = none → (∀ c, c < b → liveAt s c ≠ none) → n ≤ s.freeList.length →
    ∃ t hd tl, exec (.alloc p) s = .next t ∧
      t = { s with ports := t.ports, buffers := t.buffers, counts := t.counts,
                   freeList := s.freeList.drop n,
                   pageMap := linkChain b (s.freeList.take n) s.pageMap,
                   tcLast := .port p, tcGrant := t.tcGrant } ∧
      SameBytes s t ∧
      s.freeList[0]? = some hd ∧ s.freeList[n - 1]? = some tl ∧
      RecordBecomes b ⟨p, .held ⟨false, false, false, false⟩, n, hd, tl,
        ⟨false, false, false, false⟩, none, none⟩ s t ∧
      (∀ q, countsAt t q = if q = p then
        ⟨(countsAt s p).buffers + 1, (countsAt s p).pages + n⟩ else countsAt s q) ∧
      portAt t p = answered (portAt s p) .ok
        (handleBytes ⟨b, genAt s b⟩ ++ [byteOf n] ++ bytes16 ((countsAt s p).buffers + 1) ++
          bytes16 ((countsAt s p).pages + n)) ∧
      OtherPorts p s t

/-- EXTEND appends pages of the Free List's head at the tail, raises the page count, and gives every
slot MAPPED on the handle, at any port, the new length. -/
def Obligations.ExtendRule : Prop :=
  ∀ (s : State) (p : Port) (b : BufNo) (l : Live) (n : Nat), Ready s p .extend →
    checkHandle s p 0 = .ok (b, l) → n = (param s p 3).toNat → 1 ≤ n → l.owner = p →
    isHeld l = true → l.length + n ≤ 32 →
    (countsAt s p).pages + n ≤ perGet s.cfg.pageQuota p → n ≤ s.freeList.length →
    ∃ t tl, exec (.extend p) s = .next t ∧
      t = { s with ports := t.ports, buffers := t.buffers, counts := t.counts,
                   freeList := s.freeList.drop n,
                   pageMap := linkChain b (l.tail :: s.freeList.take n) s.pageMap,
                   tcLast := .port p, tcGrant := t.tcGrant } ∧
      SameBytes s t ∧ s.freeList[n - 1]? = some tl ∧
      RecordBecomes b { l with length := l.length + n, tail := tl } s t ∧
      (∀ q, countsAt t q = if q = p then
        ⟨(countsAt s p).buffers, (countsAt s p).pages + n⟩ else countsAt s q) ∧
      (∀ q, q ≠ p → portAt t q = onSlots (lengthSlot ⟨b, genAt s b⟩ (l.length + n)) (portAt s q)) ∧
      portAt t p = answered (onSlots (lengthSlot ⟨b, genAt s b⟩ (l.length + n)) (portAt s p)) .ok
        ([byteOf (l.length + n)] ++ bytes16 ((countsAt s p).pages + n))

/-- TRIM removes the last pages of the chain to the Scrub Queue's tail, lowers the page count, and
gives every port a trim request; a port other than the caller that voided a slot gets REVOKED. -/
def Obligations.TrimRule : Prop :=
  ∀ (s : State) (p : Port) (b : BufNo) (l : Live) (n m : Nat) (tl : PageNo), Ready s p .trim →
    checkHandle s p 0 = .ok (b, l) → n = (param s p 3).toNat → 1 ≤ n → n ≤ 32 → l.owner = p →
    isHeld l = true → n < l.length → isEmptySet l.marks = true → m = l.length - n →
    ((chainOf s l).take m).getLast? = some tl →
    ∃ t, exec (.trim p) s = .next t ∧
      t = { s with ports := t.ports, buffers := t.buffers, pageMap := t.pageMap,
                   counts := t.counts, scrubQueue := s.scrubQueue ++ (chainOf s l).drop m,
                   tcLast := .port p, tcGrant := t.tcGrant } ∧
      SameBytes s t ∧ RecordBecomes b { l with length := m, tail := tl } s t ∧
      (∀ pg, entryAt t pg = if pg = tl then .chained b none
        else if pg ∈ (chainOf s l).drop m then .scrub else entryAt s pg) ∧
      (∀ q, countsAt t q = if q = p then
        ⟨(countsAt s p).buffers, (countsAt s p).pages - n⟩ else countsAt s q) ∧
      (∀ q, q ≠ p → portAt t q =
        (if 0 < countSlots (trimmed ⟨b, genAt s b⟩ m) (portAt s q) then
          notified (onSlots (trimSlot ⟨b, genAt s b⟩ m) (portAt s q))
            (.revoked ⟨b, genAt s b⟩ .trim)
         else onSlots (trimSlot ⟨b, genAt s b⟩ m) (portAt s q))) ∧
      portAt t p = answered (onSlots (trimSlot ⟨b, genAt s b⟩ m) (portAt s p)) .ok
        ([byteOf m] ++ bytes16 ((countsAt s p).pages - n))

/-- FREE retires the record: every port's slots on the handle are voided, every port of the share
set gets REVOKED cause FREE and the caller no notice, the Directory entries go, the chain joins the
Scrub Queue, the counts fall, the record is VACANT with its generation advanced. -/
def Obligations.FreeRule : Prop :=
  ∀ (s : State) (p : Port) (b : BufNo) (l : Live), Ready s p .free →
    checkHandle s p 0 = .ok (b, l) → l.owner = p → isHeld l = true → isEmptySet l.marks = true →
    ∃ t, exec (.free p) s = .next t ∧
      t = { s with ports := t.ports, buffers := t.buffers, pageMap := t.pageMap,
                   counts := t.counts, scrubQueue := t.scrubQueue,
                   dir := s.dir.filter (fun e => e.handle.buf != b),
                   tcLast := .port p, tcGrant := t.tcGrant } ∧
      SameBytes s t ∧ RecordRetired b s t ∧ PagesScrubbed (chainOf s l) s t ∧
      (∀ q, countsAt t q = if q = p then
        ⟨(countsAt s p).buffers - 1, (countsAt s p).pages - l.length⟩ else countsAt s q) ∧
      (∀ q, q ≠ p → portAt t q =
        if perGet (shareOf l) q then
          notified (voided (portAt s q) ⟨b, genAt s b⟩) (.revoked ⟨b, genAt s b⟩ .freed)
        else voided (portAt s q) ⟨b, genAt s b⟩) ∧
      portAt t p = answered (voided (portAt s p) ⟨b, genAt s b⟩) .ok
        ([byteOf l.length] ++ bytes16 ((countsAt s p).buffers - 1) ++
          bytes16 ((countsAt s p).pages - l.length))

/-- MAP installs in the position named: MAPPED, with the handle, mode and page index asked for, the
record's length, cursor 0, END and OVR clear. -/
def Obligations.MapRule : Prop :=
  ∀ (s : State) (p : Port) (b : BufNo) (l : Live) (w : Window) (mode : MapMode), Ready s p .map →
    checkHandle s p 0 = .ok (b, l) → windowOf (param s p 3) = some w →
    mapModeOf (param s p 4) = some mode → allows (access l p) mode = true →
    (param s p 5).toNat < l.length →
    ∃ t, exec (.map p) s = .next t ∧
      t = { s with ports := t.ports, tcLast := .port p, tcGrant := t.tcGrant } ∧ SameBytes s t ∧
      portAt t p = answered (putSlot w
        (.mapped ⟨⟨b, genAt s b⟩, mode, l.length, (param s p 5).toNat, 0, false, false⟩)
        (portAt s p)) .ok [byteOf l.length] ∧
      OtherPorts p s t

/-! ### Commands: sharing and the Directory -/

/-- SHARE adds the target to the share set and appends GRANTED to its queue; no window changes. -/
def Obligations.ShareRule : Prop :=
  ∀ (s : State) (p q : Port) (b : BufNo) (l : Live), Ready s p .share →
    checkHandle s p 0 = .ok (b, l) → l.owner = p → isHeld l = true →
    portOf (param s p 3) = some q → q ≠ p → attached s q = true →
    perGet (shareOf l) q = false → (portAt s q).queue.length ≤ 12 →
    ∃ t, exec (.share p) s = .next t ∧
      t = { s with ports := t.ports, buffers := t.buffers, tcLast := .port p,
                   tcGrant := t.tcGrant } ∧
      SameBytes s t ∧ RecordBecomes b { l with st := .held (perSet (shareOf l) q true) } s t ∧
      portAt t p = answered (portAt s p) .ok [byteOf (setNum (perSet (shareOf l) q true))] ∧
      portAt t q = { portAt s q with
        queue := (portAt s q).queue ++ [.granted ⟨b, genAt s b⟩ p] } ∧
      (∀ r, r ≠ p → r ≠ q → portAt t r = portAt s r)

/-- UNSHARE removes the target, voids its slots on the buffer and appends REVOKED cause UNSHARE to
its queue; LEAVE removes the caller, voids its slots and appends LEFT cause LEAVE to the owner's
queue. Each reports the slots it voided. -/
def Obligations.UnshareAndLeave : Prop :=
  (∀ (s : State) (p q : Port) (b : BufNo) (l : Live), Ready s p .unshare →
    checkHandle s p 0 = .ok (b, l) → l.owner = p → portOf (param s p 3) = some q → q ≠ p →
    perGet (shareOf l) q = true → perGet l.marks q = false →
    ∃ t, exec (.unshare p) s = .next t ∧
      t = { s with ports := t.ports, buffers := t.buffers, tcLast := .port p,
                   tcGrant := t.tcGrant } ∧
      SameBytes s t ∧ RecordBecomes b { l with st := .held (perSet (shareOf l) q false) } s t ∧
      portAt t p = answered (portAt s p) .ok
        [byteOf (setNum (perSet (shareOf l) q false)),
          byteOf (countSlots (mappedOn ⟨b, genAt s b⟩) (portAt s q))] ∧
      portAt t q = notified (voided (portAt s q) ⟨b, genAt s b⟩)
        (.revoked ⟨b, genAt s b⟩ .unshare) ∧
      (∀ r, r ≠ p → r ≠ q → portAt t r = portAt s r)) ∧
  (∀ (s : State) (p : Port) (b : BufNo) (l : Live), Ready s p .leave →
    checkHandle s p 0 = .ok (b, l) → perGet (shareOf l) p = true → perGet l.marks p = false →
    ∃ t, exec (.leave p) s = .next t ∧
      t = { s with ports := t.ports, buffers := t.buffers, tcLast := .port p,
                   tcGrant := t.tcGrant } ∧
      SameBytes s t ∧ RecordBecomes b { l with st := .held (perSet (shareOf l) p false) } s t ∧
      (l.owner ≠ p →
        portAt t p = answered (voided (portAt s p) ⟨b, genAt s b⟩) .ok
          [byteOf (countSlots (mappedOn ⟨b, genAt s b⟩) (portAt s p))] ∧
        portAt t l.owner = notified (portAt s l.owner) (.left ⟨b, genAt s b⟩ p .leave)) ∧
      (∀ r, r ≠ p → r ≠ l.owner → portAt t r = portAt s r))

/-- PUBLISH inserts the entry with the caller as publisher at its place in name order; LOOKUP and
NEXT report an entry with the current length of its buffer, and change nothing. -/
def Obligations.PublishAndLookup : Prop :=
  (∀ (s : State) (p : Port) (b : BufNo) (l : Live) (name : Nat) (mode : DirMode),
    Ready s p .publish → checkHandle s p 0 = .ok (b, l) → name = paramNum s p 3 → name ≠ 0 →
    dirModeOf (param s p 5) = some mode → l.owner = p → isHeld l = true →
    (∀ e ∈ s.dir, e.name ≠ name) → s.dir.length < 64 →
    ∃ t before after, exec (.publish p) s = .next t ∧
      t = { s with ports := t.ports, dir := t.dir, tcLast := .port p, tcGrant := t.tcGrant } ∧
      SameBytes s t ∧ s.dir = before ++ after ∧
      t.dir = before ++ ⟨name, ⟨b, genAt s b⟩, p, mode⟩ :: after ∧
      (∀ e ∈ before, e.name < name) ∧ (∀ e, after.head? = some e → name < e.name) ∧
      portAt t p = answered (portAt s p) .ok [byteOf (s.dir.length + 1)] ∧ OtherPorts p s t) ∧
  (∀ (s : State) (p : Port) (e : DirEntry) (l : Live) (name : Nat), Ready s p .lookup →
    name = paramNum s p 0 → name ≠ 0 → s.dir.find? (fun x => x.name = name) = some e →
    liveAt s e.handle.buf = some l →
    ∃ t, exec (.lookup p) s = .next t ∧
      t = { s with ports := t.ports, tcLast := .port p, tcGrant := t.tcGrant } ∧ SameBytes s t ∧
      portAt t p = answered (portAt s p) .ok
        (handleBytes e.handle ++ [portByte e.publisher, dirModeCode e.mode, byteOf l.length]) ∧
      OtherPorts p s t) ∧
  (∀ (s : State) (p : Port) (e : DirEntry) (l : Live), Ready s p .next →
    s.dir.find? (fun x => paramNum s p 0 < x.name) = some e → liveAt s e.handle.buf = some l →
    ∃ t, exec (.nextName p) s = .next t ∧
      t = { s with ports := t.ports, tcLast := .port p, tcGrant := t.tcGrant } ∧ SameBytes s t ∧
      portAt t p = answered (portAt s p) .ok
        (bytes16 e.name ++ handleBytes e.handle ++
          [portByte e.publisher, dirModeCode e.mode, byteOf l.length]) ∧
      OtherPorts p s t)

/-- UNPUBLISH: RANGE for name 0, NOT_FOUND for a name no entry carries, NOT_OWNER unless the caller
is the publisher, in that order; else the entry goes, every other entry stays in its order, and the
result carries the handle and the number remaining. Nothing else changes. -/
def Obligations.UnpublishRule : Prop :=
  ∀ (s : State) (p : Port) (name : Nat), Ready s p .unpublish → name = paramNum s p 0 →
    ∃ t, exec (.unpublish p) s = .next t ∧
      t = { s with ports := t.ports, dir := t.dir, tcLast := .port p, tcGrant := t.tcGrant } ∧
      SameBytes s t ∧ OtherPorts p s t ∧
      (name = 0 → t.dir = s.dir ∧ portAt t p = answered (portAt s p) .range []) ∧
      (name ≠ 0 → (∀ e ∈ s.dir, e.name ≠ name) →
        t.dir = s.dir ∧ portAt t p = answered (portAt s p) .notFound []) ∧
      (∀ e, name ≠ 0 → s.dir.find? (fun x => x.name = name) = some e →
        (e.publisher ≠ p → t.dir = s.dir ∧ portAt t p = answered (portAt s p) .notOwner []) ∧
        (e.publisher = p →
          t.dir = s.dir.filter (fun x => x.name ≠ name) ∧
          portAt t p = answered (portAt s p) .ok
            (handleBytes e.handle ++ [byteOf t.dir.length])))

/-- SUBSCRIBE through an OPEN entry adds the caller to the share set and appends JOINED to the
owner's queue; the entry stays and no window changes. -/
def Obligations.SubscribeRule : Prop :=
  ∀ (s : State) (p : Port) (e : DirEntry) (l : Live) (name : Nat), Ready s p .subscribe →
    name = paramNum s p 0 → name ≠ 0 → s.dir.find? (fun x => x.name = name) = some e →
    liveAt s e.handle.buf = some l → l.owner ≠ p → e.mode = .openMode → isHeld l = true →
    e.publisher = l.owner → attached s l.owner = true → perGet (shareOf l) p = false →
    (portAt s l.owner).queue.length ≤ 12 →
    ∃ t, exec (.subscribe p) s = .next t ∧
      t = { s with ports := t.ports, buffers := t.buffers, tcLast := .port p,
                   tcGrant := t.tcGrant } ∧
      SameBytes s t ∧
      RecordBecomes e.handle.buf { l with st := .held (perSet (shareOf l) p true) } s t ∧
      portAt t p = answered (portAt s p) .ok
        (handleBytes ⟨e.handle.buf, genAt s e.handle.buf⟩ ++
          [byteOf l.length, portByte l.owner]) ∧
      portAt t l.owner = { portAt s l.owner with queue := (portAt s l.owner).queue ++
        [.joined ⟨e.handle.buf, genAt s e.handle.buf⟩ p name] } ∧
      (∀ r, r ≠ p → r ≠ l.owner → portAt t r = portAt s r)

/-! ### Commands: offers, lending, recall, copies -/

/-- LEND and GIVE take the lowest free Offer Table entry with a countdown of OFFER_TICKS, make the
record OFFERED with no forced-return port, and append OFFER to the target's queue. -/
def Obligations.OfferRule : Prop :=
  ∀ (s : State) (p q : Port) (b : BufNo) (l : Live) (id : OfferId) (i : Instr) (c : Command)
    (kind : OfferKind),
    (i, c, kind) = (.lend p, .lend, .lend) ∨ (i, c, kind) = (.give p, .give, .give) →
    Ready s p c → checkHandle s p 0 = .ok (b, l) → l.owner = p → isHeld l = true →
    isEmptySet (shareOf l) = true → portOf (param s p 3) = some q → q ≠ p → attached s q = true →
    isEmptySet l.marks = true → offerAt s id = none → (∀ j, j < id → offerAt s j ≠ none) →
    (portAt s q).queue.length ≤ 12 →
    ∃ t, exec i s = .next t ∧
      t = { s with ports := t.ports, buffers := t.buffers, offers := t.offers,
                   tcLast := .port p, tcGrant := t.tcGrant } ∧
      SameBytes s t ∧ RecordBecomes b { l with st := .offered id, forced := none } s t ∧
      offerAt t id = some ⟨kind, p, q, ⟨b, genAt s b⟩, s.cfg.offerTicks⟩ ∧ OtherOffers id s t ∧
      portAt t p = answered (portAt s p) .ok ([byteOf id.val] ++ bytes16 s.cfg.offerTicks) ∧
      portAt t q = { portAt s q with
        queue := (portAt s q).queue ++ [.offer id kind p ⟨b, genAt s b⟩ l.length] } ∧
      (∀ r, r ≠ p → r ≠ q → portAt t r = portAt s r)

/-- ACCEPT of a LEND frees the entry, makes the caller the borrower, voids the owner's slots and
appends ACCEPTED to its queue; counts, chain and Directory stay. -/
def Obligations.AcceptLendRule : Prop :=
  ∀ (s : State) (p : Port) (b : BufNo) (l : Live) (id : OfferId) (o : Offer), Ready s p .accept →
    checkHandle s p 0 = .ok (b, l) → (param s p 3).toNat = id.val → offerAt s id = some o →
    o.handle.buf = b → o.dst = p → o.kind = .lend → attached s o.src = true →
    isEmptySet l.marks = true → l.owner ≠ p →
    ∃ t, exec (.accept p) s = .next t ∧
      t = { s with ports := t.ports, buffers := t.buffers, offers := t.offers,
                   tcLast := .port p, tcGrant := t.tcGrant } ∧
      SameBytes s t ∧ RecordBecomes b { l with st := .lent p } s t ∧
      offerAt t id = none ∧ OtherOffers id s t ∧
      portAt t p = answered (portAt s p) .ok
        (handleBytes ⟨b, genAt s b⟩ ++ [1, byteOf l.length, portByte l.owner]) ∧
      portAt t l.owner = notified (voided (portAt s l.owner) ⟨b, genAt s b⟩)
        (.accepted id ⟨b, genAt s b⟩ p) ∧
      (∀ r, r ≠ p → r ≠ l.owner → portAt t r = portAt s r)

/-- ACCEPT of a GIVE frees the entry, makes the caller the owner of a HELD record with an empty
share set and the same generation, moves the counts, removes the Directory entries, voids the old
owner's slots and appends ACCEPTED to its queue. -/
def Obligations.AcceptGiveRule : Prop :=
  ∀ (s : State) (p : Port) (b : BufNo) (l : Live) (id : OfferId) (o : Offer), Ready s p .accept →
    checkHandle s p 0 = .ok (b, l) → (param s p 3).toNat = id.val → offerAt s id = some o →
    o.handle.buf = b → o.dst = p → o.kind = .give → attached s o.src = true →
    isEmptySet l.marks = true → l.owner ≠ p →
    (countsAt s p).buffers + 1 ≤ perGet s.cfg.bufQuota p →
    (countsAt s p).pages + l.length ≤ perGet s.cfg.pageQuota p →
    ∃ t, exec (.accept p) s = .next t ∧
      t = { s with ports := t.ports, buffers := t.buffers, offers := t.offers,
                   counts := t.counts, dir := s.dir.filter (fun e => e.handle.buf != b),
                   tcLast := .port p, tcGrant := t.tcGrant } ∧
      SameBytes s t ∧
      RecordBecomes b { l with owner := p, st := .held ⟨false, false, false, false⟩ } s t ∧
      offerAt t id = none ∧ OtherOffers id s t ∧
      (∀ q, countsAt t q =
        if q = p then ⟨(countsAt s p).buffers + 1, (countsAt s p).pages + l.length⟩
        else if q = l.owner then
          ⟨(countsAt s q).buffers - 1, (countsAt s q).pages - l.length⟩
        else countsAt s q) ∧
      portAt t p = answered (portAt s p) .ok
        (handleBytes ⟨b, genAt s b⟩ ++ [2, byteOf l.length] ++
          bytes16 ((countsAt s p).buffers + 1) ++ bytes16 ((countsAt s p).pages + l.length)) ∧
      portAt t l.owner = notified (voided (portAt s l.owner) ⟨b, genAt s b⟩)
        (.accepted id ⟨b, genAt s b⟩ p) ∧
      (∀ r, r ≠ p → r ≠ l.owner → portAt t r = portAt s r)

/-- DECLINE and WITHDRAW free the entry and return the record to HELD with the same owner. DECLINE
appends DECLINED to the offeror's queue, WITHDRAW appends WITHDRAWN to the target's. WITHDRAW is
refused RANGE or BAD_HANDLE for a handle that is not valid, then NOT_OWNER by any port but the owner,
then STATE unless the record is OFFERED. -/
def Obligations.DeclineAndWithdraw : Prop :=
  (∀ (s : State) (p : Port) (b : BufNo) (l : Live) (id : OfferId) (o : Offer),
    Ready s p .decline → checkHandle s p 0 = .ok (b, l) → (param s p 3).toNat = id.val →
    offerAt s id = some o → o.handle.buf = b → o.dst = p → l.st = .offered id → o.src ≠ p →
    ∃ t, exec (.decline p) s = .next t ∧
      t = { s with ports := t.ports, buffers := t.buffers, offers := t.offers,
                   tcLast := .port p, tcGrant := t.tcGrant } ∧
      SameBytes s t ∧ RecordBecomes b { l with st := .held ⟨false, false, false, false⟩ } s t ∧
      offerAt t id = none ∧ OtherOffers id s t ∧
      portAt t p = answered (portAt s p) .ok [byteOf id.val] ∧
      portAt t o.src = notified (portAt s o.src) (.declined id ⟨b, genAt s b⟩ .decline) ∧
      (∀ r, r ≠ p → r ≠ o.src → portAt t r = portAt s r)) ∧
  (∀ (s : State) (p : Port) (b : BufNo) (l : Live) (id : OfferId) (o : Offer),
    Ready s p .withdraw → checkHandle s p 0 = .ok (b, l) → l.owner = p → l.st = .offered id →
    offerAt s id = some o → o.handle.buf = b → o.dst ≠ p →
    ∃ t, exec (.withdraw p) s = .next t ∧
      t = { s with ports := t.ports, buffers := t.buffers, offers := t.offers,
                   tcLast := .port p, tcGrant := t.tcGrant } ∧
      SameBytes s t ∧ RecordBecomes b { l with st := .held ⟨false, false, false, false⟩ } s t ∧
      offerAt t id = none ∧ OtherOffers id s t ∧
      portAt t p = answered (portAt s p) .ok [byteOf id.val] ∧
      portAt t o.dst = notified (portAt s o.dst) (.withdrawn id ⟨b, genAt s b⟩) ∧
      (∀ r, r ≠ p → r ≠ o.dst → portAt t r = portAt s r)) ∧
  (∀ (s : State) (p : Port) (b : BufNo) (l : Live), Ready s p .withdraw →
    checkHandle s p 0 = .ok (b, l) → l.owner ≠ p ∨ (l.owner = p ∧ offerRefOf l = none) →
    ∃ t, exec (.withdraw p) s = .next t ∧
      t = { s with ports := t.ports, tcLast := .port p, tcGrant := t.tcGrant } ∧ SameBytes s t ∧
      portAt t p = answered (portAt s p) (if l.owner = p then .state else .notOwner) [] ∧
      OtherPorts p s t) ∧
  (∀ (s : State) (p : Port) (r : Result), Ready s p .withdraw → checkHandle s p 0 = .error r →
    (r = .range ↔ 1024 ≤ paramNum s p 0) ∧ (r = .badHandle ↔ paramNum s p 0 < 1024) ∧
    ∃ t, exec (.withdraw p) s = .next t ∧
      t = { s with ports := t.ports, tcLast := .port p, tcGrant := t.tcGrant } ∧ SameBytes s t ∧
      portAt t p = answered (portAt s p) r [] ∧ OtherPorts p s t)

/-- RECALL makes a LENT record RECALLING with the grace period, or RECALL_TICKS for 0, and appends
RECALL to the borrower's queue. RETURN by the borrower without a mark makes the record HELD, voids
the borrower's slots and appends RETURNED to the owner's queue; by the forced-return port it is
answered LATE. -/
def Obligations.RecallAndReturn : Prop :=
  (∀ (s : State) (p q : Port) (b : BufNo) (l : Live) (n : Nat), Ready s p .recall →
    checkHandle s p 0 = .ok (b, l) → l.owner = p → l.st = .lent q → q ≠ p →
    n = (if paramNum s p 3 = 0 then s.cfg.recallTicks else paramNum s p 3) →
    ∃ t, exec (.recall p) s = .next t ∧
      t = { s with ports := t.ports, buffers := t.buffers, tcLast := .port p,
                   tcGrant := t.tcGrant } ∧
      SameBytes s t ∧ RecordBecomes b { l with st := .recalling q n } s t ∧
      portAt t p = answered (portAt s p) .ok (bytes16 n) ∧
      portAt t q = notified (portAt s q) (.recall ⟨b, genAt s b⟩ n) ∧
      (∀ r, r ≠ p → r ≠ q → portAt t r = portAt s r)) ∧
  (∀ (s : State) (p : Port) (b : BufNo) (l : Live), Ready s p .ret →
    checkHandle s p 0 = .ok (b, l) → l.forced ≠ some p → borrowerOf l = some p →
    perGet l.marks p = false → l.owner ≠ p →
    ∃ t, exec (.returnBuffer p) s = .next t ∧
      t = { s with ports := t.ports, buffers := t.buffers, tcLast := .port p,
                   tcGrant := t.tcGrant } ∧
      SameBytes s t ∧ RecordBecomes b { l with st := .held ⟨false, false, false, false⟩ } s t ∧
      portAt t p = answered (voided (portAt s p) ⟨b, genAt s b⟩) .ok
        [byteOf (countSlots (mappedOn ⟨b, genAt s b⟩) (portAt s p))] ∧
      portAt t l.owner = notified (portAt s l.owner) (.returned ⟨b, genAt s b⟩ .returned) ∧
      (∀ r, r ≠ p → r ≠ l.owner → portAt t r = portAt s r)) ∧
  (∀ (s : State) (p : Port) (b : BufNo) (l : Live), Ready s p .ret →
    checkHandle s p 0 = .ok (b, l) → l.forced = some p →
    ∃ t, exec (.returnBuffer p) s = .next t ∧
      t = { s with ports := t.ports, tcLast := .port p, tcGrant := t.tcGrant } ∧ SameBytes s t ∧
      portAt t p = answered (portAt s p) .late [] ∧ OtherPorts p s t)

/-- An accepted COPY marks both records with the caller, leaves the slot BUSY and gives the Data
Mover a RUNNING job of 0 pages done; a record that holds a pending revocation ends the job at once
with a report ABORTED. A COPY refused by its checks is completed with the result, its cancel-requested
flag cleared. One accepted after its port's teardown started has its job stopped in the same handling
(R74, R161; log 27). No byte is copied in this step. -/
def Obligations.CopyRule : Prop :=
  (∀ (s : State) (p : Port) (src dst : BufNo) (ls ld : Live) (i j n : Nat), Ready s p .copy →
    checkHandle s p 0 = .ok (src, ls) → checkHandle s p 4 = .ok (dst, ld) →
    i = (param s p 3).toNat → j = (param s p 7).toNat → n = (param s p 8).toNat →
    1 ≤ n → n ≤ 32 → access ls p ≠ .none → access ld p = .readWrite →
    i + n ≤ ls.length → j + n ≤ ld.length →
    (src = dst → i + n ≤ j ∨ j + n ≤ i) → (portAt s p).cmd.cancelRequested = false →
    ∃ t, exec (.copy p) s = .next t ∧
      t = { s with ports := t.ports, buffers := t.buffers, jobs := t.jobs, reports := t.reports,
                   tcLast := .port p, tcGrant := t.tcGrant } ∧
      SameBytes s t ∧
      recAt t src = ⟨genAt s src, some { ls with marks := perSet ls.marks p true }⟩ ∧
      recAt t dst = ⟨genAt s dst, some { ld with marks := perSet ld.marks p true }⟩ ∧
      (∀ c, c ≠ src → c ≠ dst → recAt t c = recAt s c) ∧
      portAt t p = { portAt s p with cmd := { (portAt s p).cmd with state := .busy } } ∧
      OtherPorts p s t ∧ (∀ q, q ≠ p → jobAt t q = jobAt s q) ∧
      (ls.pendingRev = none → ld.pendingRev = none →
        jobAt t p = some ⟨⟨src, genAt s src⟩, i, ⟨dst, genAt s dst⟩, j, n, 0, .running⟩ ∧
        t.reports = s.reports) ∧
      (ls.pendingRev ≠ none ∨ ld.pendingRev ≠ none → copyPageOf s.page p = false →
        jobAt t p = none ∧
        t.reports = s.reports ++ [⟨p, ⟨src, genAt s src⟩, ⟨dst, genAt s dst⟩, 0, .aborted⟩])) ∧
  (∀ (s : State) (p : Port) (r : Result), Ready s p .copy → copyChecks p s = .error r →
    ∃ t, exec (.copy p) s = .next t ∧
      t = { s with ports := t.ports, tcLast := .port p, tcGrant := t.tcGrant } ∧ SameBytes s t ∧
      portAt t p = withoutCancel (answered (portAt s p) r []) ∧ OtherPorts p s t) ∧
  (∀ (s : State) (p : Port) (slot : CmdSlot) (j : Job) (ls ld : Live),
    RunsOn s p (some .copy) slot → copyChecks p (beforeStart s p slot) = .ok j →
    liveAt s j.src.buf = some ls → liveAt s j.dst.buf = some ld →
    ∃ t, exec (.copy p) s = .next t ∧
      t = { s with ports := t.ports, buffers := t.buffers, jobs := t.jobs, reports := t.reports,
                   underway := none, tcLast := .port p, tcGrant := t.tcGrant } ∧
      SameBytes s t ∧ (∀ q, portAt t q = portAt s q) ∧
      recAt t j.src.buf =
        ⟨genAt s j.src.buf, some { ls with marks := perSet ls.marks p true }⟩ ∧
      recAt t j.dst.buf =
        ⟨genAt s j.dst.buf, some { ld with marks := perSet ld.marks p true }⟩ ∧
      (∀ c, c ≠ j.src.buf → c ≠ j.dst.buf → recAt t c = recAt s c) ∧
      (∀ q, q ≠ p → jobAt t q = jobAt s q) ∧
      (copyPageOf s.page p = false →
        jobAt t p = none ∧ t.reports = s.reports ++ [⟨p, j.src, j.dst, 0, .aborted⟩]) ∧
      (copyPageOf s.page p = true →
        jobAt t p = some { j with state := .stopping .aborted } ∧ t.reports = s.reports))

/-! ### Ticks, walks, job ends -/

/-- A tick: the prescaler restarts at 0 with the period of the configured TICK_DIV, and the
pending-tick count rises, but not above 255 and not during HOLD. A step on an empty queue counts one
CLK period, and is such a tick when the period is full (the model's choice, log 8). -/
def Obligations.DeadlineTickRule : Prop :=
  (∀ s : State, s.rst = false → s.pendingTicks ≤ 255 →
    ∃ t, exec .deadlineTick s = .next t ∧
      t = { s with prescaler := 0, period := (s.cfg.tickDiv + 1) * 256,
                   pendingTicks := t.pendingTicks, tcGrant := t.tcGrant } ∧ SameBytes s t ∧
      t.pendingTicks = if s.hold then s.pendingTicks else min 255 (s.pendingTicks + 1)) ∧
  (∀ s : State, s.rst = false → s.pending = [] → s.prescaler + 1 < s.period →
    ∃ t, step s = .next t ∧
      t = { s with prescaler := s.prescaler + 1, tcGrant := t.tcGrant } ∧ SameBytes s t) ∧
  (∀ s : State, s.rst = false → s.pending = [] → s.period ≤ s.prescaler + 1 →
    step s = exec .deadlineTick s)

/-- A tick handling applies k ticks, the whole pending count, which becomes 0, or the count it took
when it began with expiries of its own (log 10), and then later ticks still wait. Every offer with a
countdown above k is lowered by k; every other is freed and its record returns to HELD. A RECALLING
record without a pending revocation is lowered by k when its countdown is above k, and else returns to
its owner, or, with a mark of the borrower on it, waits with the borrower's job asked to stop. Every
other record stays. The notices go to each port in the order of the visits: offers in ascending id,
then records in ascending number. -/
def Obligations.TickHandlingRule : Prop :=
  ∀ (s : State) (k : Nat), granted s .tick = true → TableLaw s → k = ticksInHand s →
    ∃ t, exec .tickHandling s = .next t ∧
      t = { s with ports := t.ports, buffers := t.buffers, offers := t.offers, jobs := t.jobs,
                   reports := t.reports,
                   pendingTicks := (if ticksTaken s = none then 0 else s.pendingTicks),
                   underway := none, tcLast := .tick, tcGrant := t.tcGrant } ∧
      SameBytes s t ∧
      (∀ id o, offerAt s id = some o → k < o.countdown →
        offerAt t id = some { o with countdown := o.countdown - k }) ∧
      (∀ id o, offerAt s id = some o → o.countdown ≤ k → offerAt t id = none) ∧
      (∀ id, offerAt s id = none → offerAt t id = none) ∧
      (∀ b, genAt t b = genAt s b) ∧ (∀ b, liveAt s b = none → liveAt t b = none) ∧
      (∀ b l, liveAt s b = some l → (∃ m, l.st = .held m) ∨ (∃ q, l.st = .lent q) →
        liveAt t b = some l) ∧
      (∀ b l id, liveAt s b = some l → l.st = .offered id →
        (∀ o, dueOffer s k id = some o → o.handle.buf = b →
          liveAt t b = some { l with st := .held ⟨false, false, false, false⟩ }) ∧
        ((∀ o, dueOffer s k id = some o → o.handle.buf ≠ b) → liveAt t b = some l)) ∧
      (∀ b l q n, liveAt s b = some l → l.st = .recalling q n →
        (l.pendingRev ≠ none → liveAt t b = some l) ∧
        (l.pendingRev = none → k < n →
          liveAt t b = some { l with st := .recalling q (n - k) }) ∧
        (l.pendingRev = none → n ≤ k → perGet l.marks q = false →
          liveAt t b =
            some { l with st := .held ⟨false, false, false, false⟩, forced := some q }) ∧
        (l.pendingRev = none → n ≤ k → perGet l.marks q = true →
          liveAt t b = some { l with
            st := .recalling q 0, forced := some q, pendingRev := some ⟨.expiry, q⟩ })) ∧
      (∀ q, portAt t q = afterTicks s k q) ∧
      JobsStopped (fun q => ∃ b l, dueRecall s k b = some (l, q) ∧ perGet l.marks q = true) s t

/-- Within the tick handling that is granted, the expiry whose turn it is. An offer expiry frees the
entry, returns the record to HELD with the same owner and appends EXPIRED to the offeror's queue and
to the target's; marks and a pending revocation do not hold it back. A recall expiry returns the
record by force, or, with a mark of the borrower, waits with the borrower's job asked to stop. That an
expiry is a command of its own, which begins the handling by taking the pending count and leaves the
grant standing for the rest of it, is the model's reading of R134 and R135 (log 10). -/
def Obligations.ExpiryRule : Prop :=
  (∀ (s : State) (id : OfferId) (o : Offer) (b : BufNo) (l : Live), granted s .tick = true →
    nextDueOffer s = some id → offerAt s id = some o → o.handle.buf = b → liveAt s b = some l →
    l.st = .offered id → o.src ≠ o.dst →
    ∃ t, exec (.offerExpiry id) s = .next t ∧
      t = { s with ports := t.ports, buffers := t.buffers, offers := t.offers,
                   pendingTicks := (if ticksTaken s = none then 0 else s.pendingTicks),
                   underway := some (.ticks (ticksInHand s)) } ∧
      SameBytes s t ∧ RecordBecomes b { l with st := .held ⟨false, false, false, false⟩ } s t ∧
      offerAt t id = none ∧ OtherOffers id s t ∧
      portAt t o.src = notified (portAt s o.src) (.expired id o.handle .offeror) ∧
      portAt t o.dst = notified (portAt s o.dst) (.expired id o.handle .target) ∧
      (∀ r, r ≠ o.src → r ≠ o.dst → portAt t r = portAt s r)) ∧
  (∀ (s : State) (b : BufNo) (l : Live) (q : Port) (n : Nat), granted s .tick = true →
    nextDueOffer s = none → nextDueRecall s = some b → liveAt s b = some l →
    l.st = .recalling q n → perGet l.marks q = false → l.owner ≠ q →
    ∃ t, exec (.recallExpiry b) s = .next t ∧
      t = { s with ports := t.ports, buffers := t.buffers,
                   pendingTicks := (if ticksTaken s = none then 0 else s.pendingTicks),
                   underway := some (.ticks (ticksInHand s)) } ∧
      SameBytes s t ∧
      RecordBecomes b { l with st := .held ⟨false, false, false, false⟩, forced := some q } s t ∧
      portAt t q = notified (voided (portAt s q) ⟨b, genAt s b⟩)
        (.revoked ⟨b, genAt s b⟩ .expiry) ∧
      portAt t l.owner = notified (portAt s l.owner) (.returned ⟨b, genAt s b⟩ .forced) ∧
      (∀ r, r ≠ q → r ≠ l.owner → portAt t r = portAt s r)) ∧
  (∀ (s : State) (b : BufNo) (l : Live) (q : Port) (n : Nat), granted s .tick = true →
    nextDueOffer s = none → nextDueRecall s = some b → liveAt s b = some l →
    l.st = .recalling q n → perGet l.marks q = true →
    ∃ t, exec (.recallExpiry b) s = .next t ∧
      t = { s with buffers := t.buffers, jobs := t.jobs, reports := t.reports,
                   pendingTicks := (if ticksTaken s = none then 0 else s.pendingTicks),
                   underway := some (.ticks (ticksInHand s)) } ∧
      SameBytes s t ∧ RecordBecomes b { l with
        st := .recalling q 0, forced := some q, pendingRev := some ⟨.expiry, q⟩ } s t ∧
      JobStopped q .aborted s t)

/-- A step of the active walk: it settles the first offer that names the port; with none left, the
first record the port owns (retired when it carries no mark), borrows (returned) or shares (left);
with no relation left, the port leaves the walk list and becomes DETACHED. Marks the step must wait for
leave the record with a revocation TEARDOWN, every job concerned asked to stop (in which order the
jobs that end at once report is left open here, log 28), and a revocation that waits already holds the
walk: EXPIRY at an owned record gives way, FORCE_FREE does not. That phase and position stand at OFFERS
and 0 at the end of a walk that leaves no port in the walk list is the model's choice (log 23). -/
def Obligations.WalkStepRule : Prop :=
  (∀ (s : State) (p : Port) (rest : List Port) (id : OfferId) (o : Offer) (b : BufNo) (l : Live),
    granted s .teardown = true → s.walkList = p :: rest → s.walkPhase = .offers →
    nextRelatedOffer s p s.walkPos = some (id, o) → o.handle.buf = b → liveAt s b = some l →
    l.st = .offered id → o.src ≠ o.dst →
    ∃ t, exec .walkStep s = .next t ∧
      t = { s with ports := t.ports, buffers := t.buffers, offers := t.offers,
                   walkPos := id.val, tcLast := .teardown, tcGrant := t.tcGrant } ∧
      SameBytes s t ∧ RecordBecomes b { l with st := .held ⟨false, false, false, false⟩ } s t ∧
      offerAt t id = none ∧ OtherOffers id s t ∧
      (o.src = p → portAt t o.dst = notified (portAt s o.dst) (.withdrawn id o.handle) ∧
        OtherPorts o.dst s t) ∧
      (o.src ≠ p → portAt t o.src = notified (portAt s o.src) (.declined id o.handle .peerLost) ∧
        OtherPorts o.src s t)) ∧
  (∀ (s : State) (p : Port) (rest : List Port) (b : BufNo) (l : Live),
    granted s .teardown = true → s.walkList = p :: rest →
    (s.walkPhase = .offers ∧ nextRelatedOffer s p s.walkPos = none ∧
        nextRelatedBuffer s p 0 = some (b, l)) ∨
      (s.walkPhase = .buffers ∧ nextRelatedBuffer s p s.walkPos = some (b, l)) →
    liveAt s b = some l →
    (l.owner = p → isEmptySet l.marks = true →
      ∃ t, exec .walkStep s = .next t ∧
        t = { s with ports := t.ports, buffers := t.buffers, pageMap := t.pageMap,
                     scrubQueue := t.scrubQueue, counts := t.counts,
                     dir := s.dir.filter (fun e => e.handle.buf != b), walkPhase := .buffers,
                     walkPos := b.val, tcLast := .teardown, tcGrant := t.tcGrant } ∧
        SameBytes s t ∧ RecordRetired b s t ∧ PagesScrubbed (chainOf s l) s t ∧
        (∀ q, countsAt t q = if q = p then
          ⟨(countsAt s p).buffers - 1, (countsAt s p).pages - l.length⟩ else countsAt s q) ∧
        (∀ q, portAt t q = if access l q = .none then voided (portAt s q) ⟨b, genAt s b⟩
          else notified (voided (portAt s q) ⟨b, genAt s b⟩)
            (.revoked ⟨b, genAt s b⟩ .peerLost))) ∧
    (l.owner ≠ p → borrowerOf l = some p → l.pendingRev = none → perGet l.marks p = false →
      ∃ t, exec .walkStep s = .next t ∧
        t = { s with ports := t.ports, buffers := t.buffers, walkPhase := .buffers,
                     walkPos := b.val, tcLast := .teardown, tcGrant := t.tcGrant } ∧
        SameBytes s t ∧
        RecordBecomes b
          { l with st := .held ⟨false, false, false, false⟩, forced := some p } s t ∧
        portAt t p = voided (portAt s p) ⟨b, genAt s b⟩ ∧
        portAt t l.owner = notified (portAt s l.owner) (.returned ⟨b, genAt s b⟩ .peerLost) ∧
        (∀ r, r ≠ p → r ≠ l.owner → portAt t r = portAt s r)) ∧
    (l.owner ≠ p → perGet (shareOf l) p = true → l.pendingRev = none → perGet l.marks p = false →
      ∃ t, exec .walkStep s = .next t ∧
        t = { s with ports := t.ports, buffers := t.buffers, walkPhase := .buffers,
                     walkPos := b.val, tcLast := .teardown, tcGrant := t.tcGrant } ∧
        SameBytes s t ∧
        RecordBecomes b { l with st := .held (perSet (shareOf l) p false) } s t ∧
        portAt t p = voided (portAt s p) ⟨b, genAt s b⟩ ∧
        portAt t l.owner = notified (portAt s l.owner) (.left ⟨b, genAt s b⟩ p .peerLost) ∧
        (∀ r, r ≠ p → r ≠ l.owner → portAt t r = portAt s r)) ∧
    (l.owner = p → isEmptySet l.marks = false → (∀ q, l.pendingRev ≠ some ⟨.forceFree, q⟩) →
      ∃ t, exec .walkStep s = .next t ∧
        t = { s with buffers := t.buffers, jobs := t.jobs, reports := t.reports,
                     walkPhase := .buffers, walkPos := b.val, tcLast := .teardown,
                     tcGrant := t.tcGrant } ∧
        SameBytes s t ∧ RecordBecomes b { l with pendingRev := some ⟨.teardown, p⟩ } s t ∧
        JobsStopped (fun q => perGet l.marks q = true) s t ∧ grantable t .teardown = false) ∧
    (l.owner ≠ p → borrowerOf l = some p → l.pendingRev = none → perGet l.marks p = true →
      ∃ t, exec .walkStep s = .next t ∧
        t = { s with buffers := t.buffers, jobs := t.jobs, reports := t.reports,
                     walkPhase := .buffers, walkPos := b.val, tcLast := .teardown,
                     tcGrant := t.tcGrant } ∧
        SameBytes s t ∧
        RecordBecomes b { l with forced := some p, pendingRev := some ⟨.teardown, p⟩ } s t ∧
        JobStopped p .aborted s t ∧ grantable t .teardown = false) ∧
    (l.owner ≠ p → perGet (shareOf l) p = true → l.pendingRev = none → perGet l.marks p = true →
      ∃ t, exec .walkStep s = .next t ∧
        t = { s with buffers := t.buffers, jobs := t.jobs, reports := t.reports,
                     walkPhase := .buffers, walkPos := b.val, tcLast := .teardown,
                     tcGrant := t.tcGrant } ∧
        SameBytes s t ∧ RecordBecomes b { l with pendingRev := some ⟨.teardown, p⟩ } s t ∧
        JobStopped p .aborted s t ∧ grantable t .teardown = false) ∧
    ((l.owner = p ∧ isEmptySet l.marks = false ∧ (∃ q, l.pendingRev = some ⟨.forceFree, q⟩)) ∨
        (l.owner ≠ p ∧ l.pendingRev ≠ none) →
      ∃ t, exec .walkStep s = .next t ∧
        t = { s with walkPhase := .buffers, walkPos := b.val, tcLast := .teardown,
                     tcGrant := t.tcGrant } ∧
        SameBytes s t ∧ grantable t .teardown = false)) ∧
  (∀ (s : State) (p : Port) (rest : List Port), granted s .teardown = true →
    s.walkList = p :: rest →
    (s.walkPhase = .offers ∧ nextRelatedOffer s p s.walkPos = none ∧
        nextRelatedBuffer s p 0 = none) ∨
      (s.walkPhase = .buffers ∧ nextRelatedBuffer s p s.walkPos = none) →
    ∃ t, exec .walkStep s = .next t ∧
      t = { s with ports := t.ports, walkList := rest, walkPhase := .offers, walkPos := 0,
                   tcLast := .teardown, tcGrant := t.tcGrant } ∧
      SameBytes s t ∧ portAt t p = { portAt s p with state := .detached } ∧ OtherPorts p s t)

/-- The Table Controller takes the oldest report: the completion with the report's result and pages
done (ABORTED when a revocation waits for this mark), which a slot that is not BUSY discards, and the
port's marks off both records. With no revocation settled by that, nothing more happens. With one
settled on one of the records, it is completed: the return of a recall expiry or of the borrower's
teardown, the leaving of a share-set port's teardown, the retirement of the owner's teardown or of
FORCE_FREE. With one settled on each of the two records, both are completed, in ascending buffer
number. -/
def Obligations.JobEndRule : Prop :=
  (∀ (s : State) (r : Report) (rest : List Report) (res : Result),
    granted s .jobEnd = true → s.reports = r :: rest →
    (∀ c l, c = r.src.buf ∨ c = r.dst.buf → liveAt s c = some l → NotSettledBy r.port l) →
    (∀ c l rv, c = r.src.buf ∨ c = r.dst.buf → liveAt s c = some l → l.pendingRev = some rv →
      waitsFor l rv r.port = true → res = .aborted) →
    ((∀ c l rv, c = r.src.buf ∨ c = r.dst.buf → liveAt s c = some l → l.pendingRev = some rv →
      waitsFor l rv r.port = false) → res = resultOf r.cause) →
    ∃ t, exec .jobEndReport s = .next t ∧
      t = { s with ports := t.ports, buffers := t.buffers, reports := rest, tcLast := .jobEnd,
                   tcGrant := t.tcGrant } ∧
      SameBytes s t ∧ (∀ c, MarkOff r s t c) ∧ (∀ q, portAt t q = reportedPort s r res q)) ∧
  (∀ (s : State) (r : Report) (rest : List Report) (b : BufNo) (l : Live) (rv : Revocation)
    (h : Handle) (hp : Port → HostPort),
    granted s .jobEnd = true → s.reports = r :: rest → b = r.src.buf ∨ b = r.dst.buf →
    liveAt s b = some l → SettledBy r.port l rv → h = ⟨b, genAt s b⟩ →
    (∀ c l', c = r.src.buf ∨ c = r.dst.buf → c ≠ b → liveAt s c = some l' →
      NotSettledBy r.port l') →
    (∀ q, hp q = reportedPort s r .aborted q) →
    (∀ q, rv = ⟨.expiry, r.port⟩ → borrowerOf l = some q → l.owner ≠ q →
      ∃ t, exec .jobEndReport s = .next t ∧
        t = { s with ports := t.ports, buffers := t.buffers, reports := rest, tcLast := .jobEnd,
                     tcGrant := t.tcGrant } ∧
        SameBytes s t ∧ (∀ c, c ≠ b → MarkOff r s t c) ∧
        recAt t b = ⟨genAt s b, some { l with
          st := .held ⟨false, false, false, false⟩, marks := perSet l.marks r.port false,
          pendingRev := none }⟩ ∧
        portAt t q = notified (voided (hp q) h) (.revoked h .expiry) ∧
        portAt t l.owner = notified (hp l.owner) (.returned h .forced) ∧
        (∀ x, x ≠ q → x ≠ l.owner → portAt t x = hp x)) ∧
    (rv = ⟨.teardown, r.port⟩ → borrowerOf l = some r.port → l.owner ≠ r.port →
      ∃ t, exec .jobEndReport s = .next t ∧
        t = { s with ports := t.ports, buffers := t.buffers, reports := rest, tcLast := .jobEnd,
                     tcGrant := t.tcGrant } ∧
        SameBytes s t ∧ (∀ c, c ≠ b → MarkOff r s t c) ∧
        recAt t b = ⟨genAt s b, some { l with
          st := .held ⟨false, false, false, false⟩, marks := perSet l.marks r.port false,
          pendingRev := none }⟩ ∧
        portAt t r.port = voided (hp r.port) h ∧
        portAt t l.owner = notified (hp l.owner) (.returned h .peerLost) ∧
        (∀ x, x ≠ r.port → x ≠ l.owner → portAt t x = hp x)) ∧
    (∀ m, rv = ⟨.teardown, r.port⟩ → l.st = .held m → l.owner ≠ r.port →
      ∃ t, exec .jobEndReport s = .next t ∧
        t = { s with ports := t.ports, buffers := t.buffers, reports := rest, tcLast := .jobEnd,
                     tcGrant := t.tcGrant } ∧
        SameBytes s t ∧ (∀ c, c ≠ b → MarkOff r s t c) ∧
        recAt t b = ⟨genAt s b, some { l with
          st := .held (perSet m r.port false), marks := perSet l.marks r.port false,
          pendingRev := none }⟩ ∧
        portAt t r.port = voided (hp r.port) h ∧
        portAt t l.owner = notified (hp l.owner) (.left h r.port .peerLost) ∧
        (∀ x, x ≠ r.port → x ≠ l.owner → portAt t x = hp x)) ∧
    (rv = ⟨.teardown, l.owner⟩ →
      ∃ t, exec .jobEndReport s = .next t ∧
        t = { s with ports := t.ports, buffers := t.buffers, pageMap := t.pageMap,
                     scrubQueue := t.scrubQueue, counts := t.counts,
                     dir := s.dir.filter (fun e => e.handle.buf != b), reports := rest,
                     tcLast := .jobEnd, tcGrant := t.tcGrant } ∧
        SameBytes s t ∧ (∀ c, c ≠ b → MarkOff r s t c) ∧
        recAt t b = ⟨genAt s b + 1, none⟩ ∧ PagesScrubbed (chainOf s l) s t ∧ CountsFall l s t ∧
        (∀ q, portAt t q = if access l q = .none then voided (hp q) h
          else notified (voided (hp q) h) (.revoked h .peerLost))) ∧
    (rv.kind = .forceFree → OfferNames s b l →
      ∃ t, exec .jobEndReport s = .next t ∧
        t = { s with ports := t.ports, buffers := t.buffers, pageMap := t.pageMap,
                     offers := t.offers, scrubQueue := t.scrubQueue, counts := t.counts,
                     dir := s.dir.filter (fun e => e.handle.buf != b), reports := rest,
                     tcLast := .jobEnd, tcGrant := t.tcGrant } ∧
        SameBytes s t ∧ (∀ c, c ≠ b → MarkOff r s t c) ∧
        recAt t b = ⟨genAt s b + 1, none⟩ ∧ PagesScrubbed (chainOf s l) s t ∧ CountsFall l s t ∧
        OfferGone l s t ∧ (∀ q, portAt t q = freedAt s b l q (hp q)))) ∧
  (∀ (s : State) (r : Report) (rest : List Report) (b c : BufNo) (lb lc : Live)
    (rb rc : Revocation) (x y : Waiting),
    granted s .jobEnd = true → s.reports = r :: rest → b < c →
    (b = r.src.buf ∧ c = r.dst.buf) ∨ (b = r.dst.buf ∧ c = r.src.buf) →
    liveAt s b = some lb → SettledBy r.port lb rb →
    liveAt s c = some lc → SettledBy r.port lc rc →
    x = ⟨b, { lb with marks := perSet lb.marks r.port false }, rb⟩ →
    y = ⟨c, { lc with marks := perSet lc.marks r.port false }, rc⟩ →
    RevocationFits x → RevocationFits y → OfferNames s b lb → OfferNames s c lc →
    (pagesEnded s [x, y]).Nodup →
    ∃ t, exec .jobEndReport s = .next t ∧
      t = { s with ports := t.ports, buffers := t.buffers, pageMap := t.pageMap,
                   offers := t.offers, scrubQueue := t.scrubQueue, counts := t.counts,
                   dir := t.dir, reports := rest, tcLast := .jobEnd, tcGrant := t.tcGrant } ∧
      SameBytes s t ∧ Settled [x, y] s t ∧
      recAt t b = settledRec s x ∧ recAt t c = settledRec s y ∧
      (∀ d, d ≠ b → d ≠ c → recAt t d = recAt s d) ∧
      (∀ q, portAt t q = settledAt s q (settledAt s q (reportedPort s r .aborted q) x) y))

/-! ### The Data Mover -/

/-- A scrub step begins with the Scrub Queue's head when the mover's choice is a scrub step. At its
end the page has moved from the head of the Scrub Queue to the tail of the Free List, its place is
FREE, its 64 bytes are 0x00 and no other byte has changed; a zero-fill that the Memory Arbiter has
served before the end is not made again (log 5). -/
def Obligations.ScrubRule : Prop :=
  (∀ (s : State) (pg : PageNo) (rest : List PageNo), s.rst = false → s.page = none →
    s.paused = false → s.scrubQueue = pg :: rest →
    s.nextKind = .scrub ∨ (∀ p j, jobAt s p = some j → j.state ≠ .running) →
    ∃ t, exec .scrubStepStart s = .next t ∧
      t = { s with page := some (.scrub pg false), nextKind := .copy, tcGrant := t.tcGrant } ∧
      SameBytes s t) ∧
  (∀ (s : State) (pg : PageNo) (rest : List PageNo) (served : Bool), s.rst = false →
    s.page = some (.scrub pg served) → s.scrubQueue = pg :: rest →
    ∃ t, exec .scrubStepEnd s = .next t ∧
      t = { s with mem := t.mem, pageMap := t.pageMap, scrubQueue := rest,
                   freeList := s.freeList ++ [pg], page := none,
                   memLast := (if served then s.memLast else .mover), tcGrant := t.tcGrant } ∧
      entryAt t pg = .free ∧ (∀ q, q ≠ pg → entryAt t q = entryAt s q) ∧
      (served = false → PageStored pg (fun _ => 0) s t) ∧ (served = true → t.mem = s.mem))

/-- A copy page goes to the next RUNNING job after the last copy port; its read captures the 64
bytes of the source page; its write stores them in the destination page and nowhere else, and the
job goes on, ends OK with its count done, or ends with its stop cause. A read or write that the Memory
Arbiter has served before the end of its phase is not made again (log 5). -/
def Obligations.CopyPageRule : Prop :=
  (∀ (s : State) (p : Port), s.rst = false → s.page = none → s.paused = false →
    nextCopyPort s = some p → s.nextKind = .copy ∨ s.scrubQueue = [] →
    ∃ t, exec .copyPageStart s = .next t ∧
      t = { s with page := some (.copyRead p none), nextKind := .scrub, lastCopy := p,
                   tcGrant := t.tcGrant } ∧ SameBytes s t) ∧
  (∀ (s : State) (p : Port) (j : Job) (pg : PageNo), s.rst = false →
    s.page = some (.copyRead p none) → jobAt s p = some j →
    resolveIndex s j.src.buf (j.srcStart + j.done) = some pg →
    ∃ t bytes, exec .copyPageReadEnd s = .next t ∧
      t = { s with page := some (.copyWrite p bytes false), memLast := .mover,
                   tcGrant := t.tcGrant } ∧ SameBytes s t ∧
      bytes.length = 64 ∧ ∀ k, k < 64 → bytes.getD k 0 = memRead s.mem (pg.val * 64 + k)) ∧
  (∀ (s : State) (p : Port) (bytes : List Byte), s.rst = false →
    s.page = some (.copyRead p (some bytes)) →
    ∃ t, exec .copyPageReadEnd s = .next t ∧
      t = { s with page := some (.copyWrite p bytes false), tcGrant := t.tcGrant } ∧
      SameBytes s t) ∧
  (∀ (s : State) (p : Port) (j : Job) (pg : PageNo) (bytes : List Byte), s.rst = false →
    s.page = some (.copyWrite p bytes false) → bytes.length = 64 → jobAt s p = some j →
    resolveIndex s j.dst.buf (j.dstStart + j.done) = some pg →
    ∃ t, exec .copyPageWriteEnd s = .next t ∧
      t = { s with mem := t.mem, page := none, memLast := .mover, jobs := t.jobs,
                   reports := t.reports, tcGrant := t.tcGrant } ∧
      PageStored pg (fun k => bytes.getD k 0) s t ∧ JobJudged p j s t) ∧
  (∀ (s : State) (p : Port) (j : Job) (bytes : List Byte), s.rst = false →
    s.page = some (.copyWrite p bytes true) → jobAt s p = some j →
    ∃ t, exec .copyPageWriteEnd s = .next t ∧
      t = { s with page := none, jobs := t.jobs, reports := t.reports, tcGrant := t.tcGrant } ∧
      SameBytes s t ∧ JobJudged p j s t)

/-! ### The Maintenance Port -/

/-- A REQUEST frame in IDLE: an unknown code is answered BAD_FRAME, a request served elsewhere is
held with exactly its parameter bytes, a frame short of bytes is discarded; READ_CONFIG gives an item's
value, WRITE_CONFIG of a value in range stores it and returns the one replaced, and both are answered
RANGE for an item or port that names none, WRITE_CONFIG also for a value out of range. In PENDING or
READY any REQUEST frame is discarded. A FETCH in READY shifts out status, response status and data, and
makes the port IDLE when the response status has gone out; in IDLE or PENDING it changes nothing, and
so does a frame whose first byte is neither 0x01 nor 0x02. Every frame shifts out the status byte
first; the 0x00 that follows it during a REQUEST's code and parameters is the model's (log 31). -/
def Obligations.FrameRule : Prop :=
  (∀ (s : State) (code : Byte) (ps : List Byte), s.rst = false → s.maint = .idle →
    requestOf code = none →
    ∃ t, exec (.requestFrame (code :: ps)) s = .next t ∧
      t = { s with maint := .ready .badFrame [],
                   sdo := maintStatus .idle s.hold :: List.replicate (ps.length + 1) 0,
                   tcGrant := t.tcGrant } ∧
      SameBytes s t) ∧
  (∀ (s : State) (code : Byte) (ps : List Byte) (r : Request), s.rst = false → s.maint = .idle →
    requestOf code = some r → r ≠ .readConfig → r ≠ .writeConfig →
    requestLength r ps ≤ ps.length →
    ∃ t, exec (.requestFrame (code :: ps)) s = .next t ∧
      t = { s with maint := .pending ⟨code, ps.take (requestLength r ps)⟩,
                   sdo := maintStatus .idle s.hold :: List.replicate (ps.length + 1) 0,
                   tcGrant := t.tcGrant } ∧ SameBytes s t) ∧
  (∀ (s : State) (bytes : List Byte), s.rst = false →
    s.maint ≠ .idle ∨ bytes = [] ∨
      (∃ code ps r, bytes = code :: ps ∧ requestOf code = some r ∧
        ps.length < requestLength r ps) →
    ∃ t, exec (.requestFrame bytes) s = .next t ∧
      t = { s with sdo := maintStatus s.maint s.hold :: List.replicate bytes.length 0,
                   tcGrant := t.tcGrant } ∧ SameBytes s t) ∧
  (∀ (s : State) (item port : Byte) (more : List Byte), s.rst = false → s.maint = .idle →
    ∃ t, exec (.requestFrame (0x01 :: item :: port :: more)) s = .next t ∧
      t = { s with maint := (match cfgItemOf item port with
                     | some it => .ready .ok (bytes16 (cfgGet s.cfg it))
                     | none => .ready .range []),
                   sdo := maintStatus .idle s.hold :: List.replicate (more.length + 3) 0,
                   tcGrant := t.tcGrant } ∧ SameBytes s t) ∧
  (∀ (s : State) (item port lo hi : Byte) (more : List Byte) (it : CfgItem), s.rst = false →
    s.maint = .idle → cfgItemOf item port = some it →
    cfgInRange (lo.toNat + 256 * hi.toNat) it = true →
    ∃ t, exec (.requestFrame (0x02 :: item :: port :: lo :: hi :: more)) s = .next t ∧
      t = { s with maint := .ready .ok (bytes16 (cfgGet s.cfg it)), cfg := t.cfg,
                   sdo := maintStatus .idle s.hold :: List.replicate (more.length + 5) 0,
                   tcGrant := t.tcGrant } ∧ SameBytes s t ∧
      cfgGet t.cfg it = lo.toNat + 256 * hi.toNat ∧
      ∀ jt, jt ≠ it → cfgGet t.cfg jt = cfgGet s.cfg jt) ∧
  (∀ (s : State) (item port lo hi : Byte) (more : List Byte), s.rst = false → s.maint = .idle →
    (∀ it, cfgItemOf item port = some it → cfgInRange (lo.toNat + 256 * hi.toNat) it = false) →
    ∃ t, exec (.requestFrame (0x02 :: item :: port :: lo :: hi :: more)) s = .next t ∧
      t = { s with maint := .ready .range [],
                   sdo := maintStatus .idle s.hold :: List.replicate (more.length + 5) 0,
                   tcGrant := t.tcGrant } ∧ SameBytes s t) ∧
  (∀ (item port : Byte), cfgItemOf item port = none ↔
    item.toNat = 0 ∨ 6 < item.toNat ∨ (item.toNat ≤ 3 ∧ 3 < port.toNat)) ∧
  (∀ (v : Nat) (it : CfgItem), cfgInRange v it = true ↔
    match it with
    | .bufQuota _ => v ≤ 1024
    | .pageQuota _ => v ≤ 8192
    | .policy _ => v ≤ 1
    | .offerTicks => 1 ≤ v ∧ v ≤ 65535
    | .recallTicks => 1 ≤ v ∧ v ≤ 65535
    | .tickDiv => v ≤ 255) ∧
  (∀ (s : State) (n : Nat) (status : Status) (data : List Byte), s.rst = false →
    s.maint = .ready status data → 1 ≤ n →
    ∃ t, exec (.fetchFrame n) s = .next t ∧
      t = { s with maint := (if 2 ≤ n then .idle else s.maint), sdo := t.sdo,
                   tcGrant := t.tcGrant } ∧ SameBytes s t ∧
      t.sdo.length = n ∧
      ∀ i, i < n → t.sdo.getD i 0 =
        (maintStatus s.maint s.hold :: statusCode status :: data).getD i 0) ∧
  (∀ (s : State) (n : Nat), s.rst = false → 1 ≤ n →
    s.maint = .idle ∨ (∃ req, s.maint = .pending req) →
    ∃ t, exec (.fetchFrame n) s = .next t ∧
      t = { s with sdo := maintStatus s.maint s.hold :: List.replicate (n - 1) 0,
                   tcGrant := t.tcGrant } ∧ SameBytes s t) ∧
  (∀ (s : State) (n : Nat) (first : Byte), s.rst = false → 1 ≤ n → first ≠ 0x01 →
    first ≠ 0x02 →
    ∃ t, exec (.unknownFrame first n) s = .next t ∧
      t = { s with sdo := maintStatus s.maint s.hold :: List.replicate (n - 1) 0,
                   tcGrant := t.tcGrant } ∧ SameBytes s t)

/-- HOLD sets the paused flag and the HOLD indication, and from then on the arbiter grants maintenance
alone; a scrub step or copy page in progress runs to its end in the same step (log 11), as the rules of
its end say. RELEASE clears both. Taken again, each changes nothing and says so. -/
def Obligations.HoldAndRelease : Prop :=
  (∀ s : State, MaintReady s .hold [] → s.hold = false → s.page = none →
    ∃ t, exec .hold s = .next t ∧
      t = { s with paused := true, hold := true, maint := .ready .ok [1],
                   tcLast := .maintenance, tcGrant := t.tcGrant } ∧ SameBytes s t ∧
      (∀ r, grantable t r = true → r = .maintenance)) ∧
  (∀ (s : State) (pg : PageNo) (rest : List PageNo) (served : Bool), MaintReady s .hold [] →
    s.hold = false → s.page = some (.scrub pg served) → s.scrubQueue = pg :: rest →
    ∃ t, exec .hold s = .next t ∧
      t = { s with mem := t.mem, pageMap := t.pageMap, scrubQueue := rest,
                   freeList := s.freeList ++ [pg], page := none,
                   memLast := (if served then s.memLast else .mover),
                   paused := true, hold := true, maint := .ready .ok [1],
                   tcLast := .maintenance, tcGrant := t.tcGrant } ∧
      entryAt t pg = .free ∧ (∀ q, q ≠ pg → entryAt t q = entryAt s q) ∧
      (served = false → PageStored pg (fun _ => 0) s t) ∧ (served = true → t.mem = s.mem) ∧
      (∀ r, grantable t r = true → r = .maintenance)) ∧
  (∀ (s : State) (p : Port) (j : Job) (bytes : List Byte) (pg : PageNo), MaintReady s .hold [] →
    s.hold = false → jobAt s p = some j → bytes.length = 64 →
    resolveIndex s j.dst.buf (j.dstStart + j.done) = some pg →
    s.page = some (.copyRead p (some bytes)) ∨ s.page = some (.copyWrite p bytes false) ∨
      (s.page = some (.copyRead p none) ∧
        ∃ src, resolveIndex s j.src.buf (j.srcStart + j.done) = some src ∧
          ∀ k, k < 64 → bytes.getD k 0 = memRead s.mem (src.val * 64 + k)) →
    ∃ t, exec .hold s = .next t ∧
      t = { s with mem := t.mem, page := none, memLast := .mover, jobs := t.jobs,
                   reports := t.reports, paused := true, hold := true, maint := .ready .ok [1],
                   tcLast := .maintenance, tcGrant := t.tcGrant } ∧
      PageStored pg (fun k => bytes.getD k 0) s t ∧ JobJudged p j s t ∧
      (∀ r, grantable t r = true → r = .maintenance)) ∧
  (∀ (s : State) (p : Port) (j : Job) (bytes : List Byte), MaintReady s .hold [] →
    s.hold = false → jobAt s p = some j → s.page = some (.copyWrite p bytes true) →
    ∃ t, exec .hold s = .next t ∧
      t = { s with page := none, jobs := t.jobs, reports := t.reports, paused := true,
                   hold := true, maint := .ready .ok [1], tcLast := .maintenance,
                   tcGrant := t.tcGrant } ∧
      SameBytes s t ∧ JobJudged p j s t ∧ (∀ r, grantable t r = true → r = .maintenance)) ∧
  (∀ s : State, MaintReady s .hold [] → s.hold = true →
    ∃ t, exec .hold s = .next t ∧
      t = { s with maint := .ready .ok [2], tcLast := .maintenance, tcGrant := t.tcGrant } ∧
      SameBytes s t) ∧
  (∀ s : State, MaintReady s .release [] →
    ∃ t, exec .release s = .next t ∧
      t = { s with hold := false, paused := (if s.hold then false else s.paused),
                   maint := .ready .ok [if s.hold then 1 else 2],
                   tcLast := .maintenance, tcGrant := t.tcGrant } ∧ SameBytes s t)

/-- READ_BUFFER, READ_PAGE_ENTRY, READ_OFFER, READ_DIR and READ_PORT report what stands, in the bytes of
section 12.4 (the presence bits of READ_BUFFER by log 12, the layout of READ_PORT by log 24, the values
of the yes-or-no bytes by log 29), and change nothing but the response; outside their ranges they are
answered RANGE. READ_POOL reports without the Table Controller. -/
def Obligations.Inspections : Prop :=
  (∀ (s : State) (i : Instr) (r : Request) (ps : List Byte) (data : List Byte),
    MaintReady s r ps →
    (∃ b : BufNo, i = .readBuffer ∧ r = .readBuffer ∧ numAt ps 0 = b.val ∧
      data = bufferData (recAt s b)) ∨
    (∃ pg : PageNo, i = .readPageEntry ∧ r = .readPageEntry ∧ numAt ps 0 = pg.val ∧
      data = pageEntryData (entryAt s pg)) ∨
    (∃ id : OfferId, i = .readOffer ∧ r = .readOffer ∧ (byteAt ps 0).toNat = id.val ∧
      data = offerData (offerAt s id)) ∨
    (i = .readDir ∧ r = .readDir ∧ (byteAt ps 0).toNat < 64 ∧
      data = dirData s.dir.length s.dir[(byteAt ps 0).toNat]?) ∨
    (∃ p, i = .readPort ∧ r = .readPort ∧ portOf (byteAt ps 0) = some p ∧
      data = portData s p) →
    ∃ t, exec i s = .next t ∧
      t = { s with maint := .ready .ok data, tcLast := .maintenance, tcGrant := t.tcGrant } ∧
      SameBytes s t) ∧
  (∀ (s : State) (i : Instr) (r : Request) (ps : List Byte), MaintReady s r ps →
    (i = .readBuffer ∧ r = .readBuffer ∧ 1024 ≤ numAt ps 0) ∨
    (i = .readPageEntry ∧ r = .readPageEntry ∧ 8192 ≤ numAt ps 0) ∨
    (i = .readOffer ∧ r = .readOffer ∧ 16 ≤ (byteAt ps 0).toNat) ∨
    (i = .readDir ∧ r = .readDir ∧ 64 ≤ (byteAt ps 0).toNat) ∨
    (i = .readPort ∧ r = .readPort ∧ 4 ≤ (byteAt ps 0).toNat) →
    ∃ t, exec i s = .next t ∧
      t = { s with maint := .ready .range [], tcLast := .maintenance, tcGrant := t.tcGrant } ∧
      SameBytes s t) ∧
  (∀ (s : State), s.rst = false → heldRequest s .readPool = some [] →
    ∃ t, exec .readPool s = .next t ∧
      t = { s with maint := .ready .ok (poolData s), tcGrant := t.tcGrant } ∧ SameBytes s t)

/-- READ_MEM gives the bytes of the run it names; WRITE_MEM stores its data bytes in a CHAINED page
and nowhere else, and is refused NOT_CHAINED for any other page; both are refused RANGE outside
their ranges. The Memory Arbiter's grant `u` comes first. -/
def Obligations.MemoryRequests : Prop :=
  (∀ (s u : State) (ps : List Byte) (pg : PageNo) (off n : Nat), s.rst = false →
    heldRequest s .readMem = some ps → numAt ps 0 = pg.val → (byteAt ps 2).toNat = off →
    (byteAt ps 3).toNat = n → 1 ≤ n → off + n ≤ 64 → memGrant .maintenance s = some u →
    ∃ t data, exec .readMem s = .next t ∧
      t = { u with maint := .ready .ok data, tcGrant := t.tcGrant } ∧ SameBytes u t ∧
      data.length = n ∧
      ∀ i, i < n → data.getD i 0 = memRead u.mem (pg.val * 64 + off + i)) ∧
  (∀ (s u : State) (ps : List Byte) (pg : PageNo) (off n : Nat) (b : BufNo) (nx : Option PageNo),
    MaintReady s .writeMem ps → numAt ps 0 = pg.val → (byteAt ps 2).toNat = off →
    (byteAt ps 3).toNat = n → 1 ≤ n → off + n ≤ 64 → ps.length = 4 + n →
    entryAt s pg = .chained b nx → memGrant .maintenance s = some u →
    ∃ t, exec .writeMem s = .next t ∧
      t = { u with mem := t.mem, maint := .ready .ok (bytes16 b.val), tcLast := .maintenance,
                   tcGrant := t.tcGrant } ∧
      (∀ i, i < n → memRead t.mem (pg.val * 64 + off + i) = ps.getD (4 + i) 0) ∧
      OtherBytes (pg.val * 64 + off) n u t) ∧
  (∀ (s : State) (ps : List Byte) (pg : PageNo) (off n : Nat),
    MaintReady s .writeMem ps → numAt ps 0 = pg.val → (byteAt ps 2).toNat = off →
    (byteAt ps 3).toNat = n → 1 ≤ n → off + n ≤ 64 →
    entryAt s pg = .free ∨ entryAt s pg = .scrub →
    ∃ t, exec .writeMem s = .next t ∧
      t = { s with maint := .ready .notChained [], tcLast := .maintenance,
                   tcGrant := t.tcGrant } ∧ SameBytes s t) ∧
  (∀ (s : State) (ps : List Byte) (off n : Nat), (byteAt ps 2).toNat = off →
    (byteAt ps 3).toNat = n → 8192 ≤ numAt ps 0 ∨ 64 ≤ off ∨ n = 0 ∨ 64 < off + n →
    (s.rst = false → heldRequest s .readMem = some ps →
      ∃ t, exec .readMem s = .next t ∧
        t = { s with maint := .ready .range [], tcGrant := t.tcGrant } ∧ SameBytes s t) ∧
    (MaintReady s .writeMem ps →
      ∃ t, exec .writeMem s = .next t ∧
        t = { s with maint := .ready .range [], tcLast := .maintenance, tcGrant := t.tcGrant } ∧
        SameBytes s t))

/-- FORCE_FREE of a record without marks retires it: an offer of it is removed first with WITHDRAWN
to its target, REVOKED cause FORCE_FREE goes to the owner and to every port with access, and any
pending revocation is gone. In HOLD a record with marks is retired too, once every copy that marks it
has been ended: ABORTED to its port, its job or report gone, its marks off, and a revocation of the
copy's other record that waited for such marks alone completed. Outside HOLD such a record
keeps its state and holds a revocation that retires it (FORCE_FREE names the owner, log 13), and every
marked job is asked to stop (in an order that is left open here, log 28). The response gives the
handle, the owner, the length and the number of marks (log 14). -/
def Obligations.ForceFreeRule : Prop :=
  (∀ (s : State) (ps : List Byte) (b : BufNo) (l : Live), MaintReady s .forceFree ps →
    numAt ps 0 = b.val → liveAt s b = some l → isEmptySet l.marks = true →
    (∀ id, l.st ≠ .offered id) →
    ∃ t, exec .forceFree s = .next t ∧
      t = { s with ports := t.ports, buffers := t.buffers, pageMap := t.pageMap,
                   scrubQueue := t.scrubQueue, counts := t.counts,
                   dir := s.dir.filter (fun e => e.handle.buf != b),
                   maint := .ready .ok
                     (handleBytes ⟨b, genAt s b⟩ ++ [portByte l.owner, byteOf l.length, 0]),
                   tcLast := .maintenance, tcGrant := t.tcGrant } ∧
      SameBytes s t ∧ RecordRetired b s t ∧ PagesScrubbed (chainOf s l) s t ∧
      CountsFall l s t ∧
      (∀ q, portAt t q = if access l q = .none ∧ q ≠ l.owner then
          voided (portAt s q) ⟨b, genAt s b⟩
        else notified (voided (portAt s q) ⟨b, genAt s b⟩)
          (.revoked ⟨b, genAt s b⟩ .forceFree))) ∧
  (∀ (s : State) (ps : List Byte) (b : BufNo) (l : Live), MaintReady s .forceFree ps →
    numAt ps 0 = b.val → liveAt s b = some l → isEmptySet l.marks = true ∨ s.hold = true →
    OfferNames s b l →
    (∀ c p l', c ≠ b → perGet l.marks p = true → copyNames s p c = true → liveAt s c = some l' →
      l'.pendingRev = none) →
    ∃ t, exec .forceFree s = .next t ∧
      t = { s with ports := t.ports, buffers := t.buffers, pageMap := t.pageMap,
                   offers := t.offers, scrubQueue := t.scrubQueue, counts := t.counts,
                   dir := s.dir.filter (fun e => e.handle.buf != b), jobs := t.jobs,
                   reports := s.reports.filter (fun x => !perGet l.marks x.port),
                   maint := .ready .ok (handleBytes ⟨b, genAt s b⟩ ++
                     [portByte l.owner, byteOf l.length, byteOf (setCount l.marks)]),
                   tcLast := .maintenance, tcGrant := t.tcGrant } ∧
      SameBytes s t ∧ recAt t b = ⟨genAt s b + 1, none⟩ ∧
      (∀ c, c ≠ b → recAt t c = copiesEndedRec s l.marks c) ∧
      PagesScrubbed (chainOf s l) s t ∧ CountsFall l s t ∧ OfferGone l s t ∧
      (∀ q, jobAt t q = if perGet l.marks q then none else jobAt s q) ∧
      (∀ q, portAt t q = freedAt s b l q
        (if perGet l.marks q then copyEndedPort s q else portAt s q))) ∧
  (∀ (s : State) (ps : List Byte) (b : BufNo) (l : Live) (xs : List Waiting) (x : Waiting),
    MaintReady s .forceFree ps → numAt ps 0 = b.val → liveAt s b = some l → s.hold = true →
    xs = othersSettled s b l → x = ⟨b, l, ⟨.forceFree, l.owner⟩⟩ →
    (∀ q, perGet l.marks q = true → copyNames s q b = true) →
    (∀ c lc rv q, c ≠ b → liveAt s c = some lc → lc.pendingRev = some rv →
      perGet l.marks q = true → copyNames s q c = true → ∃ r, waitsFor lc rv r = true) →
    OfferNames s b l → (∀ y ∈ xs, RevocationFits y ∧ OfferNames s y.buf y.live) →
    (pagesEnded s (xs ++ [x])).Nodup →
    ∃ t, exec .forceFree s = .next t ∧
      t = { s with ports := t.ports, buffers := t.buffers, pageMap := t.pageMap,
                   offers := t.offers, scrubQueue := t.scrubQueue, counts := t.counts,
                   dir := t.dir, jobs := t.jobs,
                   reports := s.reports.filter (fun x => !perGet l.marks x.port),
                   maint := .ready .ok (handleBytes ⟨b, genAt s b⟩ ++
                     [portByte l.owner, byteOf l.length, byteOf (setCount l.marks)]),
                   tcLast := .maintenance, tcGrant := t.tcGrant } ∧
      SameBytes s t ∧ Settled (xs ++ [x]) s t ∧ recAt t b = ⟨genAt s b + 1, none⟩ ∧
      (∀ y ∈ xs, recAt t y.buf = settledRec s y) ∧
      (∀ c, c ≠ b → (∀ y ∈ xs, y.buf ≠ c) → recAt t c = copiesEndedRec s l.marks c) ∧
      (∀ q, jobAt t q = if perGet l.marks q then none else jobAt s q) ∧
      (∀ q, portAt t q = forcedAt s b l q (xs.foldl (settledAt s q)
        (withdrawnAt s b l q (if perGet l.marks q then copyEndedPort s q else portAt s q))))) ∧
  (∀ (s : State) (ps : List Byte) (b : BufNo) (l : Live), MaintReady s .forceFree ps →
    numAt ps 0 = b.val → liveAt s b = some l → isEmptySet l.marks = false → s.hold = false →
    ∃ t, exec .forceFree s = .next t ∧
      t = { s with buffers := t.buffers, jobs := t.jobs, reports := t.reports,
                   maint := .ready .ok (handleBytes ⟨b, genAt s b⟩ ++
                     [portByte l.owner, byteOf l.length, byteOf (setCount l.marks)]),
                   tcLast := .maintenance, tcGrant := t.tcGrant } ∧
      SameBytes s t ∧ RecordBecomes b { l with pendingRev := some (forceFreeRevocation l) } s t ∧
      JobsStopped (fun q => perGet l.marks q = true) s t) ∧
  (∀ (s : State) (ps : List Byte), MaintReady s .forceFree ps →
    1024 ≤ numAt ps 0 ∨ (∃ b : BufNo, numAt ps 0 = b.val ∧ liveAt s b = none) →
    ∃ t, exec .forceFree s = .next t ∧
      t = { s with maint := .ready (if 1024 ≤ numAt ps 0 then .range else .notLive) [],
                   tcLast := .maintenance, tcGrant := t.tcGrant } ∧ SameBytes s t)

/-- FORCE_DETACH hands the port a teardown cause and reports the state it found: an ATTACHED port
makes the start step, at any other port nothing happens. It is refused RANGE for a port above 3. -/
def Obligations.ForceDetachRule : Prop :=
  (∀ (s : State) (ps : List Byte) (p : Port), MaintReady s .forceDetach ps →
    portOf (byteAt ps 0) = some p →
    (attached s p = true →
      ∃ t, exec .forceDetach s = .next t ∧
        t = { s with ports := t.ports, jobs := t.jobs, reports := t.reports,
                     walkList := t.walkList, walkPhase := t.walkPhase, walkPos := t.walkPos,
                     maint := .ready .ok [1], tcLast := .maintenance, tcGrant := t.tcGrant } ∧
        SameBytes s t ∧ OtherPorts p s t ∧ TornDown .forceDetach (portAt s p) (portAt t p) ∧
        JobStopped p .aborted s t ∧ WalkJoined p s t) ∧
    (attached s p = false →
      ∃ t, exec .forceDetach s = .next t ∧
        t = { s with maint := .ready .ok [if (portAt s p).state = .teardown then 2 else 0],
                     tcLast := .maintenance, tcGrant := t.tcGrant } ∧ SameBytes s t)) ∧
  (∀ (s : State) (ps : List Byte), MaintReady s .forceDetach ps → 3 < (byteAt ps 0).toNat →
    ∃ t, exec .forceDetach s = .next t ∧
      t = { s with maint := .ready .range [], tcLast := .maintenance, tcGrant := t.tcGrant } ∧
      SameBytes s t)

/-- CLEAR_ALL is refused NOT_HELD outside HOLD. In HOLD every live record becomes VACANT with its
generation advanced and every VACANT record keeps its generation, every page joins the Scrub Queue in
ascending order, the tables, lists, jobs, queues and slots are empty, and every port is DETACHED with
cause CLEAR_ALL; configuration, HOLD, the Page Memory and both last-granted requesters' places in
their arbiters stay, the maintenance requester being the one just handled. The phase and position of
the walk, which no port then has, are the model's (log 23). -/
def Obligations.ClearAllRule : Prop :=
  (∀ s : State, MaintReady s .clearAll [] → s.hold = false →
    ∃ t, exec .clearAll s = .next t ∧
      t = { s with maint := .ready .notHeld [], tcLast := .maintenance, tcGrant := t.tcGrant } ∧
      SameBytes s t) ∧
  (∀ s : State, MaintReady s .clearAll [] → s.hold = true → TableLaw s →
    ∃ t, exec .clearAll s = .next t ∧
      t = { s with ports := t.ports, buffers := t.buffers, pageMap := [], offers := [], dir := [],
                   counts := ⟨⟨0, 0⟩, ⟨0, 0⟩, ⟨0, 0⟩, ⟨0, 0⟩⟩, pendingTicks := 0, walkList := [],
                   walkPhase := .offers, walkPos := 0, freeList := [], scrubQueue := allPages,
                   jobs := ⟨none, none, none, none⟩, page := none, nextKind := .scrub,
                   lastCopy := .d, reports := [], prescaler := 0,
                   period := (s.cfg.tickDiv + 1) * 256, maint := .ready .ok [],
                   tcLast := .maintenance, tcGrant := t.tcGrant } ∧
      SameBytes s t ∧
      (∀ b, recAt t b = match liveAt s b with
        | none => recAt s b
        | some _ => ⟨genAt s b + 1, none⟩) ∧
      (∀ p, portAt t p =
        { state := .detached
          lastCause := .clearAll
          w0 := .empty
          w1 := .empty
          saved := .empty
          cmd := ⟨.idle, List.replicate 16 0, 0, List.replicate 16 0, 0, List.replicate 12 0, false⟩
          queue := []
          lost := false
          enables := ⟨false, false, false, false⟩
          fault := none
          prst := (portAt s p).prst
          dataOut := (portAt s p).dataOut }))

/-! ### Laws that every step keeps -/

/-- Every step keeps the notice queues at 16 notices at most, and the configuration, the
pending-tick count, the count a tick handling in progress has taken (the model's own, log 10) and the
prescaler in their ranges. -/
def Obligations.QueuesAndRangesKept : Prop :=
  (∀ s t : State, QueueLaw s → step s = .next t → QueueLaw t) ∧
  (∀ s t : State, RangeLaw s → step s = .next t → RangeLaw t)

/-- Every step keeps the Page Memory in its canonical form, and every page on the Free List at 64 zero
bytes. -/
def Obligations.MemoryKept : Prop :=
  (∀ s t : State, MemoryLaw s → step s = .next t → MemoryLaw t) ∧
  (∀ s t : State, PageLaw s → ClearedLaw s → step s = .next t → ClearedLaw t)

/-- Every step keeps the Buffer Table, the Page Map and the Offer Table in canonical form, and the law
of pages and chains; and under that law the Free List, the Scrub Queue and the lengths of the live
records account for all 8192 pages. -/
def Obligations.TablesKept : Prop :=
  (∀ s t : State, TableLaw s → step s = .next t → TableLaw t) ∧
  (∀ s t : State, TableLaw s → PageLaw s → step s = .next t → PageLaw t) ∧
  (∀ s : State, PageLaw s →
    s.freeList.length + s.scrubQueue.length + ∑ b : BufNo, lengthOf s b = 8192)

/-- Every step keeps the walk list: each port in TEARDOWN once, and no other; and a handling that is in
progress between two steps (the model's own, logs 10 and 27) where it belongs. -/
def Obligations.WalkListKept : Prop :=
  (∀ s t : State, WalkLaw s → step s = .next t → WalkLaw t) ∧
  (∀ s t : State, WalkLaw s → UnderwayLaw s → step s = .next t → UnderwayLaw t)

/-- Every step keeps a port that is not ATTACHED without slots, notices, LOST and fault record. -/
def Obligations.DetachedPortsKept : Prop :=
  ∀ s t : State, WalkLaw s → DetachedLaw s → step s = .next t → DetachedLaw t

/-- Every step keeps the Offer Table and the OFFERED records in agreement, and leaves no relation
behind the active walk. -/
def Obligations.OffersKept : Prop :=
  ∀ s t : State, TableLaw s → WalkLaw s → UnderwayLaw s → OfferLaw s → PassedLaw s →
    step s = .next t →
    OfferLaw t ∧ PassedLaw t

/-- Every step keeps the law of mapped windows; and under it no two ports hold MAPPED WRITE slots on
one buffer. -/
def Obligations.MappedWindowsKept : Prop :=
  (∀ s t : State, TableLaw s → OfferLaw s → MappedLaw s → step s = .next t → MappedLaw t) ∧
  (∀ (s : State) (p q : Port) (x y : WindowSlot) (m n : Mapping), MappedLaw s →
    x ∈ [(portAt s p).w0, (portAt s p).w1, (portAt s p).saved] →
    y ∈ [(portAt s q).w0, (portAt s q).w1, (portAt s q).saved] →
    x = .mapped m → y = .mapped n → m.mode = .write → n.mode = .write →
    m.handle.buf = n.handle.buf → p = q)

/-- Every step keeps the Directory in order, with at most 64 entries, each naming a live buffer that
its publisher owns. -/
def Obligations.DirectoryKept : Prop :=
  ∀ s t : State, TableLaw s → DirectoryLaw s → step s = .next t → DirectoryLaw t

/-- Every step keeps the law of ownership counts. -/
def Obligations.CountsKept : Prop :=
  ∀ s t : State, TableLaw s → CountLaw s → step s = .next t → CountLaw t

/-- Every step keeps the arbiter's law; and the arbiter grants, when no grant stands, the first
requester in ring order after the last-granted one that presents a request it may grant. -/
def Obligations.ArbiterKept : Prop :=
  (∀ s t : State, ArbiterLaw s → step s = .next t → ArbiterLaw t) ∧
  (∀ s : State, s.rst = false → s.tcGrant = none →
    (arbitrate s).tcGrant = (ringAfter s.tcLast).find? (fun r => grantable s r)) ∧
  (∀ s : State, s.hold = true → ∀ r, grantable s r = true → r = .maintenance)

/-- The state after reset obeys every law. -/
def Obligations.ResetObeysTheLaws : Prop :=
  QueueLaw State.reset ∧ RangeLaw State.reset ∧ MemoryLaw State.reset ∧ ClearedLaw State.reset ∧
  TableLaw State.reset ∧ PageLaw State.reset ∧ WalkLaw State.reset ∧ UnderwayLaw State.reset ∧
  DetachedLaw State.reset ∧ OfferLaw State.reset ∧ PassedLaw State.reset ∧
  MappedLaw State.reset ∧ DirectoryLaw State.reset ∧ CountLaw State.reset ∧ ArbiterLaw State.reset
end

