-- ==== Sys2Proof/Laws/State.lean ====
section
/-! SUPPORT. The fields that each update of the state leaves as they are: one lemma per field per
update, each true by `rfl`, so that no proof unfolds a record update. -/

namespace Sys2Proof.Machine

/-! ### updPort -/

section
variable (s : State) (p : Port) (f : HostPort → HostPort)
@[simp] theorem updPort_buffers : (updPort p f s).buffers = s.buffers := rfl
@[simp] theorem updPort_pageMap : (updPort p f s).pageMap = s.pageMap := rfl
@[simp] theorem updPort_offers : (updPort p f s).offers = s.offers := rfl
@[simp] theorem updPort_dir : (updPort p f s).dir = s.dir := rfl
@[simp] theorem updPort_counts : (updPort p f s).counts = s.counts := rfl
@[simp] theorem updPort_pendingTicks : (updPort p f s).pendingTicks = s.pendingTicks := rfl
@[simp] theorem updPort_walkList : (updPort p f s).walkList = s.walkList := rfl
@[simp] theorem updPort_walkPhase : (updPort p f s).walkPhase = s.walkPhase := rfl
@[simp] theorem updPort_walkPos : (updPort p f s).walkPos = s.walkPos := rfl
@[simp] theorem updPort_tcLast : (updPort p f s).tcLast = s.tcLast := rfl
@[simp] theorem updPort_tcGrant : (updPort p f s).tcGrant = s.tcGrant := rfl
@[simp] theorem updPort_underway : (updPort p f s).underway = s.underway := rfl
@[simp] theorem updPort_freeList : (updPort p f s).freeList = s.freeList := rfl
@[simp] theorem updPort_scrubQueue : (updPort p f s).scrubQueue = s.scrubQueue := rfl
@[simp] theorem updPort_mem : (updPort p f s).mem = s.mem := rfl
@[simp] theorem updPort_memLast : (updPort p f s).memLast = s.memLast := rfl
@[simp] theorem updPort_jobs : (updPort p f s).jobs = s.jobs := rfl
@[simp] theorem updPort_page : (updPort p f s).page = s.page := rfl
@[simp] theorem updPort_nextKind : (updPort p f s).nextKind = s.nextKind := rfl
@[simp] theorem updPort_lastCopy : (updPort p f s).lastCopy = s.lastCopy := rfl
@[simp] theorem updPort_reports : (updPort p f s).reports = s.reports := rfl
@[simp] theorem updPort_paused : (updPort p f s).paused = s.paused := rfl
@[simp] theorem updPort_prescaler : (updPort p f s).prescaler = s.prescaler := rfl
@[simp] theorem updPort_period : (updPort p f s).period = s.period := rfl
@[simp] theorem updPort_maint : (updPort p f s).maint = s.maint := rfl
@[simp] theorem updPort_hold : (updPort p f s).hold = s.hold := rfl
@[simp] theorem updPort_cfg : (updPort p f s).cfg = s.cfg := rfl
@[simp] theorem updPort_sdo : (updPort p f s).sdo = s.sdo := rfl
@[simp] theorem updPort_rst : (updPort p f s).rst = s.rst := rfl
@[simp] theorem updPort_freeCount : (updPort p f s).freeCount = s.freeCount := rfl
@[simp] theorem updPort_pending : (updPort p f s).pending = s.pending := rfl
end

/-! ### updPorts -/

section
variable (s : State) (f : Port → HostPort → HostPort)
@[simp] theorem updPorts_buffers : (updPorts f s).buffers = s.buffers := rfl
@[simp] theorem updPorts_pageMap : (updPorts f s).pageMap = s.pageMap := rfl
@[simp] theorem updPorts_offers : (updPorts f s).offers = s.offers := rfl
@[simp] theorem updPorts_dir : (updPorts f s).dir = s.dir := rfl
@[simp] theorem updPorts_counts : (updPorts f s).counts = s.counts := rfl
@[simp] theorem updPorts_pendingTicks : (updPorts f s).pendingTicks = s.pendingTicks := rfl
@[simp] theorem updPorts_walkList : (updPorts f s).walkList = s.walkList := rfl
@[simp] theorem updPorts_walkPhase : (updPorts f s).walkPhase = s.walkPhase := rfl
@[simp] theorem updPorts_walkPos : (updPorts f s).walkPos = s.walkPos := rfl
@[simp] theorem updPorts_tcLast : (updPorts f s).tcLast = s.tcLast := rfl
@[simp] theorem updPorts_tcGrant : (updPorts f s).tcGrant = s.tcGrant := rfl
@[simp] theorem updPorts_underway : (updPorts f s).underway = s.underway := rfl
@[simp] theorem updPorts_freeList : (updPorts f s).freeList = s.freeList := rfl
@[simp] theorem updPorts_scrubQueue : (updPorts f s).scrubQueue = s.scrubQueue := rfl
@[simp] theorem updPorts_mem : (updPorts f s).mem = s.mem := rfl
@[simp] theorem updPorts_memLast : (updPorts f s).memLast = s.memLast := rfl
@[simp] theorem updPorts_jobs : (updPorts f s).jobs = s.jobs := rfl
@[simp] theorem updPorts_page : (updPorts f s).page = s.page := rfl
@[simp] theorem updPorts_nextKind : (updPorts f s).nextKind = s.nextKind := rfl
@[simp] theorem updPorts_lastCopy : (updPorts f s).lastCopy = s.lastCopy := rfl
@[simp] theorem updPorts_reports : (updPorts f s).reports = s.reports := rfl
@[simp] theorem updPorts_paused : (updPorts f s).paused = s.paused := rfl
@[simp] theorem updPorts_prescaler : (updPorts f s).prescaler = s.prescaler := rfl
@[simp] theorem updPorts_period : (updPorts f s).period = s.period := rfl
@[simp] theorem updPorts_maint : (updPorts f s).maint = s.maint := rfl
@[simp] theorem updPorts_hold : (updPorts f s).hold = s.hold := rfl
@[simp] theorem updPorts_cfg : (updPorts f s).cfg = s.cfg := rfl
@[simp] theorem updPorts_sdo : (updPorts f s).sdo = s.sdo := rfl
@[simp] theorem updPorts_rst : (updPorts f s).rst = s.rst := rfl
@[simp] theorem updPorts_freeCount : (updPorts f s).freeCount = s.freeCount := rfl
@[simp] theorem updPorts_pending : (updPorts f s).pending = s.pending := rfl
end

/-! ### setRec -/

section
variable (s : State) (b : BufNo) (r : BufRec)
@[simp] theorem setRec_ports : (setRec b r s).ports = s.ports := rfl
@[simp] theorem setRec_pageMap : (setRec b r s).pageMap = s.pageMap := rfl
@[simp] theorem setRec_offers : (setRec b r s).offers = s.offers := rfl
@[simp] theorem setRec_dir : (setRec b r s).dir = s.dir := rfl
@[simp] theorem setRec_counts : (setRec b r s).counts = s.counts := rfl
@[simp] theorem setRec_pendingTicks : (setRec b r s).pendingTicks = s.pendingTicks := rfl
@[simp] theorem setRec_walkList : (setRec b r s).walkList = s.walkList := rfl
@[simp] theorem setRec_walkPhase : (setRec b r s).walkPhase = s.walkPhase := rfl
@[simp] theorem setRec_walkPos : (setRec b r s).walkPos = s.walkPos := rfl
@[simp] theorem setRec_tcLast : (setRec b r s).tcLast = s.tcLast := rfl
@[simp] theorem setRec_tcGrant : (setRec b r s).tcGrant = s.tcGrant := rfl
@[simp] theorem setRec_underway : (setRec b r s).underway = s.underway := rfl
@[simp] theorem setRec_freeList : (setRec b r s).freeList = s.freeList := rfl
@[simp] theorem setRec_scrubQueue : (setRec b r s).scrubQueue = s.scrubQueue := rfl
@[simp] theorem setRec_mem : (setRec b r s).mem = s.mem := rfl
@[simp] theorem setRec_memLast : (setRec b r s).memLast = s.memLast := rfl
@[simp] theorem setRec_jobs : (setRec b r s).jobs = s.jobs := rfl
@[simp] theorem setRec_page : (setRec b r s).page = s.page := rfl
@[simp] theorem setRec_nextKind : (setRec b r s).nextKind = s.nextKind := rfl
@[simp] theorem setRec_lastCopy : (setRec b r s).lastCopy = s.lastCopy := rfl
@[simp] theorem setRec_reports : (setRec b r s).reports = s.reports := rfl
@[simp] theorem setRec_paused : (setRec b r s).paused = s.paused := rfl
@[simp] theorem setRec_prescaler : (setRec b r s).prescaler = s.prescaler := rfl
@[simp] theorem setRec_period : (setRec b r s).period = s.period := rfl
@[simp] theorem setRec_maint : (setRec b r s).maint = s.maint := rfl
@[simp] theorem setRec_hold : (setRec b r s).hold = s.hold := rfl
@[simp] theorem setRec_cfg : (setRec b r s).cfg = s.cfg := rfl
@[simp] theorem setRec_sdo : (setRec b r s).sdo = s.sdo := rfl
@[simp] theorem setRec_rst : (setRec b r s).rst = s.rst := rfl
@[simp] theorem setRec_freeCount : (setRec b r s).freeCount = s.freeCount := rfl
@[simp] theorem setRec_pending : (setRec b r s).pending = s.pending := rfl
end

/-! ### setLive -/

section
variable (s : State) (b : BufNo) (l : Live)
@[simp] theorem setLive_ports : (setLive b l s).ports = s.ports := rfl
@[simp] theorem setLive_pageMap : (setLive b l s).pageMap = s.pageMap := rfl
@[simp] theorem setLive_offers : (setLive b l s).offers = s.offers := rfl
@[simp] theorem setLive_dir : (setLive b l s).dir = s.dir := rfl
@[simp] theorem setLive_counts : (setLive b l s).counts = s.counts := rfl
@[simp] theorem setLive_pendingTicks : (setLive b l s).pendingTicks = s.pendingTicks := rfl
@[simp] theorem setLive_walkList : (setLive b l s).walkList = s.walkList := rfl
@[simp] theorem setLive_walkPhase : (setLive b l s).walkPhase = s.walkPhase := rfl
@[simp] theorem setLive_walkPos : (setLive b l s).walkPos = s.walkPos := rfl
@[simp] theorem setLive_tcLast : (setLive b l s).tcLast = s.tcLast := rfl
@[simp] theorem setLive_tcGrant : (setLive b l s).tcGrant = s.tcGrant := rfl
@[simp] theorem setLive_underway : (setLive b l s).underway = s.underway := rfl
@[simp] theorem setLive_freeList : (setLive b l s).freeList = s.freeList := rfl
@[simp] theorem setLive_scrubQueue : (setLive b l s).scrubQueue = s.scrubQueue := rfl
@[simp] theorem setLive_mem : (setLive b l s).mem = s.mem := rfl
@[simp] theorem setLive_memLast : (setLive b l s).memLast = s.memLast := rfl
@[simp] theorem setLive_jobs : (setLive b l s).jobs = s.jobs := rfl
@[simp] theorem setLive_page : (setLive b l s).page = s.page := rfl
@[simp] theorem setLive_nextKind : (setLive b l s).nextKind = s.nextKind := rfl
@[simp] theorem setLive_lastCopy : (setLive b l s).lastCopy = s.lastCopy := rfl
@[simp] theorem setLive_reports : (setLive b l s).reports = s.reports := rfl
@[simp] theorem setLive_paused : (setLive b l s).paused = s.paused := rfl
@[simp] theorem setLive_prescaler : (setLive b l s).prescaler = s.prescaler := rfl
@[simp] theorem setLive_period : (setLive b l s).period = s.period := rfl
@[simp] theorem setLive_maint : (setLive b l s).maint = s.maint := rfl
@[simp] theorem setLive_hold : (setLive b l s).hold = s.hold := rfl
@[simp] theorem setLive_cfg : (setLive b l s).cfg = s.cfg := rfl
@[simp] theorem setLive_sdo : (setLive b l s).sdo = s.sdo := rfl
@[simp] theorem setLive_rst : (setLive b l s).rst = s.rst := rfl
@[simp] theorem setLive_freeCount : (setLive b l s).freeCount = s.freeCount := rfl
@[simp] theorem setLive_pending : (setLive b l s).pending = s.pending := rfl
end

/-! ### setOffer -/

section
variable (s : State) (id : OfferId) (o : Option Offer)
@[simp] theorem setOffer_ports : (setOffer id o s).ports = s.ports := rfl
@[simp] theorem setOffer_buffers : (setOffer id o s).buffers = s.buffers := rfl
@[simp] theorem setOffer_pageMap : (setOffer id o s).pageMap = s.pageMap := rfl
@[simp] theorem setOffer_dir : (setOffer id o s).dir = s.dir := rfl
@[simp] theorem setOffer_counts : (setOffer id o s).counts = s.counts := rfl
@[simp] theorem setOffer_pendingTicks : (setOffer id o s).pendingTicks = s.pendingTicks := rfl
@[simp] theorem setOffer_walkList : (setOffer id o s).walkList = s.walkList := rfl
@[simp] theorem setOffer_walkPhase : (setOffer id o s).walkPhase = s.walkPhase := rfl
@[simp] theorem setOffer_walkPos : (setOffer id o s).walkPos = s.walkPos := rfl
@[simp] theorem setOffer_tcLast : (setOffer id o s).tcLast = s.tcLast := rfl
@[simp] theorem setOffer_tcGrant : (setOffer id o s).tcGrant = s.tcGrant := rfl
@[simp] theorem setOffer_underway : (setOffer id o s).underway = s.underway := rfl
@[simp] theorem setOffer_freeList : (setOffer id o s).freeList = s.freeList := rfl
@[simp] theorem setOffer_scrubQueue : (setOffer id o s).scrubQueue = s.scrubQueue := rfl
@[simp] theorem setOffer_mem : (setOffer id o s).mem = s.mem := rfl
@[simp] theorem setOffer_memLast : (setOffer id o s).memLast = s.memLast := rfl
@[simp] theorem setOffer_jobs : (setOffer id o s).jobs = s.jobs := rfl
@[simp] theorem setOffer_page : (setOffer id o s).page = s.page := rfl
@[simp] theorem setOffer_nextKind : (setOffer id o s).nextKind = s.nextKind := rfl
@[simp] theorem setOffer_lastCopy : (setOffer id o s).lastCopy = s.lastCopy := rfl
@[simp] theorem setOffer_reports : (setOffer id o s).reports = s.reports := rfl
@[simp] theorem setOffer_paused : (setOffer id o s).paused = s.paused := rfl
@[simp] theorem setOffer_prescaler : (setOffer id o s).prescaler = s.prescaler := rfl
@[simp] theorem setOffer_period : (setOffer id o s).period = s.period := rfl
@[simp] theorem setOffer_maint : (setOffer id o s).maint = s.maint := rfl
@[simp] theorem setOffer_hold : (setOffer id o s).hold = s.hold := rfl
@[simp] theorem setOffer_cfg : (setOffer id o s).cfg = s.cfg := rfl
@[simp] theorem setOffer_sdo : (setOffer id o s).sdo = s.sdo := rfl
@[simp] theorem setOffer_rst : (setOffer id o s).rst = s.rst := rfl
@[simp] theorem setOffer_freeCount : (setOffer id o s).freeCount = s.freeCount := rfl
@[simp] theorem setOffer_pending : (setOffer id o s).pending = s.pending := rfl
end

/-! ### raiseCounts -/

section
variable (s : State) (p : Port) (m n : Nat)
@[simp] theorem raiseCounts_ports : (raiseCounts p m n s).ports = s.ports := rfl
@[simp] theorem raiseCounts_buffers : (raiseCounts p m n s).buffers = s.buffers := rfl
@[simp] theorem raiseCounts_pageMap : (raiseCounts p m n s).pageMap = s.pageMap := rfl
@[simp] theorem raiseCounts_offers : (raiseCounts p m n s).offers = s.offers := rfl
@[simp] theorem raiseCounts_dir : (raiseCounts p m n s).dir = s.dir := rfl
@[simp] theorem raiseCounts_pendingTicks : (raiseCounts p m n s).pendingTicks = s.pendingTicks := rfl
@[simp] theorem raiseCounts_walkList : (raiseCounts p m n s).walkList = s.walkList := rfl
@[simp] theorem raiseCounts_walkPhase : (raiseCounts p m n s).walkPhase = s.walkPhase := rfl
@[simp] theorem raiseCounts_walkPos : (raiseCounts p m n s).walkPos = s.walkPos := rfl
@[simp] theorem raiseCounts_tcLast : (raiseCounts p m n s).tcLast = s.tcLast := rfl
@[simp] theorem raiseCounts_tcGrant : (raiseCounts p m n s).tcGrant = s.tcGrant := rfl
@[simp] theorem raiseCounts_underway : (raiseCounts p m n s).underway = s.underway := rfl
@[simp] theorem raiseCounts_freeList : (raiseCounts p m n s).freeList = s.freeList := rfl
@[simp] theorem raiseCounts_scrubQueue : (raiseCounts p m n s).scrubQueue = s.scrubQueue := rfl
@[simp] theorem raiseCounts_mem : (raiseCounts p m n s).mem = s.mem := rfl
@[simp] theorem raiseCounts_memLast : (raiseCounts p m n s).memLast = s.memLast := rfl
@[simp] theorem raiseCounts_jobs : (raiseCounts p m n s).jobs = s.jobs := rfl
@[simp] theorem raiseCounts_page : (raiseCounts p m n s).page = s.page := rfl
@[simp] theorem raiseCounts_nextKind : (raiseCounts p m n s).nextKind = s.nextKind := rfl
@[simp] theorem raiseCounts_lastCopy : (raiseCounts p m n s).lastCopy = s.lastCopy := rfl
@[simp] theorem raiseCounts_reports : (raiseCounts p m n s).reports = s.reports := rfl
@[simp] theorem raiseCounts_paused : (raiseCounts p m n s).paused = s.paused := rfl
@[simp] theorem raiseCounts_prescaler : (raiseCounts p m n s).prescaler = s.prescaler := rfl
@[simp] theorem raiseCounts_period : (raiseCounts p m n s).period = s.period := rfl
@[simp] theorem raiseCounts_maint : (raiseCounts p m n s).maint = s.maint := rfl
@[simp] theorem raiseCounts_hold : (raiseCounts p m n s).hold = s.hold := rfl
@[simp] theorem raiseCounts_cfg : (raiseCounts p m n s).cfg = s.cfg := rfl
@[simp] theorem raiseCounts_sdo : (raiseCounts p m n s).sdo = s.sdo := rfl
@[simp] theorem raiseCounts_rst : (raiseCounts p m n s).rst = s.rst := rfl
@[simp] theorem raiseCounts_freeCount : (raiseCounts p m n s).freeCount = s.freeCount := rfl
@[simp] theorem raiseCounts_pending : (raiseCounts p m n s).pending = s.pending := rfl
end

/-! ### lowerCounts -/

section
variable (s : State) (p : Port) (m n : Nat)
@[simp] theorem lowerCounts_ports : (lowerCounts p m n s).ports = s.ports := rfl
@[simp] theorem lowerCounts_buffers : (lowerCounts p m n s).buffers = s.buffers := rfl
@[simp] theorem lowerCounts_pageMap : (lowerCounts p m n s).pageMap = s.pageMap := rfl
@[simp] theorem lowerCounts_offers : (lowerCounts p m n s).offers = s.offers := rfl
@[simp] theorem lowerCounts_dir : (lowerCounts p m n s).dir = s.dir := rfl
@[simp] theorem lowerCounts_pendingTicks : (lowerCounts p m n s).pendingTicks = s.pendingTicks := rfl
@[simp] theorem lowerCounts_walkList : (lowerCounts p m n s).walkList = s.walkList := rfl
@[simp] theorem lowerCounts_walkPhase : (lowerCounts p m n s).walkPhase = s.walkPhase := rfl
@[simp] theorem lowerCounts_walkPos : (lowerCounts p m n s).walkPos = s.walkPos := rfl
@[simp] theorem lowerCounts_tcLast : (lowerCounts p m n s).tcLast = s.tcLast := rfl
@[simp] theorem lowerCounts_tcGrant : (lowerCounts p m n s).tcGrant = s.tcGrant := rfl
@[simp] theorem lowerCounts_underway : (lowerCounts p m n s).underway = s.underway := rfl
@[simp] theorem lowerCounts_freeList : (lowerCounts p m n s).freeList = s.freeList := rfl
@[simp] theorem lowerCounts_scrubQueue : (lowerCounts p m n s).scrubQueue = s.scrubQueue := rfl
@[simp] theorem lowerCounts_mem : (lowerCounts p m n s).mem = s.mem := rfl
@[simp] theorem lowerCounts_memLast : (lowerCounts p m n s).memLast = s.memLast := rfl
@[simp] theorem lowerCounts_jobs : (lowerCounts p m n s).jobs = s.jobs := rfl
@[simp] theorem lowerCounts_page : (lowerCounts p m n s).page = s.page := rfl
@[simp] theorem lowerCounts_nextKind : (lowerCounts p m n s).nextKind = s.nextKind := rfl
@[simp] theorem lowerCounts_lastCopy : (lowerCounts p m n s).lastCopy = s.lastCopy := rfl
@[simp] theorem lowerCounts_reports : (lowerCounts p m n s).reports = s.reports := rfl
@[simp] theorem lowerCounts_paused : (lowerCounts p m n s).paused = s.paused := rfl
@[simp] theorem lowerCounts_prescaler : (lowerCounts p m n s).prescaler = s.prescaler := rfl
@[simp] theorem lowerCounts_period : (lowerCounts p m n s).period = s.period := rfl
@[simp] theorem lowerCounts_maint : (lowerCounts p m n s).maint = s.maint := rfl
@[simp] theorem lowerCounts_hold : (lowerCounts p m n s).hold = s.hold := rfl
@[simp] theorem lowerCounts_cfg : (lowerCounts p m n s).cfg = s.cfg := rfl
@[simp] theorem lowerCounts_sdo : (lowerCounts p m n s).sdo = s.sdo := rfl
@[simp] theorem lowerCounts_rst : (lowerCounts p m n s).rst = s.rst := rfl
@[simp] theorem lowerCounts_freeCount : (lowerCounts p m n s).freeCount = s.freeCount := rfl
@[simp] theorem lowerCounts_pending : (lowerCounts p m n s).pending = s.pending := rfl
end

/-! ### setJob -/

section
variable (s : State) (p : Port) (j : Option Job)
@[simp] theorem setJob_ports : (setJob p j s).ports = s.ports := rfl
@[simp] theorem setJob_buffers : (setJob p j s).buffers = s.buffers := rfl
@[simp] theorem setJob_pageMap : (setJob p j s).pageMap = s.pageMap := rfl
@[simp] theorem setJob_offers : (setJob p j s).offers = s.offers := rfl
@[simp] theorem setJob_dir : (setJob p j s).dir = s.dir := rfl
@[simp] theorem setJob_counts : (setJob p j s).counts = s.counts := rfl
@[simp] theorem setJob_pendingTicks : (setJob p j s).pendingTicks = s.pendingTicks := rfl
@[simp] theorem setJob_walkList : (setJob p j s).walkList = s.walkList := rfl
@[simp] theorem setJob_walkPhase : (setJob p j s).walkPhase = s.walkPhase := rfl
@[simp] theorem setJob_walkPos : (setJob p j s).walkPos = s.walkPos := rfl
@[simp] theorem setJob_tcLast : (setJob p j s).tcLast = s.tcLast := rfl
@[simp] theorem setJob_tcGrant : (setJob p j s).tcGrant = s.tcGrant := rfl
@[simp] theorem setJob_underway : (setJob p j s).underway = s.underway := rfl
@[simp] theorem setJob_freeList : (setJob p j s).freeList = s.freeList := rfl
@[simp] theorem setJob_scrubQueue : (setJob p j s).scrubQueue = s.scrubQueue := rfl
@[simp] theorem setJob_mem : (setJob p j s).mem = s.mem := rfl
@[simp] theorem setJob_memLast : (setJob p j s).memLast = s.memLast := rfl
@[simp] theorem setJob_page : (setJob p j s).page = s.page := rfl
@[simp] theorem setJob_nextKind : (setJob p j s).nextKind = s.nextKind := rfl
@[simp] theorem setJob_lastCopy : (setJob p j s).lastCopy = s.lastCopy := rfl
@[simp] theorem setJob_reports : (setJob p j s).reports = s.reports := rfl
@[simp] theorem setJob_paused : (setJob p j s).paused = s.paused := rfl
@[simp] theorem setJob_prescaler : (setJob p j s).prescaler = s.prescaler := rfl
@[simp] theorem setJob_period : (setJob p j s).period = s.period := rfl
@[simp] theorem setJob_maint : (setJob p j s).maint = s.maint := rfl
@[simp] theorem setJob_hold : (setJob p j s).hold = s.hold := rfl
@[simp] theorem setJob_cfg : (setJob p j s).cfg = s.cfg := rfl
@[simp] theorem setJob_sdo : (setJob p j s).sdo = s.sdo := rfl
@[simp] theorem setJob_rst : (setJob p j s).rst = s.rst := rfl
@[simp] theorem setJob_freeCount : (setJob p j s).freeCount = s.freeCount := rfl
@[simp] theorem setJob_pending : (setJob p j s).pending = s.pending := rfl
end

/-! ### notify -/

section
variable (s : State) (p : Port) (n : Notice)
@[simp] theorem notify_buffers : (notify p n s).buffers = s.buffers := rfl
@[simp] theorem notify_pageMap : (notify p n s).pageMap = s.pageMap := rfl
@[simp] theorem notify_offers : (notify p n s).offers = s.offers := rfl
@[simp] theorem notify_dir : (notify p n s).dir = s.dir := rfl
@[simp] theorem notify_counts : (notify p n s).counts = s.counts := rfl
@[simp] theorem notify_pendingTicks : (notify p n s).pendingTicks = s.pendingTicks := rfl
@[simp] theorem notify_walkList : (notify p n s).walkList = s.walkList := rfl
@[simp] theorem notify_walkPhase : (notify p n s).walkPhase = s.walkPhase := rfl
@[simp] theorem notify_walkPos : (notify p n s).walkPos = s.walkPos := rfl
@[simp] theorem notify_tcLast : (notify p n s).tcLast = s.tcLast := rfl
@[simp] theorem notify_tcGrant : (notify p n s).tcGrant = s.tcGrant := rfl
@[simp] theorem notify_underway : (notify p n s).underway = s.underway := rfl
@[simp] theorem notify_freeList : (notify p n s).freeList = s.freeList := rfl
@[simp] theorem notify_scrubQueue : (notify p n s).scrubQueue = s.scrubQueue := rfl
@[simp] theorem notify_mem : (notify p n s).mem = s.mem := rfl
@[simp] theorem notify_memLast : (notify p n s).memLast = s.memLast := rfl
@[simp] theorem notify_jobs : (notify p n s).jobs = s.jobs := rfl
@[simp] theorem notify_page : (notify p n s).page = s.page := rfl
@[simp] theorem notify_nextKind : (notify p n s).nextKind = s.nextKind := rfl
@[simp] theorem notify_lastCopy : (notify p n s).lastCopy = s.lastCopy := rfl
@[simp] theorem notify_reports : (notify p n s).reports = s.reports := rfl
@[simp] theorem notify_paused : (notify p n s).paused = s.paused := rfl
@[simp] theorem notify_prescaler : (notify p n s).prescaler = s.prescaler := rfl
@[simp] theorem notify_period : (notify p n s).period = s.period := rfl
@[simp] theorem notify_maint : (notify p n s).maint = s.maint := rfl
@[simp] theorem notify_hold : (notify p n s).hold = s.hold := rfl
@[simp] theorem notify_cfg : (notify p n s).cfg = s.cfg := rfl
@[simp] theorem notify_sdo : (notify p n s).sdo = s.sdo := rfl
@[simp] theorem notify_rst : (notify p n s).rst = s.rst := rfl
@[simp] theorem notify_freeCount : (notify p n s).freeCount = s.freeCount := rfl
@[simp] theorem notify_pending : (notify p n s).pending = s.pending := rfl
end

/-! ### voidAt -/

section
variable (s : State) (p : Port) (h : Handle)
@[simp] theorem voidAt_buffers : (voidAt p h s).buffers = s.buffers := rfl
@[simp] theorem voidAt_pageMap : (voidAt p h s).pageMap = s.pageMap := rfl
@[simp] theorem voidAt_offers : (voidAt p h s).offers = s.offers := rfl
@[simp] theorem voidAt_dir : (voidAt p h s).dir = s.dir := rfl
@[simp] theorem voidAt_counts : (voidAt p h s).counts = s.counts := rfl
@[simp] theorem voidAt_pendingTicks : (voidAt p h s).pendingTicks = s.pendingTicks := rfl
@[simp] theorem voidAt_walkList : (voidAt p h s).walkList = s.walkList := rfl
@[simp] theorem voidAt_walkPhase : (voidAt p h s).walkPhase = s.walkPhase := rfl
@[simp] theorem voidAt_walkPos : (voidAt p h s).walkPos = s.walkPos := rfl
@[simp] theorem voidAt_tcLast : (voidAt p h s).tcLast = s.tcLast := rfl
@[simp] theorem voidAt_tcGrant : (voidAt p h s).tcGrant = s.tcGrant := rfl
@[simp] theorem voidAt_underway : (voidAt p h s).underway = s.underway := rfl
@[simp] theorem voidAt_freeList : (voidAt p h s).freeList = s.freeList := rfl
@[simp] theorem voidAt_scrubQueue : (voidAt p h s).scrubQueue = s.scrubQueue := rfl
@[simp] theorem voidAt_mem : (voidAt p h s).mem = s.mem := rfl
@[simp] theorem voidAt_memLast : (voidAt p h s).memLast = s.memLast := rfl
@[simp] theorem voidAt_jobs : (voidAt p h s).jobs = s.jobs := rfl
@[simp] theorem voidAt_page : (voidAt p h s).page = s.page := rfl
@[simp] theorem voidAt_nextKind : (voidAt p h s).nextKind = s.nextKind := rfl
@[simp] theorem voidAt_lastCopy : (voidAt p h s).lastCopy = s.lastCopy := rfl
@[simp] theorem voidAt_reports : (voidAt p h s).reports = s.reports := rfl
@[simp] theorem voidAt_paused : (voidAt p h s).paused = s.paused := rfl
@[simp] theorem voidAt_prescaler : (voidAt p h s).prescaler = s.prescaler := rfl
@[simp] theorem voidAt_period : (voidAt p h s).period = s.period := rfl
@[simp] theorem voidAt_maint : (voidAt p h s).maint = s.maint := rfl
@[simp] theorem voidAt_hold : (voidAt p h s).hold = s.hold := rfl
@[simp] theorem voidAt_cfg : (voidAt p h s).cfg = s.cfg := rfl
@[simp] theorem voidAt_sdo : (voidAt p h s).sdo = s.sdo := rfl
@[simp] theorem voidAt_rst : (voidAt p h s).rst = s.rst := rfl
@[simp] theorem voidAt_freeCount : (voidAt p h s).freeCount = s.freeCount := rfl
@[simp] theorem voidAt_pending : (voidAt p h s).pending = s.pending := rfl
end

/-! ### complete -/

section
variable (s : State) (p : Port) (r : Result) (a : List Byte)
@[simp] theorem complete_buffers : (complete p r a s).buffers = s.buffers := rfl
@[simp] theorem complete_pageMap : (complete p r a s).pageMap = s.pageMap := rfl
@[simp] theorem complete_offers : (complete p r a s).offers = s.offers := rfl
@[simp] theorem complete_dir : (complete p r a s).dir = s.dir := rfl
@[simp] theorem complete_counts : (complete p r a s).counts = s.counts := rfl
@[simp] theorem complete_pendingTicks : (complete p r a s).pendingTicks = s.pendingTicks := rfl
@[simp] theorem complete_walkList : (complete p r a s).walkList = s.walkList := rfl
@[simp] theorem complete_walkPhase : (complete p r a s).walkPhase = s.walkPhase := rfl
@[simp] theorem complete_walkPos : (complete p r a s).walkPos = s.walkPos := rfl
@[simp] theorem complete_tcLast : (complete p r a s).tcLast = s.tcLast := rfl
@[simp] theorem complete_tcGrant : (complete p r a s).tcGrant = s.tcGrant := rfl
@[simp] theorem complete_underway : (complete p r a s).underway = s.underway := rfl
@[simp] theorem complete_freeList : (complete p r a s).freeList = s.freeList := rfl
@[simp] theorem complete_scrubQueue : (complete p r a s).scrubQueue = s.scrubQueue := rfl
@[simp] theorem complete_mem : (complete p r a s).mem = s.mem := rfl
@[simp] theorem complete_memLast : (complete p r a s).memLast = s.memLast := rfl
@[simp] theorem complete_jobs : (complete p r a s).jobs = s.jobs := rfl
@[simp] theorem complete_page : (complete p r a s).page = s.page := rfl
@[simp] theorem complete_nextKind : (complete p r a s).nextKind = s.nextKind := rfl
@[simp] theorem complete_lastCopy : (complete p r a s).lastCopy = s.lastCopy := rfl
@[simp] theorem complete_reports : (complete p r a s).reports = s.reports := rfl
@[simp] theorem complete_paused : (complete p r a s).paused = s.paused := rfl
@[simp] theorem complete_prescaler : (complete p r a s).prescaler = s.prescaler := rfl
@[simp] theorem complete_period : (complete p r a s).period = s.period := rfl
@[simp] theorem complete_maint : (complete p r a s).maint = s.maint := rfl
@[simp] theorem complete_hold : (complete p r a s).hold = s.hold := rfl
@[simp] theorem complete_cfg : (complete p r a s).cfg = s.cfg := rfl
@[simp] theorem complete_sdo : (complete p r a s).sdo = s.sdo := rfl
@[simp] theorem complete_rst : (complete p r a s).rst = s.rst := rfl
@[simp] theorem complete_freeCount : (complete p r a s).freeCount = s.freeCount := rfl
@[simp] theorem complete_pending : (complete p r a s).pending = s.pending := rfl
end

/-! ### answer -/

section
variable (s : State) (p : Port) (acc : Access) (v : Byte)
@[simp] theorem answer_buffers : (answer p acc v s).buffers = s.buffers := rfl
@[simp] theorem answer_pageMap : (answer p acc v s).pageMap = s.pageMap := rfl
@[simp] theorem answer_offers : (answer p acc v s).offers = s.offers := rfl
@[simp] theorem answer_dir : (answer p acc v s).dir = s.dir := rfl
@[simp] theorem answer_counts : (answer p acc v s).counts = s.counts := rfl
@[simp] theorem answer_pendingTicks : (answer p acc v s).pendingTicks = s.pendingTicks := rfl
@[simp] theorem answer_walkList : (answer p acc v s).walkList = s.walkList := rfl
@[simp] theorem answer_walkPhase : (answer p acc v s).walkPhase = s.walkPhase := rfl
@[simp] theorem answer_walkPos : (answer p acc v s).walkPos = s.walkPos := rfl
@[simp] theorem answer_tcLast : (answer p acc v s).tcLast = s.tcLast := rfl
@[simp] theorem answer_tcGrant : (answer p acc v s).tcGrant = s.tcGrant := rfl
@[simp] theorem answer_underway : (answer p acc v s).underway = s.underway := rfl
@[simp] theorem answer_freeList : (answer p acc v s).freeList = s.freeList := rfl
@[simp] theorem answer_scrubQueue : (answer p acc v s).scrubQueue = s.scrubQueue := rfl
@[simp] theorem answer_mem : (answer p acc v s).mem = s.mem := rfl
@[simp] theorem answer_memLast : (answer p acc v s).memLast = s.memLast := rfl
@[simp] theorem answer_jobs : (answer p acc v s).jobs = s.jobs := rfl
@[simp] theorem answer_page : (answer p acc v s).page = s.page := rfl
@[simp] theorem answer_nextKind : (answer p acc v s).nextKind = s.nextKind := rfl
@[simp] theorem answer_lastCopy : (answer p acc v s).lastCopy = s.lastCopy := rfl
@[simp] theorem answer_reports : (answer p acc v s).reports = s.reports := rfl
@[simp] theorem answer_paused : (answer p acc v s).paused = s.paused := rfl
@[simp] theorem answer_prescaler : (answer p acc v s).prescaler = s.prescaler := rfl
@[simp] theorem answer_period : (answer p acc v s).period = s.period := rfl
@[simp] theorem answer_maint : (answer p acc v s).maint = s.maint := rfl
@[simp] theorem answer_hold : (answer p acc v s).hold = s.hold := rfl
@[simp] theorem answer_cfg : (answer p acc v s).cfg = s.cfg := rfl
@[simp] theorem answer_sdo : (answer p acc v s).sdo = s.sdo := rfl
@[simp] theorem answer_rst : (answer p acc v s).rst = s.rst := rfl
@[simp] theorem answer_freeCount : (answer p acc v s).freeCount = s.freeCount := rfl
@[simp] theorem answer_pending : (answer p acc v s).pending = s.pending := rfl
end

/-! ### unpublishAll -/

section
variable (s : State) (b : BufNo)
@[simp] theorem unpublishAll_ports : (unpublishAll b s).ports = s.ports := rfl
@[simp] theorem unpublishAll_buffers : (unpublishAll b s).buffers = s.buffers := rfl
@[simp] theorem unpublishAll_pageMap : (unpublishAll b s).pageMap = s.pageMap := rfl
@[simp] theorem unpublishAll_offers : (unpublishAll b s).offers = s.offers := rfl
@[simp] theorem unpublishAll_counts : (unpublishAll b s).counts = s.counts := rfl
@[simp] theorem unpublishAll_pendingTicks : (unpublishAll b s).pendingTicks = s.pendingTicks := rfl
@[simp] theorem unpublishAll_walkList : (unpublishAll b s).walkList = s.walkList := rfl
@[simp] theorem unpublishAll_walkPhase : (unpublishAll b s).walkPhase = s.walkPhase := rfl
@[simp] theorem unpublishAll_walkPos : (unpublishAll b s).walkPos = s.walkPos := rfl
@[simp] theorem unpublishAll_tcLast : (unpublishAll b s).tcLast = s.tcLast := rfl
@[simp] theorem unpublishAll_tcGrant : (unpublishAll b s).tcGrant = s.tcGrant := rfl
@[simp] theorem unpublishAll_underway : (unpublishAll b s).underway = s.underway := rfl
@[simp] theorem unpublishAll_freeList : (unpublishAll b s).freeList = s.freeList := rfl
@[simp] theorem unpublishAll_scrubQueue : (unpublishAll b s).scrubQueue = s.scrubQueue := rfl
@[simp] theorem unpublishAll_mem : (unpublishAll b s).mem = s.mem := rfl
@[simp] theorem unpublishAll_memLast : (unpublishAll b s).memLast = s.memLast := rfl
@[simp] theorem unpublishAll_jobs : (unpublishAll b s).jobs = s.jobs := rfl
@[simp] theorem unpublishAll_page : (unpublishAll b s).page = s.page := rfl
@[simp] theorem unpublishAll_nextKind : (unpublishAll b s).nextKind = s.nextKind := rfl
@[simp] theorem unpublishAll_lastCopy : (unpublishAll b s).lastCopy = s.lastCopy := rfl
@[simp] theorem unpublishAll_reports : (unpublishAll b s).reports = s.reports := rfl
@[simp] theorem unpublishAll_paused : (unpublishAll b s).paused = s.paused := rfl
@[simp] theorem unpublishAll_prescaler : (unpublishAll b s).prescaler = s.prescaler := rfl
@[simp] theorem unpublishAll_period : (unpublishAll b s).period = s.period := rfl
@[simp] theorem unpublishAll_maint : (unpublishAll b s).maint = s.maint := rfl
@[simp] theorem unpublishAll_hold : (unpublishAll b s).hold = s.hold := rfl
@[simp] theorem unpublishAll_cfg : (unpublishAll b s).cfg = s.cfg := rfl
@[simp] theorem unpublishAll_sdo : (unpublishAll b s).sdo = s.sdo := rfl
@[simp] theorem unpublishAll_rst : (unpublishAll b s).rst = s.rst := rfl
@[simp] theorem unpublishAll_freeCount : (unpublishAll b s).freeCount = s.freeCount := rfl
@[simp] theorem unpublishAll_pending : (unpublishAll b s).pending = s.pending := rfl
end

/-! ### scrubPages -/

section
variable (s : State) (l : List PageNo)
@[simp] theorem scrubPages_ports : (scrubPages l s).ports = s.ports := rfl
@[simp] theorem scrubPages_buffers : (scrubPages l s).buffers = s.buffers := rfl
@[simp] theorem scrubPages_offers : (scrubPages l s).offers = s.offers := rfl
@[simp] theorem scrubPages_dir : (scrubPages l s).dir = s.dir := rfl
@[simp] theorem scrubPages_counts : (scrubPages l s).counts = s.counts := rfl
@[simp] theorem scrubPages_pendingTicks : (scrubPages l s).pendingTicks = s.pendingTicks := rfl
@[simp] theorem scrubPages_walkList : (scrubPages l s).walkList = s.walkList := rfl
@[simp] theorem scrubPages_walkPhase : (scrubPages l s).walkPhase = s.walkPhase := rfl
@[simp] theorem scrubPages_walkPos : (scrubPages l s).walkPos = s.walkPos := rfl
@[simp] theorem scrubPages_tcLast : (scrubPages l s).tcLast = s.tcLast := rfl
@[simp] theorem scrubPages_tcGrant : (scrubPages l s).tcGrant = s.tcGrant := rfl
@[simp] theorem scrubPages_underway : (scrubPages l s).underway = s.underway := rfl
@[simp] theorem scrubPages_freeList : (scrubPages l s).freeList = s.freeList := rfl
@[simp] theorem scrubPages_mem : (scrubPages l s).mem = s.mem := rfl
@[simp] theorem scrubPages_memLast : (scrubPages l s).memLast = s.memLast := rfl
@[simp] theorem scrubPages_jobs : (scrubPages l s).jobs = s.jobs := rfl
@[simp] theorem scrubPages_page : (scrubPages l s).page = s.page := rfl
@[simp] theorem scrubPages_nextKind : (scrubPages l s).nextKind = s.nextKind := rfl
@[simp] theorem scrubPages_lastCopy : (scrubPages l s).lastCopy = s.lastCopy := rfl
@[simp] theorem scrubPages_reports : (scrubPages l s).reports = s.reports := rfl
@[simp] theorem scrubPages_paused : (scrubPages l s).paused = s.paused := rfl
@[simp] theorem scrubPages_prescaler : (scrubPages l s).prescaler = s.prescaler := rfl
@[simp] theorem scrubPages_period : (scrubPages l s).period = s.period := rfl
@[simp] theorem scrubPages_maint : (scrubPages l s).maint = s.maint := rfl
@[simp] theorem scrubPages_hold : (scrubPages l s).hold = s.hold := rfl
@[simp] theorem scrubPages_cfg : (scrubPages l s).cfg = s.cfg := rfl
@[simp] theorem scrubPages_sdo : (scrubPages l s).sdo = s.sdo := rfl
@[simp] theorem scrubPages_rst : (scrubPages l s).rst = s.rst := rfl
@[simp] theorem scrubPages_freeCount : (scrubPages l s).freeCount = s.freeCount := rfl
@[simp] theorem scrubPages_pending : (scrubPages l s).pending = s.pending := rfl
end

/-! ### endJob -/

section
variable (s : State) (p : Port) (j : Job) (c : EndCause)
@[simp] theorem endJob_ports : (endJob p j c s).ports = s.ports := rfl
@[simp] theorem endJob_buffers : (endJob p j c s).buffers = s.buffers := rfl
@[simp] theorem endJob_pageMap : (endJob p j c s).pageMap = s.pageMap := rfl
@[simp] theorem endJob_offers : (endJob p j c s).offers = s.offers := rfl
@[simp] theorem endJob_dir : (endJob p j c s).dir = s.dir := rfl
@[simp] theorem endJob_counts : (endJob p j c s).counts = s.counts := rfl
@[simp] theorem endJob_pendingTicks : (endJob p j c s).pendingTicks = s.pendingTicks := rfl
@[simp] theorem endJob_walkList : (endJob p j c s).walkList = s.walkList := rfl
@[simp] theorem endJob_walkPhase : (endJob p j c s).walkPhase = s.walkPhase := rfl
@[simp] theorem endJob_walkPos : (endJob p j c s).walkPos = s.walkPos := rfl
@[simp] theorem endJob_tcLast : (endJob p j c s).tcLast = s.tcLast := rfl
@[simp] theorem endJob_tcGrant : (endJob p j c s).tcGrant = s.tcGrant := rfl
@[simp] theorem endJob_underway : (endJob p j c s).underway = s.underway := rfl
@[simp] theorem endJob_freeList : (endJob p j c s).freeList = s.freeList := rfl
@[simp] theorem endJob_scrubQueue : (endJob p j c s).scrubQueue = s.scrubQueue := rfl
@[simp] theorem endJob_mem : (endJob p j c s).mem = s.mem := rfl
@[simp] theorem endJob_memLast : (endJob p j c s).memLast = s.memLast := rfl
@[simp] theorem endJob_page : (endJob p j c s).page = s.page := rfl
@[simp] theorem endJob_nextKind : (endJob p j c s).nextKind = s.nextKind := rfl
@[simp] theorem endJob_lastCopy : (endJob p j c s).lastCopy = s.lastCopy := rfl
@[simp] theorem endJob_paused : (endJob p j c s).paused = s.paused := rfl
@[simp] theorem endJob_prescaler : (endJob p j c s).prescaler = s.prescaler := rfl
@[simp] theorem endJob_period : (endJob p j c s).period = s.period := rfl
@[simp] theorem endJob_maint : (endJob p j c s).maint = s.maint := rfl
@[simp] theorem endJob_hold : (endJob p j c s).hold = s.hold := rfl
@[simp] theorem endJob_cfg : (endJob p j c s).cfg = s.cfg := rfl
@[simp] theorem endJob_sdo : (endJob p j c s).sdo = s.sdo := rfl
@[simp] theorem endJob_rst : (endJob p j c s).rst = s.rst := rfl
@[simp] theorem endJob_freeCount : (endJob p j c s).freeCount = s.freeCount := rfl
@[simp] theorem endJob_pending : (endJob p j c s).pending = s.pending := rfl
end

/-! ### returnToOwner -/

section
variable (s : State) (b : BufNo) (l : Live) (q : Port)
@[simp] theorem returnToOwner_pageMap : (returnToOwner b l q s).pageMap = s.pageMap := rfl
@[simp] theorem returnToOwner_offers : (returnToOwner b l q s).offers = s.offers := rfl
@[simp] theorem returnToOwner_dir : (returnToOwner b l q s).dir = s.dir := rfl
@[simp] theorem returnToOwner_counts : (returnToOwner b l q s).counts = s.counts := rfl
@[simp] theorem returnToOwner_pendingTicks : (returnToOwner b l q s).pendingTicks = s.pendingTicks := rfl
@[simp] theorem returnToOwner_walkList : (returnToOwner b l q s).walkList = s.walkList := rfl
@[simp] theorem returnToOwner_walkPhase : (returnToOwner b l q s).walkPhase = s.walkPhase := rfl
@[simp] theorem returnToOwner_walkPos : (returnToOwner b l q s).walkPos = s.walkPos := rfl
@[simp] theorem returnToOwner_tcLast : (returnToOwner b l q s).tcLast = s.tcLast := rfl
@[simp] theorem returnToOwner_tcGrant : (returnToOwner b l q s).tcGrant = s.tcGrant := rfl
@[simp] theorem returnToOwner_underway : (returnToOwner b l q s).underway = s.underway := rfl
@[simp] theorem returnToOwner_freeList : (returnToOwner b l q s).freeList = s.freeList := rfl
@[simp] theorem returnToOwner_scrubQueue : (returnToOwner b l q s).scrubQueue = s.scrubQueue := rfl
@[simp] theorem returnToOwner_mem : (returnToOwner b l q s).mem = s.mem := rfl
@[simp] theorem returnToOwner_memLast : (returnToOwner b l q s).memLast = s.memLast := rfl
@[simp] theorem returnToOwner_jobs : (returnToOwner b l q s).jobs = s.jobs := rfl
@[simp] theorem returnToOwner_page : (returnToOwner b l q s).page = s.page := rfl
@[simp] theorem returnToOwner_nextKind : (returnToOwner b l q s).nextKind = s.nextKind := rfl
@[simp] theorem returnToOwner_lastCopy : (returnToOwner b l q s).lastCopy = s.lastCopy := rfl
@[simp] theorem returnToOwner_reports : (returnToOwner b l q s).reports = s.reports := rfl
@[simp] theorem returnToOwner_paused : (returnToOwner b l q s).paused = s.paused := rfl
@[simp] theorem returnToOwner_prescaler : (returnToOwner b l q s).prescaler = s.prescaler := rfl
@[simp] theorem returnToOwner_period : (returnToOwner b l q s).period = s.period := rfl
@[simp] theorem returnToOwner_maint : (returnToOwner b l q s).maint = s.maint := rfl
@[simp] theorem returnToOwner_hold : (returnToOwner b l q s).hold = s.hold := rfl
@[simp] theorem returnToOwner_cfg : (returnToOwner b l q s).cfg = s.cfg := rfl
@[simp] theorem returnToOwner_sdo : (returnToOwner b l q s).sdo = s.sdo := rfl
@[simp] theorem returnToOwner_rst : (returnToOwner b l q s).rst = s.rst := rfl
@[simp] theorem returnToOwner_freeCount : (returnToOwner b l q s).freeCount = s.freeCount := rfl
@[simp] theorem returnToOwner_pending : (returnToOwner b l q s).pending = s.pending := rfl
end

/-! ### leaveShare -/

section
variable (s : State) (b : BufNo) (l : Live) (q : Port)
@[simp] theorem leaveShare_pageMap : (leaveShare b l q s).pageMap = s.pageMap := rfl
@[simp] theorem leaveShare_offers : (leaveShare b l q s).offers = s.offers := rfl
@[simp] theorem leaveShare_dir : (leaveShare b l q s).dir = s.dir := rfl
@[simp] theorem leaveShare_counts : (leaveShare b l q s).counts = s.counts := rfl
@[simp] theorem leaveShare_pendingTicks : (leaveShare b l q s).pendingTicks = s.pendingTicks := rfl
@[simp] theorem leaveShare_walkList : (leaveShare b l q s).walkList = s.walkList := rfl
@[simp] theorem leaveShare_walkPhase : (leaveShare b l q s).walkPhase = s.walkPhase := rfl
@[simp] theorem leaveShare_walkPos : (leaveShare b l q s).walkPos = s.walkPos := rfl
@[simp] theorem leaveShare_tcLast : (leaveShare b l q s).tcLast = s.tcLast := rfl
@[simp] theorem leaveShare_tcGrant : (leaveShare b l q s).tcGrant = s.tcGrant := rfl
@[simp] theorem leaveShare_underway : (leaveShare b l q s).underway = s.underway := rfl
@[simp] theorem leaveShare_freeList : (leaveShare b l q s).freeList = s.freeList := rfl
@[simp] theorem leaveShare_scrubQueue : (leaveShare b l q s).scrubQueue = s.scrubQueue := rfl
@[simp] theorem leaveShare_mem : (leaveShare b l q s).mem = s.mem := rfl
@[simp] theorem leaveShare_memLast : (leaveShare b l q s).memLast = s.memLast := rfl
@[simp] theorem leaveShare_jobs : (leaveShare b l q s).jobs = s.jobs := rfl
@[simp] theorem leaveShare_page : (leaveShare b l q s).page = s.page := rfl
@[simp] theorem leaveShare_nextKind : (leaveShare b l q s).nextKind = s.nextKind := rfl
@[simp] theorem leaveShare_lastCopy : (leaveShare b l q s).lastCopy = s.lastCopy := rfl
@[simp] theorem leaveShare_reports : (leaveShare b l q s).reports = s.reports := rfl
@[simp] theorem leaveShare_paused : (leaveShare b l q s).paused = s.paused := rfl
@[simp] theorem leaveShare_prescaler : (leaveShare b l q s).prescaler = s.prescaler := rfl
@[simp] theorem leaveShare_period : (leaveShare b l q s).period = s.period := rfl
@[simp] theorem leaveShare_maint : (leaveShare b l q s).maint = s.maint := rfl
@[simp] theorem leaveShare_hold : (leaveShare b l q s).hold = s.hold := rfl
@[simp] theorem leaveShare_cfg : (leaveShare b l q s).cfg = s.cfg := rfl
@[simp] theorem leaveShare_sdo : (leaveShare b l q s).sdo = s.sdo := rfl
@[simp] theorem leaveShare_rst : (leaveShare b l q s).rst = s.rst := rfl
@[simp] theorem leaveShare_freeCount : (leaveShare b l q s).freeCount = s.freeCount := rfl
@[simp] theorem leaveShare_pending : (leaveShare b l q s).pending = s.pending := rfl
end

/-! ### revokeAll -/

section
variable (s : State) (l : Live) (h : Handle) (c : Cause) (q : Option Port)
@[simp] theorem revokeAll_buffers : (revokeAll l h c q s).buffers = s.buffers := rfl
@[simp] theorem revokeAll_pageMap : (revokeAll l h c q s).pageMap = s.pageMap := rfl
@[simp] theorem revokeAll_offers : (revokeAll l h c q s).offers = s.offers := rfl
@[simp] theorem revokeAll_dir : (revokeAll l h c q s).dir = s.dir := rfl
@[simp] theorem revokeAll_counts : (revokeAll l h c q s).counts = s.counts := rfl
@[simp] theorem revokeAll_pendingTicks : (revokeAll l h c q s).pendingTicks = s.pendingTicks := rfl
@[simp] theorem revokeAll_walkList : (revokeAll l h c q s).walkList = s.walkList := rfl
@[simp] theorem revokeAll_walkPhase : (revokeAll l h c q s).walkPhase = s.walkPhase := rfl
@[simp] theorem revokeAll_walkPos : (revokeAll l h c q s).walkPos = s.walkPos := rfl
@[simp] theorem revokeAll_tcLast : (revokeAll l h c q s).tcLast = s.tcLast := rfl
@[simp] theorem revokeAll_tcGrant : (revokeAll l h c q s).tcGrant = s.tcGrant := rfl
@[simp] theorem revokeAll_underway : (revokeAll l h c q s).underway = s.underway := rfl
@[simp] theorem revokeAll_freeList : (revokeAll l h c q s).freeList = s.freeList := rfl
@[simp] theorem revokeAll_scrubQueue : (revokeAll l h c q s).scrubQueue = s.scrubQueue := rfl
@[simp] theorem revokeAll_mem : (revokeAll l h c q s).mem = s.mem := rfl
@[simp] theorem revokeAll_memLast : (revokeAll l h c q s).memLast = s.memLast := rfl
@[simp] theorem revokeAll_jobs : (revokeAll l h c q s).jobs = s.jobs := rfl
@[simp] theorem revokeAll_page : (revokeAll l h c q s).page = s.page := rfl
@[simp] theorem revokeAll_nextKind : (revokeAll l h c q s).nextKind = s.nextKind := rfl
@[simp] theorem revokeAll_lastCopy : (revokeAll l h c q s).lastCopy = s.lastCopy := rfl
@[simp] theorem revokeAll_reports : (revokeAll l h c q s).reports = s.reports := rfl
@[simp] theorem revokeAll_paused : (revokeAll l h c q s).paused = s.paused := rfl
@[simp] theorem revokeAll_prescaler : (revokeAll l h c q s).prescaler = s.prescaler := rfl
@[simp] theorem revokeAll_period : (revokeAll l h c q s).period = s.period := rfl
@[simp] theorem revokeAll_maint : (revokeAll l h c q s).maint = s.maint := rfl
@[simp] theorem revokeAll_hold : (revokeAll l h c q s).hold = s.hold := rfl
@[simp] theorem revokeAll_cfg : (revokeAll l h c q s).cfg = s.cfg := rfl
@[simp] theorem revokeAll_sdo : (revokeAll l h c q s).sdo = s.sdo := rfl
@[simp] theorem revokeAll_rst : (revokeAll l h c q s).rst = s.rst := rfl
@[simp] theorem revokeAll_freeCount : (revokeAll l h c q s).freeCount = s.freeCount := rfl
@[simp] theorem revokeAll_pending : (revokeAll l h c q s).pending = s.pending := rfl
end

/-! ### retire -/

section
variable (s : State) (b : BufNo) (l : Live) (c : Cause) (q : Option Port)
@[simp] theorem retire_offers : (retire b l c q s).offers = s.offers := rfl
@[simp] theorem retire_pendingTicks : (retire b l c q s).pendingTicks = s.pendingTicks := rfl
@[simp] theorem retire_walkList : (retire b l c q s).walkList = s.walkList := rfl
@[simp] theorem retire_walkPhase : (retire b l c q s).walkPhase = s.walkPhase := rfl
@[simp] theorem retire_walkPos : (retire b l c q s).walkPos = s.walkPos := rfl
@[simp] theorem retire_tcLast : (retire b l c q s).tcLast = s.tcLast := rfl
@[simp] theorem retire_tcGrant : (retire b l c q s).tcGrant = s.tcGrant := rfl
@[simp] theorem retire_underway : (retire b l c q s).underway = s.underway := rfl
@[simp] theorem retire_freeList : (retire b l c q s).freeList = s.freeList := rfl
@[simp] theorem retire_mem : (retire b l c q s).mem = s.mem := rfl
@[simp] theorem retire_memLast : (retire b l c q s).memLast = s.memLast := rfl
@[simp] theorem retire_jobs : (retire b l c q s).jobs = s.jobs := rfl
@[simp] theorem retire_page : (retire b l c q s).page = s.page := rfl
@[simp] theorem retire_nextKind : (retire b l c q s).nextKind = s.nextKind := rfl
@[simp] theorem retire_lastCopy : (retire b l c q s).lastCopy = s.lastCopy := rfl
@[simp] theorem retire_reports : (retire b l c q s).reports = s.reports := rfl
@[simp] theorem retire_paused : (retire b l c q s).paused = s.paused := rfl
@[simp] theorem retire_prescaler : (retire b l c q s).prescaler = s.prescaler := rfl
@[simp] theorem retire_period : (retire b l c q s).period = s.period := rfl
@[simp] theorem retire_maint : (retire b l c q s).maint = s.maint := rfl
@[simp] theorem retire_hold : (retire b l c q s).hold = s.hold := rfl
@[simp] theorem retire_cfg : (retire b l c q s).cfg = s.cfg := rfl
@[simp] theorem retire_sdo : (retire b l c q s).sdo = s.sdo := rfl
@[simp] theorem retire_rst : (retire b l c q s).rst = s.rst := rfl
@[simp] theorem retire_freeCount : (retire b l c q s).freeCount = s.freeCount := rfl
@[simp] theorem retire_pending : (retire b l c q s).pending = s.pending := rfl
end

/-! ### takeAndChain -/

section
variable (s : State) (b : BufNo) (t : Option PageNo) (n : Nat)
@[simp] theorem takeAndChain_ports : (takeAndChain b t n s).ports = s.ports := rfl
@[simp] theorem takeAndChain_buffers : (takeAndChain b t n s).buffers = s.buffers := rfl
@[simp] theorem takeAndChain_offers : (takeAndChain b t n s).offers = s.offers := rfl
@[simp] theorem takeAndChain_dir : (takeAndChain b t n s).dir = s.dir := rfl
@[simp] theorem takeAndChain_counts : (takeAndChain b t n s).counts = s.counts := rfl
@[simp] theorem takeAndChain_pendingTicks : (takeAndChain b t n s).pendingTicks = s.pendingTicks := rfl
@[simp] theorem takeAndChain_walkList : (takeAndChain b t n s).walkList = s.walkList := rfl
@[simp] theorem takeAndChain_walkPhase : (takeAndChain b t n s).walkPhase = s.walkPhase := rfl
@[simp] theorem takeAndChain_walkPos : (takeAndChain b t n s).walkPos = s.walkPos := rfl
@[simp] theorem takeAndChain_tcLast : (takeAndChain b t n s).tcLast = s.tcLast := rfl
@[simp] theorem takeAndChain_tcGrant : (takeAndChain b t n s).tcGrant = s.tcGrant := rfl
@[simp] theorem takeAndChain_underway : (takeAndChain b t n s).underway = s.underway := rfl
@[simp] theorem takeAndChain_scrubQueue : (takeAndChain b t n s).scrubQueue = s.scrubQueue := rfl
@[simp] theorem takeAndChain_mem : (takeAndChain b t n s).mem = s.mem := rfl
@[simp] theorem takeAndChain_memLast : (takeAndChain b t n s).memLast = s.memLast := rfl
@[simp] theorem takeAndChain_jobs : (takeAndChain b t n s).jobs = s.jobs := rfl
@[simp] theorem takeAndChain_page : (takeAndChain b t n s).page = s.page := rfl
@[simp] theorem takeAndChain_nextKind : (takeAndChain b t n s).nextKind = s.nextKind := rfl
@[simp] theorem takeAndChain_lastCopy : (takeAndChain b t n s).lastCopy = s.lastCopy := rfl
@[simp] theorem takeAndChain_reports : (takeAndChain b t n s).reports = s.reports := rfl
@[simp] theorem takeAndChain_paused : (takeAndChain b t n s).paused = s.paused := rfl
@[simp] theorem takeAndChain_prescaler : (takeAndChain b t n s).prescaler = s.prescaler := rfl
@[simp] theorem takeAndChain_period : (takeAndChain b t n s).period = s.period := rfl
@[simp] theorem takeAndChain_maint : (takeAndChain b t n s).maint = s.maint := rfl
@[simp] theorem takeAndChain_hold : (takeAndChain b t n s).hold = s.hold := rfl
@[simp] theorem takeAndChain_cfg : (takeAndChain b t n s).cfg = s.cfg := rfl
@[simp] theorem takeAndChain_sdo : (takeAndChain b t n s).sdo = s.sdo := rfl
@[simp] theorem takeAndChain_rst : (takeAndChain b t n s).rst = s.rst := rfl
@[simp] theorem takeAndChain_freeCount : (takeAndChain b t n s).freeCount = s.freeCount := rfl
@[simp] theorem takeAndChain_pending : (takeAndChain b t n s).pending = s.pending := rfl
end

/-! ### cutChain -/

section
variable (s : State) (b : BufNo) (t : PageNo)
@[simp] theorem cutChain_ports : (cutChain b t s).ports = s.ports := rfl
@[simp] theorem cutChain_buffers : (cutChain b t s).buffers = s.buffers := rfl
@[simp] theorem cutChain_offers : (cutChain b t s).offers = s.offers := rfl
@[simp] theorem cutChain_dir : (cutChain b t s).dir = s.dir := rfl
@[simp] theorem cutChain_counts : (cutChain b t s).counts = s.counts := rfl
@[simp] theorem cutChain_pendingTicks : (cutChain b t s).pendingTicks = s.pendingTicks := rfl
@[simp] theorem cutChain_walkList : (cutChain b t s).walkList = s.walkList := rfl
@[simp] theorem cutChain_walkPhase : (cutChain b t s).walkPhase = s.walkPhase := rfl
@[simp] theorem cutChain_walkPos : (cutChain b t s).walkPos = s.walkPos := rfl
@[simp] theorem cutChain_tcLast : (cutChain b t s).tcLast = s.tcLast := rfl
@[simp] theorem cutChain_tcGrant : (cutChain b t s).tcGrant = s.tcGrant := rfl
@[simp] theorem cutChain_underway : (cutChain b t s).underway = s.underway := rfl
@[simp] theorem cutChain_freeList : (cutChain b t s).freeList = s.freeList := rfl
@[simp] theorem cutChain_scrubQueue : (cutChain b t s).scrubQueue = s.scrubQueue := rfl
@[simp] theorem cutChain_mem : (cutChain b t s).mem = s.mem := rfl
@[simp] theorem cutChain_memLast : (cutChain b t s).memLast = s.memLast := rfl
@[simp] theorem cutChain_jobs : (cutChain b t s).jobs = s.jobs := rfl
@[simp] theorem cutChain_page : (cutChain b t s).page = s.page := rfl
@[simp] theorem cutChain_nextKind : (cutChain b t s).nextKind = s.nextKind := rfl
@[simp] theorem cutChain_lastCopy : (cutChain b t s).lastCopy = s.lastCopy := rfl
@[simp] theorem cutChain_reports : (cutChain b t s).reports = s.reports := rfl
@[simp] theorem cutChain_paused : (cutChain b t s).paused = s.paused := rfl
@[simp] theorem cutChain_prescaler : (cutChain b t s).prescaler = s.prescaler := rfl
@[simp] theorem cutChain_period : (cutChain b t s).period = s.period := rfl
@[simp] theorem cutChain_maint : (cutChain b t s).maint = s.maint := rfl
@[simp] theorem cutChain_hold : (cutChain b t s).hold = s.hold := rfl
@[simp] theorem cutChain_cfg : (cutChain b t s).cfg = s.cfg := rfl
@[simp] theorem cutChain_sdo : (cutChain b t s).sdo = s.sdo := rfl
@[simp] theorem cutChain_rst : (cutChain b t s).rst = s.rst := rfl
@[simp] theorem cutChain_freeCount : (cutChain b t s).freeCount = s.freeCount := rfl
@[simp] theorem cutChain_pending : (cutChain b t s).pending = s.pending := rfl
end

/-! ### restartPrescaler -/

section
variable (s : State) 
@[simp] theorem restartPrescaler_ports : (restartPrescaler s).ports = s.ports := rfl
@[simp] theorem restartPrescaler_buffers : (restartPrescaler s).buffers = s.buffers := rfl
@[simp] theorem restartPrescaler_pageMap : (restartPrescaler s).pageMap = s.pageMap := rfl
@[simp] theorem restartPrescaler_offers : (restartPrescaler s).offers = s.offers := rfl
@[simp] theorem restartPrescaler_dir : (restartPrescaler s).dir = s.dir := rfl
@[simp] theorem restartPrescaler_counts : (restartPrescaler s).counts = s.counts := rfl
@[simp] theorem restartPrescaler_pendingTicks : (restartPrescaler s).pendingTicks = s.pendingTicks := rfl
@[simp] theorem restartPrescaler_walkList : (restartPrescaler s).walkList = s.walkList := rfl
@[simp] theorem restartPrescaler_walkPhase : (restartPrescaler s).walkPhase = s.walkPhase := rfl
@[simp] theorem restartPrescaler_walkPos : (restartPrescaler s).walkPos = s.walkPos := rfl
@[simp] theorem restartPrescaler_tcLast : (restartPrescaler s).tcLast = s.tcLast := rfl
@[simp] theorem restartPrescaler_tcGrant : (restartPrescaler s).tcGrant = s.tcGrant := rfl
@[simp] theorem restartPrescaler_underway : (restartPrescaler s).underway = s.underway := rfl
@[simp] theorem restartPrescaler_freeList : (restartPrescaler s).freeList = s.freeList := rfl
@[simp] theorem restartPrescaler_scrubQueue : (restartPrescaler s).scrubQueue = s.scrubQueue := rfl
@[simp] theorem restartPrescaler_mem : (restartPrescaler s).mem = s.mem := rfl
@[simp] theorem restartPrescaler_memLast : (restartPrescaler s).memLast = s.memLast := rfl
@[simp] theorem restartPrescaler_jobs : (restartPrescaler s).jobs = s.jobs := rfl
@[simp] theorem restartPrescaler_page : (restartPrescaler s).page = s.page := rfl
@[simp] theorem restartPrescaler_nextKind : (restartPrescaler s).nextKind = s.nextKind := rfl
@[simp] theorem restartPrescaler_lastCopy : (restartPrescaler s).lastCopy = s.lastCopy := rfl
@[simp] theorem restartPrescaler_reports : (restartPrescaler s).reports = s.reports := rfl
@[simp] theorem restartPrescaler_paused : (restartPrescaler s).paused = s.paused := rfl
@[simp] theorem restartPrescaler_maint : (restartPrescaler s).maint = s.maint := rfl
@[simp] theorem restartPrescaler_hold : (restartPrescaler s).hold = s.hold := rfl
@[simp] theorem restartPrescaler_cfg : (restartPrescaler s).cfg = s.cfg := rfl
@[simp] theorem restartPrescaler_sdo : (restartPrescaler s).sdo = s.sdo := rfl
@[simp] theorem restartPrescaler_rst : (restartPrescaler s).rst = s.rst := rfl
@[simp] theorem restartPrescaler_freeCount : (restartPrescaler s).freeCount = s.freeCount := rfl
@[simp] theorem restartPrescaler_pending : (restartPrescaler s).pending = s.pending := rfl
end

/-! ### setPrst -/

section
variable (s : State) (p : Port) (v : Bool)
@[simp] theorem setPrst_buffers : (setPrst p v s).buffers = s.buffers := rfl
@[simp] theorem setPrst_pageMap : (setPrst p v s).pageMap = s.pageMap := rfl
@[simp] theorem setPrst_offers : (setPrst p v s).offers = s.offers := rfl
@[simp] theorem setPrst_dir : (setPrst p v s).dir = s.dir := rfl
@[simp] theorem setPrst_counts : (setPrst p v s).counts = s.counts := rfl
@[simp] theorem setPrst_pendingTicks : (setPrst p v s).pendingTicks = s.pendingTicks := rfl
@[simp] theorem setPrst_walkList : (setPrst p v s).walkList = s.walkList := rfl
@[simp] theorem setPrst_walkPhase : (setPrst p v s).walkPhase = s.walkPhase := rfl
@[simp] theorem setPrst_walkPos : (setPrst p v s).walkPos = s.walkPos := rfl
@[simp] theorem setPrst_tcLast : (setPrst p v s).tcLast = s.tcLast := rfl
@[simp] theorem setPrst_tcGrant : (setPrst p v s).tcGrant = s.tcGrant := rfl
@[simp] theorem setPrst_underway : (setPrst p v s).underway = s.underway := rfl
@[simp] theorem setPrst_freeList : (setPrst p v s).freeList = s.freeList := rfl
@[simp] theorem setPrst_scrubQueue : (setPrst p v s).scrubQueue = s.scrubQueue := rfl
@[simp] theorem setPrst_mem : (setPrst p v s).mem = s.mem := rfl
@[simp] theorem setPrst_memLast : (setPrst p v s).memLast = s.memLast := rfl
@[simp] theorem setPrst_jobs : (setPrst p v s).jobs = s.jobs := rfl
@[simp] theorem setPrst_page : (setPrst p v s).page = s.page := rfl
@[simp] theorem setPrst_nextKind : (setPrst p v s).nextKind = s.nextKind := rfl
@[simp] theorem setPrst_lastCopy : (setPrst p v s).lastCopy = s.lastCopy := rfl
@[simp] theorem setPrst_reports : (setPrst p v s).reports = s.reports := rfl
@[simp] theorem setPrst_paused : (setPrst p v s).paused = s.paused := rfl
@[simp] theorem setPrst_prescaler : (setPrst p v s).prescaler = s.prescaler := rfl
@[simp] theorem setPrst_period : (setPrst p v s).period = s.period := rfl
@[simp] theorem setPrst_maint : (setPrst p v s).maint = s.maint := rfl
@[simp] theorem setPrst_hold : (setPrst p v s).hold = s.hold := rfl
@[simp] theorem setPrst_cfg : (setPrst p v s).cfg = s.cfg := rfl
@[simp] theorem setPrst_sdo : (setPrst p v s).sdo = s.sdo := rfl
@[simp] theorem setPrst_rst : (setPrst p v s).rst = s.rst := rfl
@[simp] theorem setPrst_freeCount : (setPrst p v s).freeCount = s.freeCount := rfl
@[simp] theorem setPrst_pending : (setPrst p v s).pending = s.pending := rfl
end

/-! ### shiftStatus -/

section
variable (s : State) (n : Nat)
@[simp] theorem shiftStatus_ports : (shiftStatus n s).ports = s.ports := rfl
@[simp] theorem shiftStatus_buffers : (shiftStatus n s).buffers = s.buffers := rfl
@[simp] theorem shiftStatus_pageMap : (shiftStatus n s).pageMap = s.pageMap := rfl
@[simp] theorem shiftStatus_offers : (shiftStatus n s).offers = s.offers := rfl
@[simp] theorem shiftStatus_dir : (shiftStatus n s).dir = s.dir := rfl
@[simp] theorem shiftStatus_counts : (shiftStatus n s).counts = s.counts := rfl
@[simp] theorem shiftStatus_pendingTicks : (shiftStatus n s).pendingTicks = s.pendingTicks := rfl
@[simp] theorem shiftStatus_walkList : (shiftStatus n s).walkList = s.walkList := rfl
@[simp] theorem shiftStatus_walkPhase : (shiftStatus n s).walkPhase = s.walkPhase := rfl
@[simp] theorem shiftStatus_walkPos : (shiftStatus n s).walkPos = s.walkPos := rfl
@[simp] theorem shiftStatus_tcLast : (shiftStatus n s).tcLast = s.tcLast := rfl
@[simp] theorem shiftStatus_tcGrant : (shiftStatus n s).tcGrant = s.tcGrant := rfl
@[simp] theorem shiftStatus_underway : (shiftStatus n s).underway = s.underway := rfl
@[simp] theorem shiftStatus_freeList : (shiftStatus n s).freeList = s.freeList := rfl
@[simp] theorem shiftStatus_scrubQueue : (shiftStatus n s).scrubQueue = s.scrubQueue := rfl
@[simp] theorem shiftStatus_mem : (shiftStatus n s).mem = s.mem := rfl
@[simp] theorem shiftStatus_memLast : (shiftStatus n s).memLast = s.memLast := rfl
@[simp] theorem shiftStatus_jobs : (shiftStatus n s).jobs = s.jobs := rfl
@[simp] theorem shiftStatus_page : (shiftStatus n s).page = s.page := rfl
@[simp] theorem shiftStatus_nextKind : (shiftStatus n s).nextKind = s.nextKind := rfl
@[simp] theorem shiftStatus_lastCopy : (shiftStatus n s).lastCopy = s.lastCopy := rfl
@[simp] theorem shiftStatus_reports : (shiftStatus n s).reports = s.reports := rfl
@[simp] theorem shiftStatus_paused : (shiftStatus n s).paused = s.paused := rfl
@[simp] theorem shiftStatus_prescaler : (shiftStatus n s).prescaler = s.prescaler := rfl
@[simp] theorem shiftStatus_period : (shiftStatus n s).period = s.period := rfl
@[simp] theorem shiftStatus_maint : (shiftStatus n s).maint = s.maint := rfl
@[simp] theorem shiftStatus_hold : (shiftStatus n s).hold = s.hold := rfl
@[simp] theorem shiftStatus_cfg : (shiftStatus n s).cfg = s.cfg := rfl
@[simp] theorem shiftStatus_rst : (shiftStatus n s).rst = s.rst := rfl
@[simp] theorem shiftStatus_freeCount : (shiftStatus n s).freeCount = s.freeCount := rfl
@[simp] theorem shiftStatus_pending : (shiftStatus n s).pending = s.pending := rfl
end

/-! ### dropCopy -/

section
variable (s : State) (p : Port)
@[simp] theorem dropCopy_ports : (dropCopy p s).ports = s.ports := rfl
@[simp] theorem dropCopy_buffers : (dropCopy p s).buffers = s.buffers := rfl
@[simp] theorem dropCopy_pageMap : (dropCopy p s).pageMap = s.pageMap := rfl
@[simp] theorem dropCopy_offers : (dropCopy p s).offers = s.offers := rfl
@[simp] theorem dropCopy_dir : (dropCopy p s).dir = s.dir := rfl
@[simp] theorem dropCopy_counts : (dropCopy p s).counts = s.counts := rfl
@[simp] theorem dropCopy_pendingTicks : (dropCopy p s).pendingTicks = s.pendingTicks := rfl
@[simp] theorem dropCopy_walkList : (dropCopy p s).walkList = s.walkList := rfl
@[simp] theorem dropCopy_walkPhase : (dropCopy p s).walkPhase = s.walkPhase := rfl
@[simp] theorem dropCopy_walkPos : (dropCopy p s).walkPos = s.walkPos := rfl
@[simp] theorem dropCopy_tcLast : (dropCopy p s).tcLast = s.tcLast := rfl
@[simp] theorem dropCopy_tcGrant : (dropCopy p s).tcGrant = s.tcGrant := rfl
@[simp] theorem dropCopy_underway : (dropCopy p s).underway = s.underway := rfl
@[simp] theorem dropCopy_freeList : (dropCopy p s).freeList = s.freeList := rfl
@[simp] theorem dropCopy_scrubQueue : (dropCopy p s).scrubQueue = s.scrubQueue := rfl
@[simp] theorem dropCopy_mem : (dropCopy p s).mem = s.mem := rfl
@[simp] theorem dropCopy_memLast : (dropCopy p s).memLast = s.memLast := rfl
@[simp] theorem dropCopy_page : (dropCopy p s).page = s.page := rfl
@[simp] theorem dropCopy_nextKind : (dropCopy p s).nextKind = s.nextKind := rfl
@[simp] theorem dropCopy_lastCopy : (dropCopy p s).lastCopy = s.lastCopy := rfl
@[simp] theorem dropCopy_paused : (dropCopy p s).paused = s.paused := rfl
@[simp] theorem dropCopy_prescaler : (dropCopy p s).prescaler = s.prescaler := rfl
@[simp] theorem dropCopy_period : (dropCopy p s).period = s.period := rfl
@[simp] theorem dropCopy_maint : (dropCopy p s).maint = s.maint := rfl
@[simp] theorem dropCopy_hold : (dropCopy p s).hold = s.hold := rfl
@[simp] theorem dropCopy_cfg : (dropCopy p s).cfg = s.cfg := rfl
@[simp] theorem dropCopy_sdo : (dropCopy p s).sdo = s.sdo := rfl
@[simp] theorem dropCopy_rst : (dropCopy p s).rst = s.rst := rfl
@[simp] theorem dropCopy_freeCount : (dropCopy p s).freeCount = s.freeCount := rfl
@[simp] theorem dropCopy_pending : (dropCopy p s).pending = s.pending := rfl
end

/-! ### clearCancel -/

section
variable (s : State) (p : Port)
@[simp] theorem clearCancel_buffers : (clearCancel p s).buffers = s.buffers := rfl
@[simp] theorem clearCancel_pageMap : (clearCancel p s).pageMap = s.pageMap := rfl
@[simp] theorem clearCancel_offers : (clearCancel p s).offers = s.offers := rfl
@[simp] theorem clearCancel_dir : (clearCancel p s).dir = s.dir := rfl
@[simp] theorem clearCancel_counts : (clearCancel p s).counts = s.counts := rfl
@[simp] theorem clearCancel_pendingTicks : (clearCancel p s).pendingTicks = s.pendingTicks := rfl
@[simp] theorem clearCancel_walkList : (clearCancel p s).walkList = s.walkList := rfl
@[simp] theorem clearCancel_walkPhase : (clearCancel p s).walkPhase = s.walkPhase := rfl
@[simp] theorem clearCancel_walkPos : (clearCancel p s).walkPos = s.walkPos := rfl
@[simp] theorem clearCancel_tcLast : (clearCancel p s).tcLast = s.tcLast := rfl
@[simp] theorem clearCancel_tcGrant : (clearCancel p s).tcGrant = s.tcGrant := rfl
@[simp] theorem clearCancel_underway : (clearCancel p s).underway = s.underway := rfl
@[simp] theorem clearCancel_freeList : (clearCancel p s).freeList = s.freeList := rfl
@[simp] theorem clearCancel_scrubQueue : (clearCancel p s).scrubQueue = s.scrubQueue := rfl
@[simp] theorem clearCancel_mem : (clearCancel p s).mem = s.mem := rfl
@[simp] theorem clearCancel_memLast : (clearCancel p s).memLast = s.memLast := rfl
@[simp] theorem clearCancel_jobs : (clearCancel p s).jobs = s.jobs := rfl
@[simp] theorem clearCancel_page : (clearCancel p s).page = s.page := rfl
@[simp] theorem clearCancel_nextKind : (clearCancel p s).nextKind = s.nextKind := rfl
@[simp] theorem clearCancel_lastCopy : (clearCancel p s).lastCopy = s.lastCopy := rfl
@[simp] theorem clearCancel_reports : (clearCancel p s).reports = s.reports := rfl
@[simp] theorem clearCancel_paused : (clearCancel p s).paused = s.paused := rfl
@[simp] theorem clearCancel_prescaler : (clearCancel p s).prescaler = s.prescaler := rfl
@[simp] theorem clearCancel_period : (clearCancel p s).period = s.period := rfl
@[simp] theorem clearCancel_maint : (clearCancel p s).maint = s.maint := rfl
@[simp] theorem clearCancel_hold : (clearCancel p s).hold = s.hold := rfl
@[simp] theorem clearCancel_cfg : (clearCancel p s).cfg = s.cfg := rfl
@[simp] theorem clearCancel_sdo : (clearCancel p s).sdo = s.sdo := rfl
@[simp] theorem clearCancel_rst : (clearCancel p s).rst = s.rst := rfl
@[simp] theorem clearCancel_freeCount : (clearCancel p s).freeCount = s.freeCount := rfl
@[simp] theorem clearCancel_pending : (clearCancel p s).pending = s.pending := rfl
end

end Sys2Proof.Machine
end

