-- ==== Sys2Proof/Laws/Table.lean ====
section
/-! SUPPORT. Reading after writing, for values kept per port and for sparse tables, and the
canonical form of a table. -/

namespace Sys2Proof.Machine

variable {α : Type}

/-! ### Values kept per port -/

@[simp] theorem perGet_perSet (v : PerPort α) (p q : Port) (x : α) :
    perGet (perSet v p x) q = if q = p then x else perGet v q := by
  cases p <;> cases q <;> simp [perGet, perSet]

theorem perGet_perSet_self (v : PerPort α) (p : Port) (x : α) : perGet (perSet v p x) p = x := by
  simp

theorem perGet_perSet_ne {p q : Port} (h : q ≠ p) (v : PerPort α) (x : α) :
    perGet (perSet v p x) q = perGet v q := by
  simp [h]

@[simp] theorem perGet_perAll (x : α) (p : Port) : perGet (perAll x) p = x := by
  cases p <;> rfl

@[simp] theorem perGet_perOf (f : Port → α) (p : Port) : perGet (perOf f) p = f p := by
  cases p <;> rfl

theorem per_ext {v w : PerPort α} (h : ∀ p, perGet v p = perGet w p) : v = w := by
  have ha := h .a
  have hb := h .b
  have hc := h .c
  have hd := h .d
  cases v
  cases w
  simp_all [perGet]

@[simp] theorem perSet_perSet (v : PerPort α) (p : Port) (x y : α) :
    perSet (perSet v p x) p y = perSet v p y := by
  cases p <;> rfl

@[simp] theorem perSet_perGet (v : PerPort α) (p : Port) : perSet v p (perGet v p) = v := by
  cases p <;> rfl

theorem mem_portsIn (m : PortSet) (p : Port) : p ∈ portsIn m ↔ perGet m p = true := by
  cases p <;> simp [portsIn, allPorts]

theorem isEmptySet_iff (m : PortSet) : isEmptySet m = true ↔ ∀ p, perGet m p = false := by
  constructor
  · intro h p
    cases p <;> simp_all [isEmptySet, perGet]
  · intro h
    have ha := h .a
    have hb := h .b
    have hc := h .c
    have hd := h .d
    simp_all [isEmptySet, perGet]

/-! ### Tables -/

theorem tabGet_tabInsert (d : α) (t : Table α) (n m : Nat) (v : α) :
    tabGet d (tabInsert t n v) m = if m = n then v else tabGet d t m := by
  induction t with
  | nil => simp [tabInsert, tabGet]
  | cons e t ih =>
    obtain ⟨k, w⟩ := e
    simp only [tabInsert]
    split
    · simp [tabGet]
    · split
      · next h => subst h; simp only [tabGet]; split <;> rfl
      · simp only [tabGet, ih]
        split
        · next h1 h2 h3 => subst h3; simp [Ne.symm h2]
        · rfl

theorem tabGet_tabErase (d : α) (t : Table α) (n m : Nat) :
    tabGet d (tabErase t n) m = if m = n then d else tabGet d t m := by
  induction t with
  | nil => simp [tabErase, tabGet]
  | cons e t ih =>
    obtain ⟨k, w⟩ := e
    simp only [tabErase]
    split
    · next h => subst h; rw [ih]; simp only [tabGet]; split <;> simp_all
    · next h =>
      simp only [tabGet, ih]
      split
      · next h3 => subst h3; simp [Ne.symm h]
      · rfl

/-- A table read after it is set: the value at the key set, the entry before at every other. -/
@[simp] theorem tabGet_tabSet [DecidableEq α] (d : α) (t : Table α) (n m : Nat) (v : α) :
    tabGet d (tabSet d t n v) m = if m = n then v else tabGet d t m := by
  unfold tabSet
  split
  · next h => subst h; exact tabGet_tabErase _ _ _ _
  · exact tabGet_tabInsert _ _ _ _ _

theorem mem_tabErase {t : Table α} {n : Nat} {e : Nat × α} (h : e ∈ tabErase t n) : e ∈ t := by
  induction t with
  | nil => exact h
  | cons f t ih =>
    obtain ⟨k, w⟩ := f
    simp only [tabErase] at h
    split at h
    · exact List.mem_cons_of_mem _ (ih h)
    · rcases List.mem_cons.1 h with h | h
      · exact h ▸ List.mem_cons_self
      · exact List.mem_cons_of_mem _ (ih h)

theorem pairwise_tabErase {t : Table α} {n : Nat} (h : t.Pairwise (fun x y => x.1 < y.1)) :
    (tabErase t n).Pairwise (fun x y => x.1 < y.1) := by
  induction t with
  | nil => exact h
  | cons f t ih =>
    obtain ⟨k, w⟩ := f
    obtain ⟨h1, h2⟩ := List.pairwise_cons.1 h
    simp only [tabErase]
    split
    · exact ih h2
    · exact List.pairwise_cons.2 ⟨fun e he => h1 e (mem_tabErase he), ih h2⟩

theorem mem_tabInsert {t : Table α} {n : Nat} {v : α} {e : Nat × α} (h : e ∈ tabInsert t n v) :
    e = (n, v) ∨ e ∈ t := by
  induction t with
  | nil => simpa [tabInsert] using h
  | cons f t ih =>
    obtain ⟨k, w⟩ := f
    simp only [tabInsert] at h
    split at h
    · simpa using h
    · split at h
      · rcases List.mem_cons.1 h with h | h
        · exact .inl h
        · exact .inr (List.mem_cons_of_mem _ h)
      · rcases List.mem_cons.1 h with h | h
        · exact .inr (h ▸ List.mem_cons_self)
        · exact (ih h).imp id (List.mem_cons_of_mem _)

theorem pairwise_tabInsert {t : Table α} {n : Nat} {v : α}
    (h : t.Pairwise (fun x y => x.1 < y.1)) :
    (tabInsert t n v).Pairwise (fun x y => x.1 < y.1) := by
  induction t with
  | nil => simp [tabInsert]
  | cons f t ih =>
    obtain ⟨k, w⟩ := f
    obtain ⟨h1, h2⟩ := List.pairwise_cons.1 h
    simp only [tabInsert]
    split
    · next hk =>
      refine List.pairwise_cons.2 ⟨fun e he => ?_, h⟩
      rcases List.mem_cons.1 he with he | he
      · subst he; exact hk
      · exact lt_trans hk (h1 e he)
    · split
      · next hk => subst hk; exact List.pairwise_cons.2 ⟨h1, h2⟩
      · next hk hne =>
        refine List.pairwise_cons.2 ⟨fun e he => ?_, ih h2⟩
        rcases mem_tabInsert he with he | he
        · subst he; simp only; omega
        · exact h1 e he

/-- Setting an entry below the size keeps a table's canonical form. -/
theorem tabWf_tabSet [DecidableEq α] {d : α} {size : Nat} {t : Table α} {n : Nat} (v : α)
    (h : tabWf d size t = true) (hn : n < size) : tabWf d size (tabSet d t n v) = true := by
  simp only [tabWf, Bool.and_eq_true, decide_eq_true_eq, List.all_eq_true, bne_iff_ne] at h ⊢
  obtain ⟨hp, hm⟩ := h
  unfold tabSet
  split
  · exact ⟨pairwise_tabErase hp, fun e he => hm e (mem_tabErase he)⟩
  · next hv =>
    refine ⟨pairwise_tabInsert hp, fun e he => ?_⟩
    rcases mem_tabInsert he with he | he
    · subst he; exact ⟨hn, hv⟩
    · exact hm e he

/-- A listed entry of a canonical table is what the table reads at its key. -/
theorem tabGet_of_mem [DecidableEq α] {d : α} {size : Nat} {t : Table α} {n : Nat} {v : α}
    (h : tabWf d size t = true) (he : (n, v) ∈ t) : tabGet d t n = v := by
  simp only [tabWf, Bool.and_eq_true, decide_eq_true_eq] at h
  have hp := h.1
  clear h
  induction t with
  | nil => cases he
  | cons f t ih =>
    obtain ⟨k, w⟩ := f
    obtain ⟨h1, h2⟩ := List.pairwise_cons.1 hp
    rcases List.mem_cons.1 he with he | he
    · cases he; simp [tabGet]
    · have := h1 _ he
      simp only at this
      simp only [tabGet]
      rw [if_neg (by omega)]
      exact ih he h2

/-- An entry that is not the default is listed. -/
theorem mem_of_tabGet {d : α} {t : Table α} {n : Nat} (h : tabGet d t n ≠ d) :
    (n, tabGet d t n) ∈ t := by
  induction t with
  | nil => exact absurd rfl h
  | cons f t ih =>
    obtain ⟨k, w⟩ := f
    simp only [tabGet] at h ⊢
    split
    · next hk => subst hk; exact List.mem_cons_self
    · next hk => rw [if_neg hk] at h; exact List.mem_cons_of_mem _ (ih h)

end Sys2Proof.Machine
end

