-- ==== Sys2Proof/Laws/Access.lean ====
section
/-! SUPPORT. What each accessor reads after each update of the state: at the place written by the
read-after-write of tables and per-port values, and unchanged by an update of other fields. -/

namespace Sys2Proof.Machine

/-! ### At the place written -/

section
variable (s : State)

@[simp] theorem portAt_updPort (p q : Port) (f : HostPort → HostPort) :
    portAt (updPort p f s) q = if q = p then f (portAt s p) else portAt s q :=
  perGet_perSet _ _ _ _

@[simp] theorem portAt_updPorts (q : Port) (f : Port → HostPort → HostPort) :
    portAt (updPorts f s) q = f q (portAt s q) :=
  perGet_perOf _ _

@[simp] theorem portAt_notify (p q : Port) (n : Notice) :
    portAt (notify p n s) q = if q = p then takeAppend n (portAt s p) else portAt s q :=
  perGet_perSet _ _ _ _

@[simp] theorem portAt_voidAt (p q : Port) (h : Handle) :
    portAt (voidAt p h s) q = if q = p then onSlots (voidSlot h) (portAt s p) else portAt s q :=
  perGet_perSet _ _ _ _

@[simp] theorem portAt_complete (p q : Port) (r : Result) (a : List Byte) :
    portAt (complete p r a s) q = if q = p then takeCompletion r a (portAt s p) else portAt s q :=
  perGet_perSet _ _ _ _

@[simp] theorem portAt_setPrst (p q : Port) (v : Bool) :
    portAt (setPrst p v s) q = if q = p then { portAt s p with prst := v } else portAt s q :=
  perGet_perSet _ _ _ _

@[simp] theorem portAt_clearCancel (p q : Port) :
    portAt (clearCancel p s) q = if q = p then
      { portAt s p with cmd := { (portAt s p).cmd with cancelRequested := false } }
    else portAt s q :=
  perGet_perSet _ _ _ _

theorem fin_val_ne {n : Nat} {a b : Fin n} (h : a ≠ b) : a.val ≠ b.val :=
  fun e => h (Fin.ext e)

@[simp] theorem recAt_setRec (b c : BufNo) (r : BufRec) :
    recAt (setRec b r s) c = if c = b then r else recAt s c := by
  simp only [recAt, setRec, tabGet_tabSet, Fin.val_inj]

@[simp] theorem liveAt_setRec (b c : BufNo) (r : BufRec) :
    liveAt (setRec b r s) c = if c = b then r.live else liveAt s c := by
  simp only [liveAt, recAt_setRec]
  split <;> rfl

@[simp] theorem genAt_setRec (b c : BufNo) (r : BufRec) :
    genAt (setRec b r s) c = if c = b then r.gen else genAt s c := by
  simp only [genAt, recAt_setRec]
  split <;> rfl

@[simp] theorem recAt_setLive (b c : BufNo) (l : Live) :
    recAt (setLive b l s) c = if c = b then ⟨genAt s b, some l⟩ else recAt s c :=
  recAt_setRec _ _ _ _

@[simp] theorem liveAt_setLive (b c : BufNo) (l : Live) :
    liveAt (setLive b l s) c = if c = b then some l else liveAt s c :=
  liveAt_setRec _ _ _ _

/-- Replacing a live record's fields leaves every generation. -/
@[simp] theorem genAt_setLive (b c : BufNo) (l : Live) : genAt (setLive b l s) c = genAt s c := by
  simp only [setLive, genAt_setRec]
  split <;> simp_all

@[simp] theorem offerAt_setOffer (i j : OfferId) (o : Option Offer) :
    offerAt (setOffer i o s) j = if j = i then o else offerAt s j := by
  simp only [offerAt, setOffer, tabGet_tabSet, Fin.val_inj]

@[simp] theorem jobAt_setJob (p q : Port) (j : Option Job) :
    jobAt (setJob p j s) q = if q = p then j else jobAt s q :=
  perGet_perSet _ _ _ _

@[simp] theorem countsAt_raiseCounts (p q : Port) (m n : Nat) :
    countsAt (raiseCounts p m n s) q =
      if q = p then ⟨(countsAt s p).buffers + m, (countsAt s p).pages + n⟩ else countsAt s q :=
  perGet_perSet _ _ _ _

@[simp] theorem countsAt_lowerCounts (p q : Port) (m n : Nat) :
    countsAt (lowerCounts p m n s) q =
      if q = p then ⟨(countsAt s p).buffers - m, (countsAt s p).pages - n⟩ else countsAt s q :=
  perGet_perSet _ _ _ _

end

/-! ### updPort -/

section
variable (s : State) (p : Port) (f : HostPort → HostPort)
@[simp] theorem recAt_updPort (c₁ : BufNo) : recAt (updPort p f s) c₁ = recAt s c₁ := rfl
@[simp] theorem liveAt_updPort (c₁ : BufNo) : liveAt (updPort p f s) c₁ = liveAt s c₁ := rfl
@[simp] theorem genAt_updPort (c₁ : BufNo) : genAt (updPort p f s) c₁ = genAt s c₁ := rfl
@[simp] theorem entryAt_updPort (g₁ : PageNo) : entryAt (updPort p f s) g₁ = entryAt s g₁ := rfl
@[simp] theorem offerAt_updPort (i₁ : OfferId) : offerAt (updPort p f s) i₁ = offerAt s i₁ := rfl
@[simp] theorem countsAt_updPort (q₁ : Port) : countsAt (updPort p f s) q₁ = countsAt s q₁ := rfl
@[simp] theorem jobAt_updPort (q₁ : Port) : jobAt (updPort p f s) q₁ = jobAt s q₁ := rfl
end

/-! ### updPorts -/

section
variable (s : State) (f : Port → HostPort → HostPort)
@[simp] theorem recAt_updPorts (c₁ : BufNo) : recAt (updPorts f s) c₁ = recAt s c₁ := rfl
@[simp] theorem liveAt_updPorts (c₁ : BufNo) : liveAt (updPorts f s) c₁ = liveAt s c₁ := rfl
@[simp] theorem genAt_updPorts (c₁ : BufNo) : genAt (updPorts f s) c₁ = genAt s c₁ := rfl
@[simp] theorem entryAt_updPorts (g₁ : PageNo) : entryAt (updPorts f s) g₁ = entryAt s g₁ := rfl
@[simp] theorem offerAt_updPorts (i₁ : OfferId) : offerAt (updPorts f s) i₁ = offerAt s i₁ := rfl
@[simp] theorem countsAt_updPorts (q₁ : Port) : countsAt (updPorts f s) q₁ = countsAt s q₁ := rfl
@[simp] theorem jobAt_updPorts (q₁ : Port) : jobAt (updPorts f s) q₁ = jobAt s q₁ := rfl
end

/-! ### setRec -/

section
variable (s : State) (b : BufNo) (r : BufRec)
@[simp] theorem portAt_setRec (q₁ : Port) : portAt (setRec b r s) q₁ = portAt s q₁ := rfl
@[simp] theorem attached_setRec (q₁ : Port) : attached (setRec b r s) q₁ = attached s q₁ := rfl
@[simp] theorem entryAt_setRec (g₁ : PageNo) : entryAt (setRec b r s) g₁ = entryAt s g₁ := rfl
@[simp] theorem offerAt_setRec (i₁ : OfferId) : offerAt (setRec b r s) i₁ = offerAt s i₁ := rfl
@[simp] theorem countsAt_setRec (q₁ : Port) : countsAt (setRec b r s) q₁ = countsAt s q₁ := rfl
@[simp] theorem jobAt_setRec (q₁ : Port) : jobAt (setRec b r s) q₁ = jobAt s q₁ := rfl
end

/-! ### setLive -/

section
variable (s : State) (b : BufNo) (l : Live)
@[simp] theorem portAt_setLive (q₁ : Port) : portAt (setLive b l s) q₁ = portAt s q₁ := rfl
@[simp] theorem attached_setLive (q₁ : Port) : attached (setLive b l s) q₁ = attached s q₁ := rfl
@[simp] theorem entryAt_setLive (g₁ : PageNo) : entryAt (setLive b l s) g₁ = entryAt s g₁ := rfl
@[simp] theorem offerAt_setLive (i₁ : OfferId) : offerAt (setLive b l s) i₁ = offerAt s i₁ := rfl
@[simp] theorem countsAt_setLive (q₁ : Port) : countsAt (setLive b l s) q₁ = countsAt s q₁ := rfl
@[simp] theorem jobAt_setLive (q₁ : Port) : jobAt (setLive b l s) q₁ = jobAt s q₁ := rfl
end

/-! ### setOffer -/

section
variable (s : State) (id : OfferId) (o : Option Offer)
@[simp] theorem portAt_setOffer (q₁ : Port) : portAt (setOffer id o s) q₁ = portAt s q₁ := rfl
@[simp] theorem attached_setOffer (q₁ : Port) : attached (setOffer id o s) q₁ = attached s q₁ := rfl
@[simp] theorem recAt_setOffer (c₁ : BufNo) : recAt (setOffer id o s) c₁ = recAt s c₁ := rfl
@[simp] theorem liveAt_setOffer (c₁ : BufNo) : liveAt (setOffer id o s) c₁ = liveAt s c₁ := rfl
@[simp] theorem genAt_setOffer (c₁ : BufNo) : genAt (setOffer id o s) c₁ = genAt s c₁ := rfl
@[simp] theorem entryAt_setOffer (g₁ : PageNo) : entryAt (setOffer id o s) g₁ = entryAt s g₁ := rfl
@[simp] theorem countsAt_setOffer (q₁ : Port) : countsAt (setOffer id o s) q₁ = countsAt s q₁ := rfl
@[simp] theorem jobAt_setOffer (q₁ : Port) : jobAt (setOffer id o s) q₁ = jobAt s q₁ := rfl
end

/-! ### raiseCounts -/

section
variable (s : State) (p : Port) (m n : Nat)
@[simp] theorem portAt_raiseCounts (q₁ : Port) : portAt (raiseCounts p m n s) q₁ = portAt s q₁ := rfl
@[simp] theorem attached_raiseCounts (q₁ : Port) : attached (raiseCounts p m n s) q₁ = attached s q₁ := rfl
@[simp] theorem recAt_raiseCounts (c₁ : BufNo) : recAt (raiseCounts p m n s) c₁ = recAt s c₁ := rfl
@[simp] theorem liveAt_raiseCounts (c₁ : BufNo) : liveAt (raiseCounts p m n s) c₁ = liveAt s c₁ := rfl
@[simp] theorem genAt_raiseCounts (c₁ : BufNo) : genAt (raiseCounts p m n s) c₁ = genAt s c₁ := rfl
@[simp] theorem entryAt_raiseCounts (g₁ : PageNo) : entryAt (raiseCounts p m n s) g₁ = entryAt s g₁ := rfl
@[simp] theorem offerAt_raiseCounts (i₁ : OfferId) : offerAt (raiseCounts p m n s) i₁ = offerAt s i₁ := rfl
@[simp] theorem jobAt_raiseCounts (q₁ : Port) : jobAt (raiseCounts p m n s) q₁ = jobAt s q₁ := rfl
end

/-! ### lowerCounts -/

section
variable (s : State) (p : Port) (m n : Nat)
@[simp] theorem portAt_lowerCounts (q₁ : Port) : portAt (lowerCounts p m n s) q₁ = portAt s q₁ := rfl
@[simp] theorem attached_lowerCounts (q₁ : Port) : attached (lowerCounts p m n s) q₁ = attached s q₁ := rfl
@[simp] theorem recAt_lowerCounts (c₁ : BufNo) : recAt (lowerCounts p m n s) c₁ = recAt s c₁ := rfl
@[simp] theorem liveAt_lowerCounts (c₁ : BufNo) : liveAt (lowerCounts p m n s) c₁ = liveAt s c₁ := rfl
@[simp] theorem genAt_lowerCounts (c₁ : BufNo) : genAt (lowerCounts p m n s) c₁ = genAt s c₁ := rfl
@[simp] theorem entryAt_lowerCounts (g₁ : PageNo) : entryAt (lowerCounts p m n s) g₁ = entryAt s g₁ := rfl
@[simp] theorem offerAt_lowerCounts (i₁ : OfferId) : offerAt (lowerCounts p m n s) i₁ = offerAt s i₁ := rfl
@[simp] theorem jobAt_lowerCounts (q₁ : Port) : jobAt (lowerCounts p m n s) q₁ = jobAt s q₁ := rfl
end

/-! ### setJob -/

section
variable (s : State) (p : Port) (j : Option Job)
@[simp] theorem portAt_setJob (q₁ : Port) : portAt (setJob p j s) q₁ = portAt s q₁ := rfl
@[simp] theorem attached_setJob (q₁ : Port) : attached (setJob p j s) q₁ = attached s q₁ := rfl
@[simp] theorem recAt_setJob (c₁ : BufNo) : recAt (setJob p j s) c₁ = recAt s c₁ := rfl
@[simp] theorem liveAt_setJob (c₁ : BufNo) : liveAt (setJob p j s) c₁ = liveAt s c₁ := rfl
@[simp] theorem genAt_setJob (c₁ : BufNo) : genAt (setJob p j s) c₁ = genAt s c₁ := rfl
@[simp] theorem entryAt_setJob (g₁ : PageNo) : entryAt (setJob p j s) g₁ = entryAt s g₁ := rfl
@[simp] theorem offerAt_setJob (i₁ : OfferId) : offerAt (setJob p j s) i₁ = offerAt s i₁ := rfl
@[simp] theorem countsAt_setJob (q₁ : Port) : countsAt (setJob p j s) q₁ = countsAt s q₁ := rfl
end

/-! ### notify -/

section
variable (s : State) (p : Port) (n : Notice)
@[simp] theorem recAt_notify (c₁ : BufNo) : recAt (notify p n s) c₁ = recAt s c₁ := rfl
@[simp] theorem liveAt_notify (c₁ : BufNo) : liveAt (notify p n s) c₁ = liveAt s c₁ := rfl
@[simp] theorem genAt_notify (c₁ : BufNo) : genAt (notify p n s) c₁ = genAt s c₁ := rfl
@[simp] theorem entryAt_notify (g₁ : PageNo) : entryAt (notify p n s) g₁ = entryAt s g₁ := rfl
@[simp] theorem offerAt_notify (i₁ : OfferId) : offerAt (notify p n s) i₁ = offerAt s i₁ := rfl
@[simp] theorem countsAt_notify (q₁ : Port) : countsAt (notify p n s) q₁ = countsAt s q₁ := rfl
@[simp] theorem jobAt_notify (q₁ : Port) : jobAt (notify p n s) q₁ = jobAt s q₁ := rfl
end

/-! ### voidAt -/

section
variable (s : State) (p : Port) (h : Handle)
@[simp] theorem recAt_voidAt (c₁ : BufNo) : recAt (voidAt p h s) c₁ = recAt s c₁ := rfl
@[simp] theorem liveAt_voidAt (c₁ : BufNo) : liveAt (voidAt p h s) c₁ = liveAt s c₁ := rfl
@[simp] theorem genAt_voidAt (c₁ : BufNo) : genAt (voidAt p h s) c₁ = genAt s c₁ := rfl
@[simp] theorem entryAt_voidAt (g₁ : PageNo) : entryAt (voidAt p h s) g₁ = entryAt s g₁ := rfl
@[simp] theorem offerAt_voidAt (i₁ : OfferId) : offerAt (voidAt p h s) i₁ = offerAt s i₁ := rfl
@[simp] theorem countsAt_voidAt (q₁ : Port) : countsAt (voidAt p h s) q₁ = countsAt s q₁ := rfl
@[simp] theorem jobAt_voidAt (q₁ : Port) : jobAt (voidAt p h s) q₁ = jobAt s q₁ := rfl
end

/-! ### complete -/

section
variable (s : State) (p : Port) (r : Result) (a : List Byte)
@[simp] theorem recAt_complete (c₁ : BufNo) : recAt (complete p r a s) c₁ = recAt s c₁ := rfl
@[simp] theorem liveAt_complete (c₁ : BufNo) : liveAt (complete p r a s) c₁ = liveAt s c₁ := rfl
@[simp] theorem genAt_complete (c₁ : BufNo) : genAt (complete p r a s) c₁ = genAt s c₁ := rfl
@[simp] theorem entryAt_complete (g₁ : PageNo) : entryAt (complete p r a s) g₁ = entryAt s g₁ := rfl
@[simp] theorem offerAt_complete (i₁ : OfferId) : offerAt (complete p r a s) i₁ = offerAt s i₁ := rfl
@[simp] theorem countsAt_complete (q₁ : Port) : countsAt (complete p r a s) q₁ = countsAt s q₁ := rfl
@[simp] theorem jobAt_complete (q₁ : Port) : jobAt (complete p r a s) q₁ = jobAt s q₁ := rfl
end

/-! ### answer -/

section
variable (s : State) (p : Port) (acc : Access) (v : Byte)
@[simp] theorem recAt_answer (c₁ : BufNo) : recAt (answer p acc v s) c₁ = recAt s c₁ := rfl
@[simp] theorem liveAt_answer (c₁ : BufNo) : liveAt (answer p acc v s) c₁ = liveAt s c₁ := rfl
@[simp] theorem genAt_answer (c₁ : BufNo) : genAt (answer p acc v s) c₁ = genAt s c₁ := rfl
@[simp] theorem entryAt_answer (g₁ : PageNo) : entryAt (answer p acc v s) g₁ = entryAt s g₁ := rfl
@[simp] theorem offerAt_answer (i₁ : OfferId) : offerAt (answer p acc v s) i₁ = offerAt s i₁ := rfl
@[simp] theorem countsAt_answer (q₁ : Port) : countsAt (answer p acc v s) q₁ = countsAt s q₁ := rfl
@[simp] theorem jobAt_answer (q₁ : Port) : jobAt (answer p acc v s) q₁ = jobAt s q₁ := rfl
end

/-! ### unpublishAll -/

section
variable (s : State) (b : BufNo)
@[simp] theorem portAt_unpublishAll (q₁ : Port) : portAt (unpublishAll b s) q₁ = portAt s q₁ := rfl
@[simp] theorem attached_unpublishAll (q₁ : Port) : attached (unpublishAll b s) q₁ = attached s q₁ := rfl
@[simp] theorem recAt_unpublishAll (c₁ : BufNo) : recAt (unpublishAll b s) c₁ = recAt s c₁ := rfl
@[simp] theorem liveAt_unpublishAll (c₁ : BufNo) : liveAt (unpublishAll b s) c₁ = liveAt s c₁ := rfl
@[simp] theorem genAt_unpublishAll (c₁ : BufNo) : genAt (unpublishAll b s) c₁ = genAt s c₁ := rfl
@[simp] theorem entryAt_unpublishAll (g₁ : PageNo) : entryAt (unpublishAll b s) g₁ = entryAt s g₁ := rfl
@[simp] theorem offerAt_unpublishAll (i₁ : OfferId) : offerAt (unpublishAll b s) i₁ = offerAt s i₁ := rfl
@[simp] theorem countsAt_unpublishAll (q₁ : Port) : countsAt (unpublishAll b s) q₁ = countsAt s q₁ := rfl
@[simp] theorem jobAt_unpublishAll (q₁ : Port) : jobAt (unpublishAll b s) q₁ = jobAt s q₁ := rfl
end

/-! ### scrubPages -/

section
variable (s : State) (l : List PageNo)
@[simp] theorem portAt_scrubPages (q₁ : Port) : portAt (scrubPages l s) q₁ = portAt s q₁ := rfl
@[simp] theorem attached_scrubPages (q₁ : Port) : attached (scrubPages l s) q₁ = attached s q₁ := rfl
@[simp] theorem recAt_scrubPages (c₁ : BufNo) : recAt (scrubPages l s) c₁ = recAt s c₁ := rfl
@[simp] theorem liveAt_scrubPages (c₁ : BufNo) : liveAt (scrubPages l s) c₁ = liveAt s c₁ := rfl
@[simp] theorem genAt_scrubPages (c₁ : BufNo) : genAt (scrubPages l s) c₁ = genAt s c₁ := rfl
@[simp] theorem offerAt_scrubPages (i₁ : OfferId) : offerAt (scrubPages l s) i₁ = offerAt s i₁ := rfl
@[simp] theorem countsAt_scrubPages (q₁ : Port) : countsAt (scrubPages l s) q₁ = countsAt s q₁ := rfl
@[simp] theorem jobAt_scrubPages (q₁ : Port) : jobAt (scrubPages l s) q₁ = jobAt s q₁ := rfl
end

/-! ### endJob -/

section
variable (s : State) (p : Port) (j : Job) (c : EndCause)
@[simp] theorem portAt_endJob (q₁ : Port) : portAt (endJob p j c s) q₁ = portAt s q₁ := rfl
@[simp] theorem attached_endJob (q₁ : Port) : attached (endJob p j c s) q₁ = attached s q₁ := rfl
@[simp] theorem recAt_endJob (c₁ : BufNo) : recAt (endJob p j c s) c₁ = recAt s c₁ := rfl
@[simp] theorem liveAt_endJob (c₁ : BufNo) : liveAt (endJob p j c s) c₁ = liveAt s c₁ := rfl
@[simp] theorem genAt_endJob (c₁ : BufNo) : genAt (endJob p j c s) c₁ = genAt s c₁ := rfl
@[simp] theorem entryAt_endJob (g₁ : PageNo) : entryAt (endJob p j c s) g₁ = entryAt s g₁ := rfl
@[simp] theorem offerAt_endJob (i₁ : OfferId) : offerAt (endJob p j c s) i₁ = offerAt s i₁ := rfl
@[simp] theorem countsAt_endJob (q₁ : Port) : countsAt (endJob p j c s) q₁ = countsAt s q₁ := rfl
end

/-! ### returnToOwner -/

section
variable (s : State) (b : BufNo) (l : Live) (q : Port)
@[simp] theorem entryAt_returnToOwner (g₁ : PageNo) : entryAt (returnToOwner b l q s) g₁ = entryAt s g₁ := rfl
@[simp] theorem offerAt_returnToOwner (i₁ : OfferId) : offerAt (returnToOwner b l q s) i₁ = offerAt s i₁ := rfl
@[simp] theorem countsAt_returnToOwner (q₁ : Port) : countsAt (returnToOwner b l q s) q₁ = countsAt s q₁ := rfl
@[simp] theorem jobAt_returnToOwner (q₁ : Port) : jobAt (returnToOwner b l q s) q₁ = jobAt s q₁ := rfl
end

/-! ### leaveShare -/

section
variable (s : State) (b : BufNo) (l : Live) (q : Port)
@[simp] theorem entryAt_leaveShare (g₁ : PageNo) : entryAt (leaveShare b l q s) g₁ = entryAt s g₁ := rfl
@[simp] theorem offerAt_leaveShare (i₁ : OfferId) : offerAt (leaveShare b l q s) i₁ = offerAt s i₁ := rfl
@[simp] theorem countsAt_leaveShare (q₁ : Port) : countsAt (leaveShare b l q s) q₁ = countsAt s q₁ := rfl
@[simp] theorem jobAt_leaveShare (q₁ : Port) : jobAt (leaveShare b l q s) q₁ = jobAt s q₁ := rfl
end

/-! ### revokeAll -/

section
variable (s : State) (l : Live) (h : Handle) (c : Cause) (q : Option Port)
@[simp] theorem recAt_revokeAll (c₁ : BufNo) : recAt (revokeAll l h c q s) c₁ = recAt s c₁ := rfl
@[simp] theorem liveAt_revokeAll (c₁ : BufNo) : liveAt (revokeAll l h c q s) c₁ = liveAt s c₁ := rfl
@[simp] theorem genAt_revokeAll (c₁ : BufNo) : genAt (revokeAll l h c q s) c₁ = genAt s c₁ := rfl
@[simp] theorem entryAt_revokeAll (g₁ : PageNo) : entryAt (revokeAll l h c q s) g₁ = entryAt s g₁ := rfl
@[simp] theorem offerAt_revokeAll (i₁ : OfferId) : offerAt (revokeAll l h c q s) i₁ = offerAt s i₁ := rfl
@[simp] theorem countsAt_revokeAll (q₁ : Port) : countsAt (revokeAll l h c q s) q₁ = countsAt s q₁ := rfl
@[simp] theorem jobAt_revokeAll (q₁ : Port) : jobAt (revokeAll l h c q s) q₁ = jobAt s q₁ := rfl
end

/-! ### retire -/

section
variable (s : State) (b : BufNo) (l : Live) (c : Cause) (q : Option Port)
@[simp] theorem offerAt_retire (i₁ : OfferId) : offerAt (retire b l c q s) i₁ = offerAt s i₁ := rfl
@[simp] theorem jobAt_retire (q₁ : Port) : jobAt (retire b l c q s) q₁ = jobAt s q₁ := rfl
end

/-! ### takeAndChain -/

section
variable (s : State) (b : BufNo) (t : Option PageNo) (n : Nat)
@[simp] theorem portAt_takeAndChain (q₁ : Port) : portAt (takeAndChain b t n s) q₁ = portAt s q₁ := rfl
@[simp] theorem attached_takeAndChain (q₁ : Port) : attached (takeAndChain b t n s) q₁ = attached s q₁ := rfl
@[simp] theorem recAt_takeAndChain (c₁ : BufNo) : recAt (takeAndChain b t n s) c₁ = recAt s c₁ := rfl
@[simp] theorem liveAt_takeAndChain (c₁ : BufNo) : liveAt (takeAndChain b t n s) c₁ = liveAt s c₁ := rfl
@[simp] theorem genAt_takeAndChain (c₁ : BufNo) : genAt (takeAndChain b t n s) c₁ = genAt s c₁ := rfl
@[simp] theorem offerAt_takeAndChain (i₁ : OfferId) : offerAt (takeAndChain b t n s) i₁ = offerAt s i₁ := rfl
@[simp] theorem countsAt_takeAndChain (q₁ : Port) : countsAt (takeAndChain b t n s) q₁ = countsAt s q₁ := rfl
@[simp] theorem jobAt_takeAndChain (q₁ : Port) : jobAt (takeAndChain b t n s) q₁ = jobAt s q₁ := rfl
end

/-! ### cutChain -/

section
variable (s : State) (b : BufNo) (t : PageNo)
@[simp] theorem portAt_cutChain (q₁ : Port) : portAt (cutChain b t s) q₁ = portAt s q₁ := rfl
@[simp] theorem attached_cutChain (q₁ : Port) : attached (cutChain b t s) q₁ = attached s q₁ := rfl
@[simp] theorem recAt_cutChain (c₁ : BufNo) : recAt (cutChain b t s) c₁ = recAt s c₁ := rfl
@[simp] theorem liveAt_cutChain (c₁ : BufNo) : liveAt (cutChain b t s) c₁ = liveAt s c₁ := rfl
@[simp] theorem genAt_cutChain (c₁ : BufNo) : genAt (cutChain b t s) c₁ = genAt s c₁ := rfl
@[simp] theorem offerAt_cutChain (i₁ : OfferId) : offerAt (cutChain b t s) i₁ = offerAt s i₁ := rfl
@[simp] theorem countsAt_cutChain (q₁ : Port) : countsAt (cutChain b t s) q₁ = countsAt s q₁ := rfl
@[simp] theorem jobAt_cutChain (q₁ : Port) : jobAt (cutChain b t s) q₁ = jobAt s q₁ := rfl
end

/-! ### restartPrescaler -/

section
variable (s : State) 
@[simp] theorem portAt_restartPrescaler (q₁ : Port) : portAt (restartPrescaler s) q₁ = portAt s q₁ := rfl
@[simp] theorem attached_restartPrescaler (q₁ : Port) : attached (restartPrescaler s) q₁ = attached s q₁ := rfl
@[simp] theorem recAt_restartPrescaler (c₁ : BufNo) : recAt (restartPrescaler s) c₁ = recAt s c₁ := rfl
@[simp] theorem liveAt_restartPrescaler (c₁ : BufNo) : liveAt (restartPrescaler s) c₁ = liveAt s c₁ := rfl
@[simp] theorem genAt_restartPrescaler (c₁ : BufNo) : genAt (restartPrescaler s) c₁ = genAt s c₁ := rfl
@[simp] theorem entryAt_restartPrescaler (g₁ : PageNo) : entryAt (restartPrescaler s) g₁ = entryAt s g₁ := rfl
@[simp] theorem offerAt_restartPrescaler (i₁ : OfferId) : offerAt (restartPrescaler s) i₁ = offerAt s i₁ := rfl
@[simp] theorem countsAt_restartPrescaler (q₁ : Port) : countsAt (restartPrescaler s) q₁ = countsAt s q₁ := rfl
@[simp] theorem jobAt_restartPrescaler (q₁ : Port) : jobAt (restartPrescaler s) q₁ = jobAt s q₁ := rfl
end

/-! ### setPrst -/

section
variable (s : State) (p : Port) (v : Bool)
@[simp] theorem recAt_setPrst (c₁ : BufNo) : recAt (setPrst p v s) c₁ = recAt s c₁ := rfl
@[simp] theorem liveAt_setPrst (c₁ : BufNo) : liveAt (setPrst p v s) c₁ = liveAt s c₁ := rfl
@[simp] theorem genAt_setPrst (c₁ : BufNo) : genAt (setPrst p v s) c₁ = genAt s c₁ := rfl
@[simp] theorem entryAt_setPrst (g₁ : PageNo) : entryAt (setPrst p v s) g₁ = entryAt s g₁ := rfl
@[simp] theorem offerAt_setPrst (i₁ : OfferId) : offerAt (setPrst p v s) i₁ = offerAt s i₁ := rfl
@[simp] theorem countsAt_setPrst (q₁ : Port) : countsAt (setPrst p v s) q₁ = countsAt s q₁ := rfl
@[simp] theorem jobAt_setPrst (q₁ : Port) : jobAt (setPrst p v s) q₁ = jobAt s q₁ := rfl
end

/-! ### shiftStatus -/

section
variable (s : State) (n : Nat)
@[simp] theorem portAt_shiftStatus (q₁ : Port) : portAt (shiftStatus n s) q₁ = portAt s q₁ := rfl
@[simp] theorem attached_shiftStatus (q₁ : Port) : attached (shiftStatus n s) q₁ = attached s q₁ := rfl
@[simp] theorem recAt_shiftStatus (c₁ : BufNo) : recAt (shiftStatus n s) c₁ = recAt s c₁ := rfl
@[simp] theorem liveAt_shiftStatus (c₁ : BufNo) : liveAt (shiftStatus n s) c₁ = liveAt s c₁ := rfl
@[simp] theorem genAt_shiftStatus (c₁ : BufNo) : genAt (shiftStatus n s) c₁ = genAt s c₁ := rfl
@[simp] theorem entryAt_shiftStatus (g₁ : PageNo) : entryAt (shiftStatus n s) g₁ = entryAt s g₁ := rfl
@[simp] theorem offerAt_shiftStatus (i₁ : OfferId) : offerAt (shiftStatus n s) i₁ = offerAt s i₁ := rfl
@[simp] theorem countsAt_shiftStatus (q₁ : Port) : countsAt (shiftStatus n s) q₁ = countsAt s q₁ := rfl
@[simp] theorem jobAt_shiftStatus (q₁ : Port) : jobAt (shiftStatus n s) q₁ = jobAt s q₁ := rfl
end

/-! ### dropCopy -/

section
variable (s : State) (p : Port)
@[simp] theorem portAt_dropCopy (q₁ : Port) : portAt (dropCopy p s) q₁ = portAt s q₁ := rfl
@[simp] theorem attached_dropCopy (q₁ : Port) : attached (dropCopy p s) q₁ = attached s q₁ := rfl
@[simp] theorem recAt_dropCopy (c₁ : BufNo) : recAt (dropCopy p s) c₁ = recAt s c₁ := rfl
@[simp] theorem liveAt_dropCopy (c₁ : BufNo) : liveAt (dropCopy p s) c₁ = liveAt s c₁ := rfl
@[simp] theorem genAt_dropCopy (c₁ : BufNo) : genAt (dropCopy p s) c₁ = genAt s c₁ := rfl
@[simp] theorem entryAt_dropCopy (g₁ : PageNo) : entryAt (dropCopy p s) g₁ = entryAt s g₁ := rfl
@[simp] theorem offerAt_dropCopy (i₁ : OfferId) : offerAt (dropCopy p s) i₁ = offerAt s i₁ := rfl
@[simp] theorem countsAt_dropCopy (q₁ : Port) : countsAt (dropCopy p s) q₁ = countsAt s q₁ := rfl
end

/-! ### clearCancel -/

section
variable (s : State) (p : Port)
@[simp] theorem recAt_clearCancel (c₁ : BufNo) : recAt (clearCancel p s) c₁ = recAt s c₁ := rfl
@[simp] theorem liveAt_clearCancel (c₁ : BufNo) : liveAt (clearCancel p s) c₁ = liveAt s c₁ := rfl
@[simp] theorem genAt_clearCancel (c₁ : BufNo) : genAt (clearCancel p s) c₁ = genAt s c₁ := rfl
@[simp] theorem entryAt_clearCancel (g₁ : PageNo) : entryAt (clearCancel p s) g₁ = entryAt s g₁ := rfl
@[simp] theorem offerAt_clearCancel (i₁ : OfferId) : offerAt (clearCancel p s) i₁ = offerAt s i₁ := rfl
@[simp] theorem countsAt_clearCancel (q₁ : Port) : countsAt (clearCancel p s) q₁ = countsAt s q₁ := rfl
@[simp] theorem jobAt_clearCancel (q₁ : Port) : jobAt (clearCancel p s) q₁ = jobAt s q₁ := rfl
end

end Sys2Proof.Machine
end

