-- ==== Sys2Proof/Laws/Memory.lean ====
section
/-! SUPPORT. The Page Memory: reading after writing, and the canonical form that every memory
operation keeps. -/

namespace Sys2Proof.Machine

/-- A byte read after a write: the value at the address written, the byte before elsewhere. -/
@[simp] theorem memRead_memWrite (m : Memory) (n x : Nat) (v : Byte) :
    memRead (memWrite m n v) x = if x = n then v else memRead m x := by
  induction m with
  | nil => simp [memWrite, memRead]
  | cons e t ih =>
    obtain ⟨k, w⟩ := e
    simp only [memWrite]
    split
    · simp [memRead]
    · split
      · next h => subst h; simp only [memRead]; split <;> rfl
      · simp only [memRead, ih]
        split
        · next h1 h2 h3 => subst h3; simp [Ne.symm h2]
        · rfl

/-- A byte outside a run that is written reads as before. -/
theorem memRead_memWriteRun_outside (vs : List Byte) (m : Memory) (n x : Nat)
    (h : x < n ∨ n + vs.length ≤ x) : memRead (memWriteRun m n vs) x = memRead m x := by
  induction vs generalizing m n with
  | nil => rfl
  | cons v vs ih =>
    simp only [memWriteRun, List.length_cons] at h ⊢
    rw [ih _ _ (by omega), memRead_memWrite, if_neg (by omega)]

/-- A byte of a run that is written reads as the value stored there. -/
theorem memRead_memWriteRun_inside (vs : List Byte) (m : Memory) (n i : Nat) (h : i < vs.length) :
    memRead (memWriteRun m n vs) (n + i) = vs.getD i 0 := by
  induction vs generalizing m n i with
  | nil => cases h
  | cons v vs ih =>
    simp only [memWriteRun]
    cases i with
    | zero => rw [memRead_memWriteRun_outside _ _ _ _ (by omega)]; simp
    | succ i =>
      simp only [List.length_cons] at h
      have := ih (memWrite m n v) (n + 1) i (by omega)
      rw [show n + (i + 1) = n + 1 + i by omega, this]
      simp

@[simp] theorem length_memReadRun (m : Memory) (n len : Nat) :
    (memReadRun m n len).length = len := by
  induction len generalizing n with
  | zero => rfl
  | succ k ih => simp [memReadRun, ih]

/-- The bytes of a run that is read. -/
theorem getD_memReadRun (m : Memory) (n len i : Nat) (h : i < len) :
    (memReadRun m n len).getD i 0 = memRead m (n + i) := by
  induction len generalizing n i with
  | zero => omega
  | succ k ih =>
    cases i with
    | zero => simp [memReadRun]
    | succ i =>
      have := ih (n + 1) i (by omega)
      simp only [memReadRun, List.getD_cons_succ, this]
      congr 1; omega

theorem mem_memWrite {m : Memory} {n : Nat} {v : Byte} {e : Host.Cell} (h : e ∈ memWrite m n v) :
    e = (n, v) ∨ e ∈ m := by
  induction m with
  | nil => simpa [memWrite] using h
  | cons f t ih =>
    obtain ⟨k, w⟩ := f
    simp only [memWrite] at h
    split at h
    · simpa using h
    · split at h
      · rcases List.mem_cons.1 h with h | h
        · exact .inl h
        · exact .inr (List.mem_cons_of_mem _ h)
      · rcases List.mem_cons.1 h with h | h
        · exact .inr (h ▸ List.mem_cons_self)
        · exact (ih h).imp id (List.mem_cons_of_mem _)

/-- A write below the size of the Page Memory keeps the canonical form. -/
theorem wf_memWrite {m : Memory} {n : Nat} (v : Byte) (h : Memory.wf m = true)
    (hn : n < memorySize) : Memory.wf (memWrite m n v) = true := by
  simp only [Memory.wf, Bool.and_eq_true, decide_eq_true_eq, List.all_eq_true] at h ⊢
  obtain ⟨hp, hm⟩ := h
  refine ⟨?_, fun e he => ?_⟩
  · clear hm
    induction m with
    | nil => simp [memWrite]
    | cons f t ih =>
      obtain ⟨k, w⟩ := f
      obtain ⟨h1, h2⟩ := List.pairwise_cons.1 hp
      simp only [memWrite]
      split
      · next hk =>
        refine List.pairwise_cons.2 ⟨fun e he => ?_, hp⟩
        rcases List.mem_cons.1 he with he | he
        · subst he; exact hk
        · exact lt_trans hk (h1 e he)
      · split
        · next hk => subst hk; exact List.pairwise_cons.2 ⟨h1, h2⟩
        · next hk hne =>
          refine List.pairwise_cons.2 ⟨fun e he => ?_, ih h2⟩
          rcases mem_memWrite he with he | he
          · subst he; simp only; omega
          · exact h1 e he
  · rcases mem_memWrite he with he | he
    · subst he; exact hn
    · exact hm e he

/-- A run written below the size of the Page Memory keeps the canonical form. -/
theorem wf_memWriteRun (vs : List Byte) {m : Memory} {n : Nat} (h : Memory.wf m = true)
    (hn : n + vs.length ≤ memorySize) : Memory.wf (memWriteRun m n vs) = true := by
  induction vs generalizing m n with
  | nil => exact h
  | cons v vs ih =>
    simp only [List.length_cons] at hn
    exact ih (wf_memWrite v h (by omega)) (by omega)

/-- A run that a reset abandons below the size of the Page Memory keeps the canonical form. -/
theorem wf_memAbandonRun (stored : Nat → Bool) (vs : List Byte) {m : Memory} {n : Nat}
    (h : Memory.wf m = true) (hn : n + vs.length ≤ memorySize) :
    Memory.wf (memAbandonRun stored m n vs) = true := by
  induction vs generalizing m n with
  | nil => exact h
  | cons v vs ih =>
    simp only [List.length_cons] at hn
    simp only [memAbandonRun]
    refine ih ?_ (by omega)
    split
    · exact wf_memWrite v h (by omega)
    · exact h

/-- A byte outside a run that a reset abandons reads as before. -/
theorem memRead_memAbandonRun_outside (stored : Nat → Bool) (vs : List Byte) (m : Memory) (n x : Nat)
    (h : x < n ∨ n + vs.length ≤ x) : memRead (memAbandonRun stored m n vs) x = memRead m x := by
  induction vs generalizing m n with
  | nil => rfl
  | cons v vs ih =>
    simp only [memAbandonRun, List.length_cons] at h ⊢
    rw [ih _ _ (by omega)]
    split
    · rw [memRead_memWrite, if_neg (by omega)]
    · rfl

/-- Every byte of a page lies in the Page Memory. -/
theorem pageAddr_lt (pg : PageNo) {b : Nat} (hb : b ≤ 64) : pageAddr pg b ≤ memorySize := by
  have := pg.isLt
  simp only [pageAddr, memorySize]
  omega

/-- The memory after reset has the canonical form. -/
theorem wf_reset : Memory.wf State.reset.mem = true := rfl

end Sys2Proof.Machine
end

