-- ==== Sys2Proof/Laws/Ops.lean ====
section
/-! SUPPORT. The shared operations: for each, one lemma that says everything it can do. -/

namespace Sys2Proof.Machine

/-! ### The arbiter -/

/-- The arbiter changes its standing grant and nothing else. -/
theorem arbitrate_eq (s : State) : arbitrate s = { s with tcGrant := (arbitrate s).tcGrant } := by
  unfold arbitrate
  split
  · rfl
  · split
    · rfl
    · split <;> rfl

section
variable (s : State)

@[simp] theorem arbitrate_ports : (arbitrate s).ports = s.ports := by rw [arbitrate_eq]
@[simp] theorem arbitrate_buffers : (arbitrate s).buffers = s.buffers := by rw [arbitrate_eq]
@[simp] theorem arbitrate_pageMap : (arbitrate s).pageMap = s.pageMap := by rw [arbitrate_eq]
@[simp] theorem arbitrate_offers : (arbitrate s).offers = s.offers := by rw [arbitrate_eq]
@[simp] theorem arbitrate_dir : (arbitrate s).dir = s.dir := by rw [arbitrate_eq]
@[simp] theorem arbitrate_counts : (arbitrate s).counts = s.counts := by rw [arbitrate_eq]
@[simp] theorem arbitrate_pendingTicks : (arbitrate s).pendingTicks = s.pendingTicks := by
  rw [arbitrate_eq]
@[simp] theorem arbitrate_walkList : (arbitrate s).walkList = s.walkList := by rw [arbitrate_eq]
@[simp] theorem arbitrate_walkPhase : (arbitrate s).walkPhase = s.walkPhase := by rw [arbitrate_eq]
@[simp] theorem arbitrate_walkPos : (arbitrate s).walkPos = s.walkPos := by rw [arbitrate_eq]
@[simp] theorem arbitrate_tcLast : (arbitrate s).tcLast = s.tcLast := by rw [arbitrate_eq]
@[simp] theorem arbitrate_underway : (arbitrate s).underway = s.underway := by rw [arbitrate_eq]
@[simp] theorem arbitrate_freeList : (arbitrate s).freeList = s.freeList := by rw [arbitrate_eq]
@[simp] theorem arbitrate_scrubQueue : (arbitrate s).scrubQueue = s.scrubQueue := by
  rw [arbitrate_eq]
@[simp] theorem arbitrate_mem : (arbitrate s).mem = s.mem := by rw [arbitrate_eq]
@[simp] theorem arbitrate_memLast : (arbitrate s).memLast = s.memLast := by rw [arbitrate_eq]
@[simp] theorem arbitrate_jobs : (arbitrate s).jobs = s.jobs := by rw [arbitrate_eq]
@[simp] theorem arbitrate_page : (arbitrate s).page = s.page := by rw [arbitrate_eq]
@[simp] theorem arbitrate_nextKind : (arbitrate s).nextKind = s.nextKind := by rw [arbitrate_eq]
@[simp] theorem arbitrate_lastCopy : (arbitrate s).lastCopy = s.lastCopy := by rw [arbitrate_eq]
@[simp] theorem arbitrate_reports : (arbitrate s).reports = s.reports := by rw [arbitrate_eq]
@[simp] theorem arbitrate_paused : (arbitrate s).paused = s.paused := by rw [arbitrate_eq]
@[simp] theorem arbitrate_prescaler : (arbitrate s).prescaler = s.prescaler := by rw [arbitrate_eq]
@[simp] theorem arbitrate_period : (arbitrate s).period = s.period := by rw [arbitrate_eq]
@[simp] theorem arbitrate_maint : (arbitrate s).maint = s.maint := by rw [arbitrate_eq]
@[simp] theorem arbitrate_hold : (arbitrate s).hold = s.hold := by rw [arbitrate_eq]
@[simp] theorem arbitrate_cfg : (arbitrate s).cfg = s.cfg := by rw [arbitrate_eq]
@[simp] theorem arbitrate_sdo : (arbitrate s).sdo = s.sdo := by rw [arbitrate_eq]
@[simp] theorem arbitrate_rst : (arbitrate s).rst = s.rst := by rw [arbitrate_eq]
@[simp] theorem arbitrate_freeCount : (arbitrate s).freeCount = s.freeCount := by rw [arbitrate_eq]
@[simp] theorem arbitrate_pending : (arbitrate s).pending = s.pending := by rw [arbitrate_eq]
@[simp] theorem portAt_arbitrate (p : Port) : portAt (arbitrate s) p = portAt s p := by
  simp only [portAt, arbitrate_ports]
@[simp] theorem recAt_arbitrate (b : BufNo) : recAt (arbitrate s) b = recAt s b := by
  simp only [recAt, arbitrate_buffers]
@[simp] theorem liveAt_arbitrate (b : BufNo) : liveAt (arbitrate s) b = liveAt s b := by
  simp only [liveAt, recAt_arbitrate]
@[simp] theorem genAt_arbitrate (b : BufNo) : genAt (arbitrate s) b = genAt s b := by
  simp only [genAt, recAt_arbitrate]
@[simp] theorem offerAt_arbitrate (i : OfferId) : offerAt (arbitrate s) i = offerAt s i := by
  simp only [offerAt, arbitrate_offers]
@[simp] theorem jobAt_arbitrate (p : Port) : jobAt (arbitrate s) p = jobAt s p := by
  simp only [jobAt, arbitrate_jobs]
@[simp] theorem countsAt_arbitrate (p : Port) : countsAt (arbitrate s) p = countsAt s p := by
  simp only [countsAt, arbitrate_counts]
@[simp] theorem entryAt_arbitrate (g : PageNo) : entryAt (arbitrate s) g = entryAt s g := by
  simp only [entryAt, arbitrate_pageMap]
end

/-- Whether a requester may be granted does not depend on the standing grant. -/
@[simp] theorem grantable_tcGrant (s : State) (g : Option Requester) (r : Requester) :
    grantable { s with tcGrant := g } r = grantable s r := by
  cases r <;> rfl

/-- Every requester stands in the ring after any other. -/
theorem mem_ringAfter (x r : Requester) : r ∈ ringAfter x := by
  rcases x with (_ | _ | _ | _) | _ | _ | _ | _ <;> rcases r with (_ | _ | _ | _) | _ | _ | _ | _ <;>
    simp [ringAfter]

/-- The next grant is a requester that may be granted; without one no requester may. -/
theorem nextGrant_spec (s : State) :
    (∀ r, nextGrant s = some r → grantable s r = true) ∧
    (nextGrant s = none → ∀ r, grantable s r = false) := by
  refine ⟨fun r h => List.find?_some h, fun h r => ?_⟩
  have := List.find?_eq_none.1 h r (mem_ringAfter _ _)
  simpa using this

/-- The arbiter while RST is released: the grant stands with a requester that may be granted, and
without a grant no requester may be (R76). -/
theorem arbitrate_grant (s : State) (h : s.rst = false) :
    (∀ r, (arbitrate s).tcGrant = some r → grantable (arbitrate s) r = true) ∧
    ((arbitrate s).tcGrant = none → ∀ r, grantable (arbitrate s) r = false) := by
  have hg : ∀ r, grantable (arbitrate s) r = grantable s r := fun r => by
    rw [arbitrate_eq]; simp
  simp only [hg]
  unfold arbitrate
  rw [if_neg (by simp [h])]
  cases hs : s.tcGrant with
  | none => exact nextGrant_spec s
  | some r =>
    by_cases hr : grantable s r = true
    · simp only [hr, if_true]
      exact ⟨fun q hq => by rw [hs] at hq; cases hq; exact hr, fun hq => by simp [hs] at hq⟩
    · simp only [hr]
      exact nextGrant_spec s

/-! ### How a step ends -/

/-- A step that ends in a next state ends with the arbiter. -/
@[simp] theorem done_next (s t : State) : done s = .next t ↔ t = arbitrate s := by
  simp only [done, Host.Outcome.next.injEq]
  exact eq_comm

/-- A step that a missing page may stop: it ends with the arbiter, or faults. -/
theorem doneOrStuck_next (o : Option State) (t : State) :
    doneOrStuck o = .next t ↔ ∃ s, o = some s ∧ t = arbitrate s := by
  cases o with
  | none => simp [doneOrStuck]
  | some s => simp [doneOrStuck]

/-- A host cycle: nothing while RST is asserted, else the effect and the arbiter. -/
theorem hostStep_next (s : State) (f : State → State) (t : State) :
    hostStep s f = .next t ↔ (s.rst = true ∧ t = s) ∨ (s.rst = false ∧ t = arbitrate (f s)) := by
  unfold hostStep
  cases s.rst
  · simp
  · simpa using eq_comm

/-- A handling: run to its end when granted, else nothing. -/
theorem handling_next (r : Requester) (s : State) (f : State → State) (t : State) :
    handling r s f = .next t ↔
      (granted s r = true ∧ t = endHandling r (f s)) ∨ (granted s r = false ∧ t = s) := by
  unfold handling
  cases granted s r <;> simp [eq_comm]

/-- The handling of a posted command: the take and the handling when its port is granted and has
posted it; the rest of the handling when the command was taken before the port's teardown started
(R74); else nothing. -/
theorem portHandling_next (p : Port) (c : Option Command) (s : State) (f : State → State)
    (t : State) :
    portHandling p c s f = .next t ↔
      (Safety.Taken s p c ∧ t = endHandling (.port p) (f (updPort p takeCommand s))) ∨
      (∃ slot, slotTaken s p = some slot ∧ granted s (.port p) = true ∧
        commandOf slot.postedCode = c ∧ t = endHandling (.port p) (runOn p slot f s)) ∨
      (¬Safety.Taken s p c ∧
        (¬∃ slot, slotTaken s p = some slot ∧ granted s (.port p) = true ∧
          commandOf slot.postedCode = c) ∧ t = s) := by
  unfold portHandling Safety.Taken
  cases h : slotTaken s p with
  | none =>
    by_cases h1 : granted s (.port p) = true <;> by_cases h2 : postedCommand s p = c <;>
      simp [h1, h2, eq_comm]
  | some slot =>
    by_cases h1 : granted s (.port p) = true <;> by_cases h2 : commandOf slot.postedCode = c <;>
      simp [h1, h2] <;> exact eq_comm

/-- A handling that runs on (R74, R143): the changes of the handling stand, and the port's slot is
as it was. -/
theorem runOn_eq (p : Port) (slot : CmdSlot) (f : State → State) (s : State) :
    runOn p slot f s =
      { f (updPort p (fun hp => { hp with cmd := slot }) s) with
        ports := (runOn p slot f s).ports, underway := none } := rfl

/-- The handling of a maintenance request: its response when it is held and granted, else
nothing. -/
theorem maintHandling_next (r : Request) (s : State) (f : List Byte → Option MaintAnswer)
    (t : State) :
    maintHandling r s f = .next t ↔
      (∃ ps a, heldRequest s r = some ps ∧ granted s .maintenance = true ∧ f ps = some a ∧
        t = endHandling .maintenance (respond s a)) ∨
      (¬(∃ ps, heldRequest s r = some ps ∧ granted s .maintenance = true) ∧ t = s) := by
  unfold maintHandling
  cases heldRequest s r with
  | none => simpa using eq_comm
  | some ps =>
    cases granted s .maintenance with
    | false => simpa using eq_comm
    | true =>
      cases hf : f ps with
      | none => simp [hf]
      | some a => simpa [hf] using eq_comm

/-- The service of a maintenance request without the Table Controller. -/
theorem maintService_next (r : Request) (s : State) (f : List Byte → Option MaintAnswer)
    (t : State) :
    maintService r s f = .next t ↔
      (∃ ps a, heldRequest s r = some ps ∧ s.rst = false ∧ f ps = some a ∧
        t = arbitrate (respond s a)) ∨
      (¬(∃ ps, heldRequest s r = some ps ∧ s.rst = false) ∧ t = s) := by
  unfold maintService
  cases heldRequest s r with
  | none => simpa using eq_comm
  | some ps =>
    cases s.rst with
    | true => simpa using eq_comm
    | false =>
      cases hf : f ps with
      | none => simp [hf, doneOrStuck]
      | some a => simp [hf, doneOrStuck]

/-! ### Commands -/

/-- The take of a posted command leaves what was posted. -/
@[simp] theorem param_take (s : State) (p q : Port) (i : Nat) :
    param (updPort p takeCommand s) q i = param s q i := by
  simp only [param, portAt_updPort]
  split
  · next h => subst h; rfl
  · rfl

@[simp] theorem paramNum_take (s : State) (p q : Port) (i : Nat) :
    paramNum (updPort p takeCommand s) q i = paramNum s q i := by
  simp only [paramNum, portAt_updPort]
  split
  · next h => subst h; rfl
  · rfl

@[simp] theorem attached_take (s : State) (p q : Port) :
    attached (updPort p takeCommand s) q = attached s q := by
  simp only [attached, portAt_updPort]
  split
  · next h => subst h; rfl
  · rfl

@[simp] theorem checkHandle_take (s : State) (p q : Port) (i : Nat) :
    checkHandle (updPort p takeCommand s) q i = checkHandle s q i := by
  simp only [checkHandle, paramNum_take, param_take, liveAt_updPort, genAt_updPort]

/-- Handle validation (R5): the buffer number and the live record whose generation is the one
given. -/
theorem checkHandle_ok {s : State} {p : Port} {i : Nat} {b : BufNo} {l : Live}
    (h : checkHandle s p i = .ok (b, l)) :
    b.val = paramNum s p i ∧ liveAt s b = some l ∧ genAt s b = param s p (i + 2) := by
  unfold checkHandle at h
  split at h
  · cases h
  · next b' hb =>
    split at h
    · cases h
    · next l' hl =>
      split at h
      · next hg =>
        cases h
        refine ⟨?_, hl, hg⟩
        unfold bufNoOf at hb
        split at hb
        · cases hb; rfl
        · cases hb
      · cases h

/-- The slot taken for a handling in progress belongs to one port. -/
@[simp] theorem slotTaken_take (s : State) (p q : Port) :
    slotTaken (updPort p takeCommand s) q = slotTaken s q := rfl

@[simp] theorem admitted_take (s : State) (p q : Port) :
    admitted (updPort p takeCommand s) q = admitted s q := by
  simp only [admitted, attached_take, slotTaken_take]

/-- The check of the port state passes at an ATTACHED port, and for a handling in progress (R79). -/
theorem admitted_iff (s : State) (p : Port) :
    admitted s p = true ↔ attached s p = true ∨ ∃ slot, slotTaken s p = some slot := by
  simp [admitted, Option.isSome_iff_exists]

/-- A command whose port passes the check of the port state is completed with the answer of its
checks; from any other it is refused DETACHED (R79). -/
theorem fromAttached_eq (p : Port) (body : State → Answer) (s : State) :
    (admitted s p = true ∧ fromAttached p body s = completeAnswer p s (body s)) ∨
    (admitted s p = false ∧ fromAttached p body s = complete p .detached [] s) := by
  unfold fromAttached
  cases admitted s p <;> simp

/-- A completion reaches a BUSY slot (R70). -/
theorem takeCompletion_busy {hp : HostPort} (h : hp.cmd.state = .busy) (r : Result)
    (a : List Byte) : takeCompletion r a hp = Safety.answered hp r a := by
  simp [takeCompletion, Safety.answered, h]

/-! ### Notices and slots -/

/-- An append (R147): discarded unless ATTACHED, else the notice at the tail or, with 16 held,
LOST set. -/
theorem takeAppend_eq (n : Notice) (hp : HostPort) :
    takeAppend n hp = Safety.notified hp n := rfl

/-- An append keeps a queue at 16 notices at most (R145). -/
theorem length_takeAppend (n : Notice) {hp : HostPort} (h : hp.queue.length ≤ 16) :
    (takeAppend n hp).queue.length ≤ 16 := by
  unfold takeAppend
  split
  · split
    · simp only [List.length_append, List.length_cons, List.length_nil]; omega
    · exact h
  · exact h

section
variable (f : WindowSlot → WindowSlot) (hp : HostPort)
@[simp] theorem onSlots_w0 : (onSlots f hp).w0 = f hp.w0 := rfl
@[simp] theorem onSlots_w1 : (onSlots f hp).w1 = f hp.w1 := rfl
@[simp] theorem onSlots_saved : (onSlots f hp).saved = f hp.saved := rfl
@[simp] theorem onSlots_state : (onSlots f hp).state = hp.state := rfl
@[simp] theorem onSlots_queue : (onSlots f hp).queue = hp.queue := rfl
@[simp] theorem onSlots_cmd : (onSlots f hp).cmd = hp.cmd := rfl
@[simp] theorem onSlots_lost : (onSlots f hp).lost = hp.lost := rfl
@[simp] theorem onSlots_fault : (onSlots f hp).fault = hp.fault := rfl
end

section
variable (n : Notice) (hp : HostPort)
@[simp] theorem takeAppend_w0 : (takeAppend n hp).w0 = hp.w0 := by
  unfold takeAppend; split <;> [split <;> rfl; rfl]
@[simp] theorem takeAppend_w1 : (takeAppend n hp).w1 = hp.w1 := by
  unfold takeAppend; split <;> [split <;> rfl; rfl]
@[simp] theorem takeAppend_saved : (takeAppend n hp).saved = hp.saved := by
  unfold takeAppend; split <;> [split <;> rfl; rfl]
@[simp] theorem takeAppend_state : (takeAppend n hp).state = hp.state := by
  unfold takeAppend; split <;> [split <;> rfl; rfl]
@[simp] theorem takeAppend_cmd : (takeAppend n hp).cmd = hp.cmd := by
  unfold takeAppend; split <;> [split <;> rfl; rfl]
@[simp] theorem takeAppend_fault : (takeAppend n hp).fault = hp.fault := by
  unfold takeAppend; split <;> [split <;> rfl; rfl]
end

section
variable (r : Result) (a : List Byte) (hp : HostPort)
@[simp] theorem takeCompletion_w0 : (takeCompletion r a hp).w0 = hp.w0 := by
  unfold takeCompletion; split <;> rfl
@[simp] theorem takeCompletion_w1 : (takeCompletion r a hp).w1 = hp.w1 := by
  unfold takeCompletion; split <;> rfl
@[simp] theorem takeCompletion_saved : (takeCompletion r a hp).saved = hp.saved := by
  unfold takeCompletion; split <;> rfl
@[simp] theorem takeCompletion_state : (takeCompletion r a hp).state = hp.state := by
  unfold takeCompletion; split <;> rfl
@[simp] theorem takeCompletion_queue : (takeCompletion r a hp).queue = hp.queue := by
  unfold takeCompletion; split <;> rfl
@[simp] theorem takeCompletion_lost : (takeCompletion r a hp).lost = hp.lost := by
  unfold takeCompletion; split <;> rfl
@[simp] theorem takeCompletion_fault : (takeCompletion r a hp).fault = hp.fault := by
  unfold takeCompletion; split <;> rfl
end

/-! ### Jobs and teardown starts -/

/-- A stop or a cancel (R165): nothing without a RUNNING job; else the job becomes STOPPING, or
ends at once when none of its pages is in progress. -/
theorem stopJob_cases (p : Port) (c : StopCause) (s : State) :
    stopJob p c s = s ∨
    (∃ j, jobAt s p = some j ∧ j.state = .running ∧
      ((copyPageOf s.page p = true ∧
          stopJob p c s = setJob p (some { j with state := .stopping c }) s) ∨
       (copyPageOf s.page p = false ∧ stopJob p c s = endJob p j (endCauseOf c) s))) := by
  unfold stopJob
  cases hj : jobAt s p with
  | none => exact .inl rfl
  | some j =>
    cases hr : j.state with
    | stopping _ => exact .inl (by simp [hr])
    | running =>
      refine .inr ⟨j, rfl, hr, ?_⟩
      cases copyPageOf s.page p <;> simp [hr]

/-- A stop changes the jobs and the reports and nothing else. -/
theorem stopJob_eq (p : Port) (c : StopCause) (s : State) :
    stopJob p c s =
      { s with jobs := (stopJob p c s).jobs, reports := (stopJob p c s).reports } := by
  rcases stopJob_cases p c s with h | ⟨j, -, -, ⟨-, h⟩ | ⟨-, h⟩⟩ <;> rw [h] <;> rfl

/-- Stops of several ports change the jobs and the reports and nothing else. -/
theorem stopJobs_eq (ps : List Port) (s : State) :
    stopJobs ps s =
      { s with jobs := (stopJobs ps s).jobs, reports := (stopJobs ps s).reports } := by
  induction ps generalizing s with
  | nil => rfl
  | cons p ps ih =>
    have h : stopJobs (p :: ps) s = stopJobs ps (stopJob p .aborted s) := rfl
    rw [h, ih, stopJob_eq]

/-- A teardown start and its port's granted command (R74): the start comes first, or the command's
take does and its handling is in progress, or there is no such command. -/
theorem meetTake_cases (p : Port) (s : State) :
    (¬(granted s (.port p) = true ∧ (portAt s p).cmd.state = .pending) ∧ meetTake p s = s) ∨
    ((granted s (.port p) = true ∧ (portAt s p).cmd.state = .pending) ∧
      (meetTake p s = { s with freeCount := s.freeCount + 1 } ∨
        meetTake p s = updPort p takeCommand
          { s with
            freeCount := s.freeCount + 1
            underway := some (.command p
              { (portAt s p).cmd with state := .idle, cancelRequested := false }) })) := by
  unfold meetTake
  by_cases h : (granted s (.port p) && decide ((portAt s p).cmd.state = .pending)) = true
  · refine .inr ⟨by simpa using h, ?_⟩
    simp only [h, if_true]
    split
    · exact .inr rfl
    · exact .inl rfl
  · refine .inl ⟨by simpa using h, ?_⟩
    simp only [h, if_false, Bool.false_eq_true]

/-- A teardown cause (R178): the start step at an ATTACHED port, nothing at any other. -/
theorem teardownCause_cases (p : Port) (c : TeardownCause) (s : State) :
    (attached s p = true ∧ teardownCause p c s =
      addWalk p (stopJob p .aborted (updPort p (startStepPort c) (meetTake p s)))) ∨
    (attached s p = false ∧ teardownCause p c s = s) := by
  unfold teardownCause
  cases attached s p <;> simp

/-- A fault (R176): recorded or the start of a teardown at an ATTACHED port, nothing at any
other. -/
theorem raiseFault_cases (p : Port) (k : FaultKind) (off : Nat) (acc : Access) (s : State) :
    (attached s p = true ∧ perGet s.cfg.policy p = .report ∧
      raiseFault p k off acc s =
        updPort p (fun hp => { hp with fault := addFault k off acc hp.fault }) s) ∨
    (attached s p = true ∧ perGet s.cfg.policy p = .detach ∧
      raiseFault p k off acc s = teardownCause p (.fault k) s) ∨
    (attached s p = false ∧ raiseFault p k off acc s = s) := by
  unfold raiseFault
  cases attached s p <;> cases perGet s.cfg.policy p <;> simp

/-! ### Offers and revocations -/

/-- The match of an ACCEPT or DECLINE (R124): the entry named is in use for this buffer and this
caller. -/
theorem matchOffer_ok {p : Port} {b : BufNo} {s : State} {id : OfferId} {o : Offer}
    (h : matchOffer p b s = .ok (id, o)) :
    offerIdOf (param s p 3) = some id ∧ offerAt s id = some o ∧ o.handle.buf = b ∧ o.dst = p := by
  unfold matchOffer at h
  split at h
  · cases h
  · next i hi =>
    split at h
    · cases h
    · next o' ho =>
      split at h
      · next hb => cases h; exact ⟨hi, ho, hb⟩
      · cases h

/-- An offer that ends without ACCEPT (R9): its entry is free, and its record is HELD when it was
OFFERED under this id. -/
theorem endOffer_cases (id : OfferId) (o : Offer) (s : State) :
    endOffer id o s = setOffer id none s ∨
    (∃ l, liveAt s o.handle.buf = some l ∧ l.st = .offered id ∧
      endOffer id o s = setLive o.handle.buf { l with st := .held noPorts } (setOffer id none s)) := by
  unfold endOffer
  simp only [liveAt_setOffer]
  cases hl : liveAt s o.handle.buf with
  | none => exact .inl rfl
  | some l =>
    by_cases h : l.st = .offered id
    · exact .inr ⟨l, rfl, h, by simp [h]⟩
    · exact .inl (by simp [h])

/-- Settling a record (R166 step 4): its revocation is completed when no mark is left to wait for,
else nothing. -/
theorem settleRevocation_cases (b : BufNo) (s : State) :
    settleRevocation b s = s ∨
    (∃ l r, liveAt s b = some l ∧ l.pendingRev = some r ∧ (∀ p, waitsFor l r p = false) ∧
      settleRevocation b s = completeRevocation b s) := by
  unfold settleRevocation
  cases hl : liveAt s b with
  | none => exact .inl rfl
  | some l =>
    cases hr : revocationReady l with
    | false => exact .inl (by simp [hr])
    | true =>
      unfold revocationReady at hr
      cases hp : l.pendingRev with
      | none => simp [hp] at hr
      | some r =>
        refine .inr ⟨l, r, rfl, hp, fun p => ?_, by simp [revocationReady, hp] at *; simp_all⟩
        simp only [hp, List.all_eq_true, Bool.not_eq_true'] at hr
        exact hr p (by cases p <;> simp [allPorts])

/-! ### The Memory Arbiter -/

/-- The Data Mover's transfer (R31, R33): nothing, a zero-fill, a captured page, or a stored
page. -/
theorem serveMover_cases {s t : State} (h : serveMover s = some t) :
    t = s ∨
    (∃ pg, s.page = some (.scrub pg false) ∧
      t = { s with mem := memWriteRun s.mem (pageAddr pg 0) zeroPage,
                   page := some (.scrub pg true), memLast := .mover }) ∨
    (∃ p pg, s.page = some (.copyRead p none) ∧ copySource s p = some pg ∧
      t = { s with page := some (.copyRead p (some (memReadRun s.mem (pageAddr pg 0) 64))),
                   memLast := .mover }) ∨
    (∃ p bytes pg, s.page = some (.copyWrite p bytes false) ∧ copyDest s p = some pg ∧
      t = { s with mem := memWriteRun s.mem (pageAddr pg 0) bytes,
                   page := some (.copyWrite p bytes true), memLast := .mover }) := by
  unfold serveMover at h
  split at h
  · next pg hp => exact .inr (.inl ⟨pg, hp, (Option.some.inj h).symm⟩)
  · next p hp =>
    split at h
    · cases h
    · next pg hs => exact .inr (.inr (.inl ⟨p, pg, hp, hs, (Option.some.inj h).symm⟩))
  · next p bytes hp =>
    split at h
    · cases h
    · next pg hs => exact .inr (.inr (.inr ⟨p, bytes, pg, hp, hs, (Option.some.inj h).symm⟩))
  · exact .inl (Option.some.inj h).symm

/-- A grant of the Memory Arbiter (R30): the requester is the last granted, the Data Mover's
waiting transfer having been served first or not. -/
theorem memGrant_cases {r : MemRequester} {s t : State} (h : memGrant r s = some t) :
    (moverWaiting s = false ∧ t = { s with memLast := r }) ∨
    (moverWaiting s = true ∧ t = { s with freeCount := s.freeCount + 1, memLast := r }) ∨
    (moverWaiting s = true ∧ ∃ u, serveMover { s with freeCount := s.freeCount + 1 } = some u ∧
      t = { u with memLast := r }) := by
  unfold memGrant at h
  cases hw : moverWaiting s with
  | false => simp only [hw, Bool.false_eq_true, if_false] at h; exact .inl ⟨rfl, (Option.some.inj h).symm⟩
  | true =>
    simp only [hw, if_true] at h
    split at h
    · obtain ⟨u, hu, rfl⟩ := Option.map_eq_some_iff.1 h
      exact .inr (.inr ⟨rfl, u, hu, rfl⟩)
    · exact .inr (.inl ⟨rfl, (Option.some.inj h).symm⟩)

/-- While the Data Mover waits for nothing, a grant changes the last-granted requester alone. -/
theorem memGrant_idle {r : MemRequester} {s : State} (h : moverWaiting s = false) :
    memGrant r s = some { s with memLast := r } := by
  simp [memGrant, h]

/-- A byte served (R32): the page is resolved after the grant, and the byte is read or stored
there. -/
theorem serveByte_cases {p : Port} {acc : Access} {b : BufNo} {i : Nat} {k : Fin 64} {s t : State}
    (h : serveByte p acc b i k s = some t) :
    ∃ u pg, memGrant (.host p) s = some u ∧ resolveIndex u b i = some pg ∧
      (((∀ v, acc ≠ .write v) ∧ t = answer p acc (memRead u.mem (pageAddr pg k.val)) u) ∨
       (∃ v, acc = .write v ∧
        t = answer p acc 0 { u with mem := memWrite u.mem (pageAddr pg k.val) v })) := by
  unfold serveByte at h
  split at h
  · cases h
  · next u hu =>
    split at h
    · cases h
    · next pg hpg =>
      cases acc with
      | read => exact ⟨u, pg, hu, hpg, .inl ⟨by simp, (Option.some.inj h).symm⟩⟩
      | readLost => exact ⟨u, pg, hu, hpg, .inl ⟨by simp, (Option.some.inj h).symm⟩⟩
      | write v => exact ⟨u, pg, hu, hpg, .inr ⟨v, rfl, (Option.some.inj h).symm⟩⟩

/-! ### Ticks -/

/-- The start of a tick handling (R134): a handling in progress has taken its count; else the whole
pending count is taken, and it becomes 0. -/
theorem takeTicks_cases (s : State) :
    (∃ k, s.underway = some (.ticks k) ∧ ticksInHand s = k ∧ takeTicks s = s) ∨
    (ticksTaken s = none ∧ ticksInHand s = s.pendingTicks ∧
      takeTicks s = { s with pendingTicks := 0, underway := some (.ticks s.pendingTicks) }) := by
  unfold takeTicks ticksInHand ticksTaken
  cases h : s.underway with
  | none => exact .inr ⟨rfl, rfl, rfl⟩
  | some w =>
    cases w with
    | ticks k => exact .inl ⟨k, rfl, rfl, rfl⟩
    | command p slot => exact .inr ⟨rfl, rfl, rfl⟩

/-! ### The step -/

/-- A step with a command waiting runs the command at the front on the state with the queue's
rest. -/
theorem step_cons (s : State) (c : Instr) (rest : List Instr) (h : s.pending = c :: rest) :
    step s = exec c { s with pending := rest } := by
  simp [step, h]

/-- A step with nothing waiting is one period of CLK. -/
theorem step_nil (s : State) (h : s.pending = []) : step s = idle s := by
  simp [step, h]

end Sys2Proof.Machine
end

