-- ==== Sys2Proof/Tests/Slice0.lean ====
section
/-! SUPPORT. The model's own tests. `test_…` runs one command on a small state and looks at a field
or two; its expected values come from the manual's worked examples and tables. `witness_…` shows
a state and operands that meet all hypotheses of the statement it names. -/

namespace Sys2Proof.Tests

open Sys2Proof.Machine Sys2Proof.Safety

/-! ### States to run a command on -/

/-- What is seen of the next state of an outcome; none when it stops. -/
def seen {α : Type} (o : Host.Outcome State Fault Refusal) (f : State → α) : Option α :=
  match o with
  | .next t => some (f t)
  | _ => none

/-- An ATTACHED port with nothing mapped, posted or queued. -/
def host : HostPort := { HostPort.reset false with state := .attached }

/-- Four ATTACHED ports and an empty Page Pool. -/
def base : State := { State.reset with ports := ⟨host, host, host, host⟩, scrubQueue := [] }

/-- A command slot in which a command is PENDING. -/
def slotOf (code : Byte) (params : List Byte) : CmdSlot :=
  ⟨.pending, padTo 16 params, code, padTo 16 params, 0, List.replicate 12 0, false⟩

/-- A port has posted a command and its grant stands. -/
def posting (p : Port) (code : Byte) (params : List Byte) (s : State) : State :=
  { updPort p (fun hp => { hp with cmd := slotOf code params }) s with tcGrant := some (.port p) }

/-- A port's command was taken before its teardown started: the port in TEARDOWN and alone on the walk
list, its handling in progress. -/
def midway (p : Port) (code : Byte) (params : List Byte) (s : State) : State :=
  { updPort p (fun _ => { HostPort.reset false with state := .teardown, lastCause := .prst }) s with
    walkList := [p], tcGrant := some (.port p)
    underway := some (.command p { slotOf code params with state := .idle }) }

/-- A request is held at the Maintenance Port and its grant stands. -/
def holding (code : Byte) (params : List Byte) (s : State) : State :=
  { s with maint := .pending ⟨code, params⟩, tcGrant := some .maintenance }

/-- A live record without marks. -/
def rec (owner : Port) (st : BufState) (pages : List PageNo) : Live :=
  ⟨owner, st, pages.length, pages.headD 0, pages.getLastD 0, noPorts, none, none⟩

/-- A live buffer on a chain of pages, its owner's counts raised by it. -/
def withBuffer (b : BufNo) (g : Gen) (l : Live) (pages : List PageNo) (s : State) : State :=
  raiseCounts l.owner 1 l.length
    (setRec b ⟨g, some l⟩ { s with pageMap := linkChain b pages s.pageMap })

/-- A window on a handle at a position. -/
def window (b : BufNo) (g : Gen) (mode : MapMode) (len index : Nat) (cursor : Fin 64) : Mapping :=
  ⟨⟨b, g⟩, mode, len, index, cursor, false, false⟩

/-- A port's W0, W1 or both hold what is given. -/
def showing (p : Port) (w : Window) (x : WindowSlot) (s : State) : State :=
  updPort p (putSlot w x) s

/-- A port's notice queue holds some notices. -/
def queued (p : Port) (n : Nat) (s : State) : State :=
  updPort p (fun hp => { hp with queue := List.replicate n (.granted ⟨1, 0⟩ .a) }) s

/-- A set of ports. -/
def only (p : Port) : PortSet := perSet noPorts p true

/-! ### WellFormed refuses -/

theorem test_wellFormed_location :
    Instr.wellFormed (.hostLocationWrite .a 0x60 1) = false ∧
    Instr.wellFormed (.hostLocationWrite .a 0x48 3) = false ∧
    Instr.wellFormed (.hostLocationWrite .a 0x48 5) = true ∧
    Instr.wellFormed (.hostLocationWrite .a 0x5F 9) = true := by decide

theorem test_wellFormed_frames :
    Instr.wellFormed (.fetchFrame 0) = false ∧ Instr.wellFormed (.fetchFrame 1) = true ∧
    Instr.wellFormed (.unknownFrame 1 4) = false ∧ Instr.wellFormed (.unknownFrame 2 4) = false ∧
    Instr.wellFormed (.unknownFrame 3 0) = false ∧ Instr.wellFormed (.unknownFrame 0 1) = true := by
  decide

/-! ### Queue and reset -/

theorem test_decodeTableWord_none : decodeTableWord 8 0x10 = none := rfl

theorem test_step_takes_the_front :
    seen (step { base with pending := [.pop .a 0, .swap .b] }) (fun t => t.pending) =
      some [.swap .b] := by decide

theorem test_idle_counts_clk :
    seen (step base) (fun t => t.prescaler) = some 1 := by decide

/-- A mapped window on a VACANT record: no law-abiding state has one. -/
def unresolved : State := showing .a .w0 (.mapped (window 1 0 .read 1 0 0)) base

theorem witness_CommandsLeaveTheQueue :
    (match exec (.w0DirectViewAccess .a 0 .read) unresolved with
      | .fault .pageNotResolved => true | _ => false) = true ∧
    (seen (exec (.swap .a) base) (fun t => t.pending)).isSome = true := by decide

theorem witness_NothingIsTakenInReset :
    ({ base with rst := true } : State).rst = true ∧ Instr.swap .a ≠ .rstRelease ∧
    (∀ p, Instr.swap .a ≠ .prstAssertion p) ∧ (∀ p, Instr.swap .a ≠ .prstDeassertion p) :=
  ⟨rfl, by decide, fun p => by cases p <;> decide, fun p => by cases p <;> decide⟩

theorem witness_DeviceResetValues :
    base.rst = false ∧ base.page = none ∧ base.maint = .idle := ⟨rfl, rfl, rfl⟩

theorem test_deviceReset :
    seen (exec .deviceReset (posting .b 0x10 [1] base))
      (fun t => ((portAt t .b).state, (portAt t .b).cmd.state, t.rst, t.tcLast)) =
      some (.detached, .idle, true, .maintenance) := by decide

theorem test_rstRelease :
    seen (exec .rstRelease { base with rst := true, prescaler := 7 })
      (fun t => (t.rst, t.prescaler, t.period)) = some (false, 0, 16128) := by decide

theorem witness_RstReleaseAndPrst :
    ({ base with rst := true } : State).rst = true ∧
    (base.rst = false ∧ (portAt base .c).prst = false ∧ attached base .c = true) ∧
    (State.reset.rst = false ∧ attached State.reset .c = false) ∧
    (portAt (setPrst .c true base) .c).prst = true := by decide

/-- Section 10.5, event 1: TEARDOWN with cause PRST, walk list [C], phase OFFERS, position 0. -/
theorem test_prstAssertion :
    seen (exec (.prstAssertion .c) base)
      (fun t => ((portAt t .c).state, (portAt t .c).lastCause, t.walkList, t.walkPos)) =
      some (.teardown, .prst, [.c], 0) := by decide

theorem test_prstDeassertion :
    seen (exec (.prstDeassertion .c) (setPrst .c true base))
      (fun t => ((portAt t .c).prst, (portAt t .c).state)) = some (false, .attached) := by decide

/-! ### Windows: section 3.10, buffer 9/2 on pages 120 and 121 -/

/-- W1 of port A MAPPED WRITE on 9/2. -/
def walking (index : Nat) (cursor : Fin 64) (ends : Bool) : State :=
  showing .a .w1 (.mapped { window 9 2 .write 2 index cursor with endFlag := ends })
    (withBuffer 9 2 (rec .a (.held noPorts) [120, 121]) [120, 121] base)

/-- The position, END and OVR of port A's W1. -/
def position (t : State) : Option (Nat × Nat × Bool × Bool) :=
  match (portAt t .a).w1 with
  | .mapped m => some (m.pageIndex, m.cursor.val, m.endFlag, m.ovr)
  | _ => none

/-- Step 1. -/
theorem test_cursorWrite :
    seen (exec (.cursorWrite .a .w1 62) (walking 0 0 false)) position =
      some (some (0, 62, false, false)) := by decide

/-- Steps 2 and 3; and a read whose strobe drops before RDY, which advances too (R205). -/
theorem test_cursorDataPortAccess_write :
    seen (exec (.cursorDataPortAccess .a .w1 (.write 0x22)) (walking 0 63 false))
      (fun t => (position t, memRead t.mem (120 * 64 + 63))) =
      some (some (1, 0, false, false), 0x22) ∧
    seen (exec (.cursorDataPortAccess .a .w1 .readLost) (walking 0 63 false))
      (fun t => (position t, (portAt t .a).dataOut)) = some (some (1, 0, false, false), none) :=
  ⟨by decide, by decide⟩

/-- Steps 6 and 7: the last byte sets END; with END set the access is discarded and sets OVR. -/
theorem test_cursorDataPortAccess_end :
    seen (exec (.cursorDataPortAccess .a .w1 (.write 0x33)) (walking 1 63 false)) position =
      some (some (1, 63, true, false)) ∧
    seen (exec (.cursorDataPortAccess .a .w1 (.write 0x44)) (walking 1 63 true)) position =
      some (some (1, 63, true, true)) := by decide

/-- Step 4: CURSOR_RANGE at offset 0x45 with value 64. -/
theorem test_cursorWrite_range :
    seen (exec (.cursorWrite .a .w1 64) (walking 1 0 false)) (fun t => (portAt t .a).fault) =
      some (some ⟨.cursorRange, 0x45, .write 64, false⟩) := by decide

/-- Step 11, at length copy 2: a page index below it is set and clears END. -/
theorem test_pageIndexWrite :
    seen (exec (.pageIndexWrite .a .w1 1) (walking 0 63 true)) position =
      some (some (1, 63, false, false)) := by decide

/-- W0 of port A MAPPED WRITE on 9/2. -/
def viewing (mode : MapMode) : State :=
  showing .a .w0 (.mapped (window 9 2 mode 2 1 0))
    (withBuffer 9 2 (rec .a (.held noPorts) [120, 121]) [120, 121] base)

theorem test_w0DirectViewAccess :
    seen (exec (.w0DirectViewAccess .a 63 (.write 0x5A)) (viewing .write))
      (fun t => memRead t.mem (121 * 64 + 63)) = some 0x5A := by decide

theorem test_w0DirectViewAccess_readonly :
    seen (exec (.w0DirectViewAccess .a 3 (.write 0x5A)) (viewing .read))
      (fun t => ((portAt t .a).fault, t.mem)) =
      some (some ⟨.readonlyWrite, 3, .write 0x5A, false⟩, []) := by decide

theorem test_unmap :
    seen (exec (.unmap .a .w0) (viewing .write)) (fun t => (portAt t .a).w0) = some .empty := by
  decide

theorem test_swap :
    seen (exec (.swap .a) (viewing .write)) (fun t => ((portAt t .a).w0, (portAt t .a).saved)) =
      some (.empty, .mapped (window 9 2 .write 2 1 0)) := by decide

/-- Step 14. -/
theorem test_clearOvr :
    seen (exec (.clearOvr .a)
        (showing .a .w1 (.void { window 9 2 .write 3 2 0 with ovr := true }) base))
      (fun t => (portAt t .a).w1) = some (.void (window 9 2 .write 3 2 0)) := by decide

theorem witness_DirectViewServed (acc : Access) :
    (viewing .write).rst = false ∧
    (portAt (viewing .write) .a).w0 = .mapped (window 9 2 .write 2 1 0) ∧
    (∀ v, acc = .write v → (window 9 2 .write 2 1 0).mode = .write) ∧
    memGrant (.host .a) (viewing .write) =
      some { viewing .write with memLast := .host .a } ∧
    resolveIndex { viewing .write with memLast := .host .a } 9 1 = some 121 ∧
    moverWaiting (viewing .write) = false :=
  ⟨rfl, rfl, fun _ _ => rfl, rfl, rfl, rfl⟩

/-- Each of the three advances, with every access. -/
theorem witness_DataPortServed (index : Nat) (cursor : Fin 64) (pg : PageNo) (acc : Access)
    (h : (index, cursor, pg) ∈ [(0, 62, 120), (0, 63, 120), (1, 63, (121 : PageNo))]) :
    (walking index cursor false).rst = false ∧
    slotAt .w1 (portAt (walking index cursor false) .a) =
      .mapped (window 9 2 .write 2 index cursor) ∧
    (∀ v, acc = .write v → (window 9 2 .write 2 index cursor).mode = .write) ∧
    (window 9 2 .write 2 index cursor).endFlag = false ∧
    memGrant (.host .a) (walking index cursor false) =
      some { walking index cursor false with memLast := .host .a } ∧
    resolveIndex { walking index cursor false with memLast := .host .a } 9 index = some pg := by
  simp only [List.mem_cons, Prod.mk.injEq, List.not_mem_nil, or_false] at h
  rcases h with ⟨rfl, rfl, rfl⟩ | ⟨rfl, rfl, rfl⟩ | ⟨rfl, rfl, rfl⟩ <;>
    exact ⟨rfl, rfl, fun _ _ => rfl, rfl, rfl, rfl⟩

/-- Both slots of port A VOID. -/
def voidSlots : State :=
  showing .a .w0 (.void (window 9 2 .read 2 1 0))
    (showing .a .w1 (.void (window 9 2 .read 2 1 0)) base)

theorem witness_DiscardedAccesses :
    (voidSlots.rst = false ∧ (portAt voidSlots .a).w0 = .void (window 9 2 .read 2 1 0) ∧
      slotAt .w1 (portAt voidSlots .a) = .void (window 9 2 .read 2 1 0)) ∧
    ((walking 1 63 true).rst = false ∧
      slotAt .w1 (portAt (walking 1 63 true) .a) =
        .mapped { window 9 2 .write 2 1 63 with endFlag := true } ∧
      (∀ v, Access.write 0x44 = .write v →
        ({ window 9 2 .write 2 1 63 with endFlag := true } : Mapping).mode = .write)) :=
  ⟨⟨rfl, rfl, rfl⟩, rfl, rfl, fun _ _ => rfl⟩

/-- Port A's fault policy is DETACH. -/
def detaching (s : State) : State :=
  { s with cfg := { s.cfg with policy := perSet s.cfg.policy .a .detach } }

/-- Every fault kind, and each of the three clauses. -/
theorem witness_HostFaults :
    faultOf base (.w0DirectViewAccess .a 63 .read) = some (.a, .unmappedAccess, 63, .read) ∧
    faultOf (viewing .read) (.w0DirectViewAccess .a 0 (.write 1)) =
      some (.a, .readonlyWrite, 0, .write 1) ∧
    faultOf (walking 0 0 false) (.cursorWrite .a .w1 64) =
      some (.a, .cursorRange, 0x45, .write 64) ∧
    faultOf (walking 0 0 false) (.pageIndexWrite .a .w1 2) =
      some (.a, .cursorRange, 0x46, .write 2) ∧
    faultOf base (.cursorDataPortAccess .a .w0 .read) = some (.a, .unmappedAccess, 0x40, .read) ∧
    faultOf base (.hostLocationWrite .a 0x7F 1) =
      some (.a, .writeToReadOnlyLocation, 0x7F, .write 1) ∧
    faultOf (posting .a 0x10 [] base) (.postCommand .a 2) =
      some (.a, .postWhileBusy, 0x60, .write 2) ∧
    (base.rst = false ∧ attached base .a = true ∧ perGet base.cfg.policy .a = .report) ∧
    (attached (detaching base) .a = true ∧ perGet (detaching base).cfg.policy .a = .detach ∧
      faultOf (detaching base) (.w0DirectViewAccess .a 0 .read) =
        some (.a, .unmappedAccess, 0, .read)) ∧
    (attached State.reset .a = false ∧
      faultOf State.reset (.w0DirectViewAccess .a 0 .read) =
        some (.a, .unmappedAccess, 0, .read)) :=
  ⟨rfl, rfl, rfl, rfl, rfl, rfl, rfl, ⟨rfl, rfl, rfl⟩, ⟨rfl, rfl, rfl⟩, rfl, rfl⟩

/-- The range clause and the EMPTY clause under either policy and at a DETACHED port. -/
theorem witness_CursorWriteRule :
    ((walking 0 0 true).rst = false ∧
      slotAt .w1 (portAt (walking 0 0 true) .a) =
        .mapped { window 9 2 .write 2 0 0 with endFlag := true } ∧ (63 : Byte).toNat < 64) ∧
    (64 ≤ (64 : Byte).toNat ∧ attached (walking 0 0 true) .a = true ∧
      perGet (walking 0 0 true).cfg.policy .a = .report ∧
      perGet (detaching (walking 0 0 true)).cfg.policy .a = .detach) ∧
    (voidSlots.rst = false ∧
      slotAt .w1 (portAt voidSlots .a) = .void (window 9 2 .read 2 1 0)) ∧
    (base.rst = false ∧ slotAt .w1 (portAt base .a) = .empty) ∧
    (State.reset.rst = false ∧ slotAt .w1 (portAt State.reset .a) = .empty ∧
      attached State.reset .a = false) := by decide

theorem witness_PageIndexWriteRule :
    (walking 0 0 true).rst = false ∧
    slotAt .w1 (portAt (walking 0 0 true) .a) =
      .mapped { window 9 2 .write 2 0 0 with endFlag := true } ∧
    (1 : Byte).toNat < ({ window 9 2 .write 2 0 0 with endFlag := true } : Mapping).lengthCopy := by
  decide

theorem witness_WindowControl :
    base.rst = false ∧ ((0 : Byte).toNat = 0 ∨ 4 < (0 : Byte).toNat) ∧
    ((5 : Byte).toNat = 0 ∨ 4 < (5 : Byte).toNat) := by decide

/-! ### The other locations -/

theorem witness_PlainHostWrites :
    base.rst = false ∧ (0x50 ≤ (0x50 : Fin 128).val ∧ (0x50 : Fin 128).val ≤ 0x5F) ∧
    (0x50 ≤ (0x5F : Fin 128).val ∧ (0x5F : Fin 128).val ≤ 0x5F) := by decide

theorem test_hostLocationWrite :
    seen (exec (.hostLocationWrite .b 0x52 0xAB) base)
      (fun t => byteAt (portAt t .b).cmd.params 2) = some 0xAB := by decide

theorem test_hostLocationWrite_readOnly :
    seen (exec (.hostLocationWrite .b 0x62 0xAB) base) (fun t => (portAt t .b).fault) =
      some (some ⟨.writeToReadOnlyLocation, 0x62, .write 0xAB, false⟩) := by decide

/-- A DONE slot at port A. -/
def doneSlot : State :=
  updPort .a (fun hp => { hp with cmd := { hp.cmd with state := .done } }) base

theorem witness_PostCommandRule :
    base.rst = false ∧ (portAt base .a).cmd.state = .idle ∧
    doneSlot.rst = false ∧ (portAt doneSlot .a).cmd.state = .done := by decide

theorem test_postCommand :
    seen (exec (.postCommand .a 0x14) doneSlot)
      (fun t => ((portAt t .a).cmd.state, (portAt t .a).cmd.postedCode, t.tcGrant)) =
      some (.pending, 0x14, some (.port .a)) := by decide

theorem test_postCommand_busy :
    seen (exec (.postCommand .a 0x14) (posting .a 0x10 [] base))
      (fun t => ((portAt t .a).cmd.postedCode, (portAt t .a).fault)) =
      some (0x10, some ⟨.postWhileBusy, 0x60, .write 0x14, false⟩) := by decide

theorem test_acknowledge :
    seen (exec (.acknowledge .a 0) doneSlot) (fun t => (portAt t .a).cmd.state) = some .idle := by
  decide

theorem test_pop :
    seen (exec (.pop .b 0) (queued .b 2 base)) (fun t => (portAt t .b).queue.length) = some 1 := by
  decide

theorem test_attentionEnablesWrite :
    seen (exec (.attentionEnablesWrite .b 0xF1) (queued .b 1 base))
      (fun t => ((portAt t .b).enables, atnLevel (portAt t .b))) =
      some (⟨true, false, false, false⟩, true) := by decide

theorem test_clearFaultRecord :
    seen (exec (.clearFaultRecord .a 9)
        (updPort .a (fun hp =>
          { hp with fault := some ⟨.cursorRange, 0x45, .write 64, false⟩ }) base))
      (fun t => (portAt t .a).fault) = some none := by decide

theorem test_bothStrobesCycle :
    seen (exec (.bothStrobesCycle .a) (updPort .a (fun hp => { hp with dataOut := some 7 }) base))
      (fun t => ((portAt t .a).dataOut, (portAt t .a).fault)) = some (none, none) := by decide

/-- Section 9.8, two buffers of port A, 4 and 5, its COPY BUSY with a job. -/
def copying (st : JobState) (page : Option PageWork) : State :=
  { updPort .a (fun hp => { hp with cmd := { slotOf 0x50 [] with state := .busy } })
      (withBuffer 4 0 { rec .a (.held noPorts) [10, 11] with marks := only .a } [10, 11]
        (withBuffer 5 0 { rec .a (.held noPorts) [12, 13] with marks := only .a } [12, 13] base))
    with jobs := perSet base.jobs .a (some ⟨⟨4, 0⟩, 0, ⟨5, 0⟩, 0, 2, 0, st⟩), page := page }

/-- Port A's slot BUSY with ALLOC. -/
def allocBusy : State :=
  updPort .a (fun hp => { hp with cmd := { slotOf 0x10 [1] with state := .busy } }) base

theorem witness_CancelRule :
    (base.rst = false ∧ (portAt (posting .a 0x50 [] base) .a).cmd.state = .pending ∧
      slotTaken (posting .a 0x50 [] base) .a = none) ∧
    ((portAt (copying .running none) .a).cmd.state = .busy ∧
      (portAt (copying .running none) .a).cmd.postedCode = 0x50 ∧
      jobAt (copying .running none) .a ≠ none) ∧
    ((portAt base .a).cmd.state = .idle ∧ (portAt doneSlot .a).cmd.state = .done) ∧
    (allocBusy.rst = false ∧ (portAt allocBusy .a).cmd.state = .busy ∧
      (portAt allocBusy .a).cmd.postedCode ≠ 0x50) := by decide

theorem test_cancel_pending :
    seen (exec (.cancel .a 0) (posting .a 0x10 [1] base))
      (fun t => ((portAt t .a).cmd.state, (portAt t .a).cmd.resultCode, t.tcGrant)) =
      some (.done, 0x15, none) := by decide

/-- Section 9.8: the job of a page in progress becomes STOPPING. -/
theorem test_cancel_copy :
    seen (exec (.cancel .a 0) (copying .running (some (.copyRead .a none))))
      (fun t => ((jobAt t .a).map Job.state, t.reports)) =
      some (some (.stopping .cancelled), []) := by decide

/-! ### Commands: codes, attachment, reports -/

/-- The commands whose handling may run on after a teardown start with an effect, but COPY. -/
def runnable (p : Port) : List (Instr × Command) :=
  [(.clearFault p, .clearFault), (.clearLost p, .clearLost),
    (.alloc p, .alloc), (.extend p, .extend), (.trim p, .trim), (.free p, .free), (.info p, .info),
    (.map p, .map), (.share p, .share), (.unshare p, .unshare), (.leave p, .leave),
    (.publish p, .publish), (.unpublish p, .unpublish), (.lookup p, .lookup),
    (.nextName p, .next), (.subscribe p, .subscribe), (.lend p, .lend), (.give p, .give),
    (.accept p, .accept), (.decline p, .decline), (.withdraw p, .withdraw),
    (.recall p, .recall), (.returnBuffer p, .ret)]

/-- A's FREE of 3/1, shared with B, taken before A's teardown started. -/
def freeingOn : State :=
  midway .a 0x13 [3, 0, 1] (withBuffer 3 1 (rec .a (.held (only .b)) [200, 201]) [200, 201] base)

/-- The record is retired and B is told; A's slot and the walk are as the start step left them. -/
theorem test_free_runsOn :
    seen (exec (.free .a) freeingOn)
      (fun t => (recAt t 3, (portAt t .b).queue, (portAt t .a).cmd.state, (portAt t .a).state,
        t.underway)) =
      some (⟨2, none⟩, [.revoked ⟨3, 1⟩ .freed], .idle, .teardown, none) := by decide

theorem witness_UnknownCodesAndDetachedPorts :
    Taken (posting .a 0x0F [] base) .a none ∧
    ((Instr.free .a, Command.free) ∈ runnable .a ∧
      Taken (posting .a 0x13 [] State.reset) .a (some .free) ∧
      attached (posting .a 0x13 [] State.reset) .a = false) ∧
    (Taken (posting .a 0x50 [] State.reset) .a (some .copy) ∧
      attached (posting .a 0x50 [] State.reset) .a = false) ∧
    (RunsOn freeingOn .a (some .free) { slotOf 0x13 [3, 0, 1] with state := .idle } ∧
      DirectoryLaw freeingOn ∧ (∀ id o, offerAt freeingOn id = some o → o.src ≠ o.dst) ∧
      ∃ u, exec (.free .a)
        (beforeStart freeingOn .a { slotOf 0x13 [3, 0, 1] with state := .idle }) = .next u) ∧
    (RunsOn (midway .a 0x0F [] base) .a none { slotOf 0x0F [] with state := .idle } ∧
      RunsOn (midway .a 0x01 [] base) .a (some .attach) { slotOf 0x01 [] with state := .idle } ∧
      RunsOn (midway .a 0x02 [] base) .a (some .detach) { slotOf 0x02 [] with state := .idle }) := by
  refine ⟨⟨rfl, rfl, rfl⟩, ⟨by decide, ⟨rfl, rfl, rfl⟩, rfl⟩, ⟨⟨rfl, rfl, rfl⟩, rfl⟩,
    ⟨⟨rfl, rfl, rfl, rfl, rfl, rfl, rfl, rfl, rfl, rfl, rfl, rfl⟩,
      ⟨by decide, by decide, fun e h => nomatch h⟩, (fun id o h => nomatch h), _, rfl⟩,
    ⟨rfl, rfl, rfl, rfl, rfl, rfl, rfl, rfl, rfl, rfl, rfl, rfl⟩,
    ⟨rfl, rfl, rfl, rfl, rfl, rfl, rfl, rfl, rfl, rfl, rfl, rfl⟩,
    ⟨rfl, rfl, rfl, rfl, rfl, rfl, rfl, rfl, rfl, rfl, rfl, rfl⟩⟩

theorem test_badCommand :
    seen (exec (.badCommand .a) (posting .a 0x51 [] base)) (fun t => (portAt t .a).cmd.resultCode) =
      some 0x05 := by decide

/-- A DETACHED port posts ATTACH. -/
def attaching (prst : Bool) : State := posting .d 0x01 [] (setPrst .d prst State.reset)

/-- Port A is live in buffer 3/1 of length 2, with a result to see: section 5.8. -/
def owning (code : Byte) (params : List Byte) : State :=
  posting .a code params
    (withBuffer 3 1 (rec .a (.held (only .b)) [200, 201]) [200, 201] base)

theorem witness_AttachAndReports :
    (Taken (attaching false) .d (some .attach) ∧
      (portAt (attaching false) .d).state = .detached ∧ (portAt (attaching false) .d).prst = false) ∧
    Ready (posting .a 0x03 [] base) .a .clearFault ∧ Ready (posting .a 0x04 [] base) .a .clearLost ∧
    (Ready (owning 0x14 [3, 0, 1]) .a .info ∧
      checkHandle (owning 0x14 [3, 0, 1]) .a 0 =
        .ok (3, rec .a (.held (only .b)) [200, 201])) :=
  ⟨⟨⟨rfl, rfl, rfl⟩, rfl, rfl⟩, ⟨⟨rfl, rfl, rfl⟩, rfl⟩, ⟨⟨rfl, rfl, rfl⟩, rfl⟩,
    ⟨⟨rfl, rfl, rfl⟩, rfl⟩, rfl⟩

theorem test_attach :
    seen (exec (.attach .d) (attaching false))
      (fun t => ((portAt t .d).state, (portAt t .d).cmd.resultCode)) = some (.attached, 0x01) := by
  decide

theorem test_clearFault :
    seen (exec (.clearFault .a) (posting .a 0x03 []
        (updPort .a (fun hp => { hp with fault := some ⟨.cursorRange, 0x45, .write 64, true⟩ }) base)))
      (fun t => ((portAt t .a).fault, (portAt t .a).cmd.resultArea.take 4)) =
      some (none, [0x03, 0x45, 0x40, 0x03]) := by decide

/-- Section 8.7, step 8. -/
theorem test_clearLost :
    seen (exec (.clearLost .b) (posting .b 0x04 []
        (updPort .b (fun hp => { hp with lost := true }) base)))
      (fun t => ((portAt t .b).lost, (portAt t .b).cmd.resultArea.take 2)) =
      some (false, [1, 0]) := by decide

/-- State HELD, access READ_WRITE, owner A, share set {B}, length 2, 1 buffer and 2 pages. -/
theorem test_info :
    seen (exec (.info .a) (owning 0x14 [3, 0, 1])) (fun t => (portAt t .a).cmd.resultArea) =
      some [0x21, 0x00, 0x02, 0x02, 0, 0, 0, 1, 0, 2, 0, 0] := by decide

/-- Port A in TEARDOWN. -/
def gone : State := updPort .a (fun hp => { hp with state := .teardown }) base

theorem witness_DetachRule :
    Ready (posting .a 0x02 [] base) .a .detach ∧
    (Taken (posting .a 0x02 [] State.reset) .a (some .detach) ∧
      (portAt (posting .a 0x02 [] State.reset) .a).state = .detached) ∧
    (Taken (posting .a 0x02 [] gone) .a (some .detach) ∧
      (portAt (posting .a 0x02 [] gone) .a).state = .teardown) :=
  ⟨⟨⟨rfl, rfl, rfl⟩, rfl⟩, ⟨⟨rfl, rfl, rfl⟩, rfl⟩, ⟨rfl, rfl, rfl⟩, rfl⟩

theorem test_detach :
    seen (exec (.detach .a) (posting .a 0x02 [] base))
      (fun t => ((portAt t .a).state, (portAt t .a).cmd.state, t.walkList)) =
      some (.teardown, .done, [.a]) := by decide

/-! ### Commands: owning buffers -/

theorem witness_LinkedChain : ([40, 41, 42] : List PageNo).Nodup := by decide

/-- Section 1.9, step 1: record 5 VACANT with generation 3, records 0 to 4 live. -/
def allocating (n : Nat) : State :=
  posting .a 0x10 [byteOf n] { base with
    buffers := (List.range 5).map (fun b => (b, ⟨0, some (rec .c (.held noPorts) [1])⟩)) ++
      [(5, ⟨3, none⟩)]
    freeList := pagesFrom 40 32 }

theorem test_alloc :
    seen (exec (.alloc .a) (allocating 2))
      (fun t => (recAt t 5, entryAt t 40, entryAt t 41, t.freeList.head?,
        (portAt t .a).cmd.resultArea.take 4)) =
      some (⟨3, some (rec .a (.held noPorts) [40, 41])⟩, .chained 5 (some 41), .chained 5 none,
        some 42, [5, 0, 3, 2]) := by decide

/-- Section 2.6: 4 pages asked for, 3 present. -/
theorem test_alloc_noPages :
    seen (exec (.alloc .a) (posting .a 0x10 [4] { base with freeList := [0, 1, 2] }))
      (fun t => ((portAt t .a).cmd.resultCode, t.freeList)) =
      some (resultCode .noPages, [0, 1, 2]) := by decide

theorem witness_AllocRule (n : Nat) (h : n ∈ [1, 32]) :
    Ready (allocating n) .a .alloc ∧ n = (param (allocating n) .a 0).toNat ∧ 1 ≤ n ∧ n ≤ 32 ∧
    (countsAt (allocating n) .a).buffers + 1 ≤ perGet (allocating n).cfg.bufQuota .a ∧
    (countsAt (allocating n) .a).pages + n ≤ perGet (allocating n).cfg.pageQuota .a ∧
    liveAt (allocating n) 5 = none ∧ (∀ c, c < 5 → liveAt (allocating n) c ≠ none) ∧
    n ≤ (allocating n).freeList.length := by
  have low : ∀ n, ∀ c : BufNo, c < 5 → liveAt (allocating n) c ≠ none := by
    intro n c hc
    obtain ⟨c, h'⟩ := c
    have hc : c < 5 := hc
    interval_cases c <;> exact fun h => nomatch h
  simp only [List.mem_cons, List.not_mem_nil, or_false] at h
  rcases h with rfl | rfl <;>
    exact ⟨⟨⟨rfl, rfl, rfl⟩, rfl⟩, rfl, by decide, by decide, by decide, by decide, rfl, low _, by decide⟩

/-- Section 1.9, step 3, from length 31 to the longest: record 5 chained on pages 40 to 70. -/
def extending : State :=
  showing .b .w0 (.mapped (window 5 3 .read 31 1 0))
    (posting .a 0x11 [5, 0, 3, 1] { withBuffer 5 3 (rec .a (.held (only .b)) (pagesFrom 40 31))
      (pagesFrom 40 31) base with freeList := [71, 72] })

theorem test_extend :
    seen (exec (.extend .a) extending)
      (fun t => (entryAt t 70, entryAt t 71, (portAt t .b).w0, countsAt t .a)) =
      some (.chained 5 (some 71), .chained 5 none, .mapped (window 5 3 .read 32 1 0), ⟨1, 32⟩) := by
  decide

theorem witness_ExtendRule :
    Ready extending .a .extend ∧
    checkHandle extending .a 0 = .ok (5, rec .a (.held (only .b)) (pagesFrom 40 31)) ∧
    1 = (param extending .a 3).toNat ∧ isHeld (rec .a (.held (only .b)) (pagesFrom 40 31)) = true ∧
    (rec .a (.held (only .b)) (pagesFrom 40 31)).length + 1 ≤ 32 ∧
    (countsAt extending .a).pages + 1 ≤ perGet extending.cfg.pageQuota .a ∧
    1 ≤ extending.freeList.length :=
  ⟨⟨⟨rfl, rfl, rfl⟩, rfl⟩, rfl, rfl, rfl, by decide, by decide, by decide⟩

/-- Section 1.9, step 4: TRIM of 5/3, length 3, by 2. -/
def trimming : State :=
  showing .b .w0 (.mapped (window 5 3 .read 3 1 0))
    (posting .a 0x12 [5, 0, 3, 2]
      (withBuffer 5 3 (rec .a (.held (only .b)) [40, 41, 42]) [40, 41, 42] base))

theorem test_trim :
    seen (exec (.trim .a) trimming)
      (fun t => (liveAt t 5, t.scrubQueue, (portAt t .b).w0, (portAt t .b).queue)) =
      some (some (rec .a (.held (only .b)) [40]), [41, 42], .void (window 5 3 .read 3 1 0),
        [.revoked ⟨5, 3⟩ .trim]) := by decide

theorem witness_TrimRule :
    Ready trimming .a .trim ∧
    checkHandle trimming .a 0 = .ok (5, rec .a (.held (only .b)) [40, 41, 42]) ∧
    2 = (param trimming .a 3).toNat ∧ isHeld (rec .a (.held (only .b)) [40, 41, 42]) = true ∧
    2 < (rec .a (.held (only .b)) [40, 41, 42]).length ∧
    isEmptySet (rec .a (.held (only .b)) [40, 41, 42]).marks = true ∧
    ((chainOf trimming (rec .a (.held (only .b)) [40, 41, 42])).take 1).getLast? = some 40 :=
  ⟨⟨⟨rfl, rfl, rfl⟩, rfl⟩, rfl, rfl, rfl, by decide, rfl, rfl⟩

/-- Section 5.8, step 8: B receives REVOKED (3/1, FREE), record 3 is VACANT, generation 2. -/
theorem test_free :
    seen (exec (.free .a) (owning 0x13 [3, 0, 1]))
      (fun t => (recAt t 3, t.scrubQueue, (portAt t .b).queue, countsAt t .a)) =
      some (⟨2, none⟩, [200, 201], [.revoked ⟨3, 1⟩ .freed], ⟨0, 0⟩) := by decide

theorem witness_FreeRule :
    Ready (owning 0x13 [3, 0, 1]) .a .free ∧
    checkHandle (owning 0x13 [3, 0, 1]) .a 0 = .ok (3, rec .a (.held (only .b)) [200, 201]) ∧
    isHeld (rec .a (.held (only .b)) [200, 201]) = true ∧
    isEmptySet (rec .a (.held (only .b)) [200, 201]).marks = true :=
  ⟨⟨⟨rfl, rfl, rfl⟩, rfl⟩, rfl, rfl, rfl⟩

/-- Section 3.10: MAP of window 1 on 9/2, mode WRITE. -/
def mapping (index : Byte) : State :=
  posting .a 0x20 [9, 0, 2, 1, 2, index]
    (withBuffer 9 2 (rec .a (.held noPorts) [120, 121]) [120, 121] base)

theorem test_map :
    seen (exec (.map .a) (mapping 0)) (fun t => (portAt t .a).w1) =
      some (.mapped (window 9 2 .write 2 0 0)) := by decide

theorem witness_MapRule :
    Ready (mapping 1) .a .map ∧
    checkHandle (mapping 1) .a 0 = .ok (9, rec .a (.held noPorts) [120, 121]) ∧
    windowOf (param (mapping 1) .a 3) = some .w1 ∧ mapModeOf (param (mapping 1) .a 4) = some .write ∧
    allows (access (rec .a (.held noPorts) [120, 121]) .a) .write = true ∧
    (param (mapping 1) .a 5).toNat < (rec .a (.held noPorts) [120, 121]).length :=
  ⟨⟨⟨rfl, rfl, rfl⟩, rfl⟩, rfl, rfl, rfl, rfl, by decide⟩

/-! ### Commands: sharing and the Directory (sections 6.9 and 8.7) -/

/-- Section 6.9: buffer 7/2 of A with a share set, buffer 2/0 of B, and the three entries. -/
def directory (share : PortSet) : State :=
  { withBuffer 7 2 (rec .a (.held share) [70, 71, 72]) [70, 71, 72]
      (withBuffer 2 0 (rec .b (.held noPorts) [20]) [20] base)
    with dir := [⟨150, ⟨2, 0⟩, .b, .openMode⟩, ⟨320, ⟨7, 2⟩, .a, .openMode⟩,
      ⟨900, ⟨7, 2⟩, .a, .listed⟩] }

/-- Step 6, with a queue as full as a refusable notice allows. -/
def sharing (n : Nat) : State := queued .d n (posting .a 0x30 [7, 0, 2, 3] (directory (only .c)))

theorem test_share :
    seen (exec (.share .a) (sharing 0))
      (fun t => ((portAt t .d).queue, (portAt t .a).cmd.resultArea.headD 0)) =
      some ([.granted ⟨7, 2⟩ .a], 0x0C) := by decide

/-- Section 8.7, step 3. -/
theorem test_share_queueFull :
    seen (exec (.share .a) (sharing 13)) (fun t => (portAt t .a).cmd.resultCode) =
      some (resultCode .queueFull) := by decide

theorem witness_ShareRule :
    Ready (sharing 12) .a .share ∧
    checkHandle (sharing 12) .a 0 = .ok (7, rec .a (.held (only .c)) [70, 71, 72]) ∧
    isHeld (rec .a (.held (only .c)) [70, 71, 72]) = true ∧
    portOf (param (sharing 12) .a 3) = some .d ∧ attached (sharing 12) .d = true ∧
    perGet (shareOf (rec .a (.held (only .c)) [70, 71, 72])) .d = false ∧
    (portAt (sharing 12) .d).queue.length ≤ 12 :=
  ⟨⟨⟨rfl, rfl, rfl⟩, rfl⟩, rfl, rfl, rfl, rfl, rfl, by decide⟩

/-- Step 7: D, in the share set with W0 on 7/2, posts LEAVE. -/
def leaving : State :=
  posting .d 0x32 [7, 0, 2]
    (showing .d .w0 (.mapped (window 7 2 .read 3 0 0)) (directory (only .d)))

theorem test_leave :
    seen (exec (.leave .d) leaving)
      (fun t => ((portAt t .d).w0, (portAt t .d).cmd.resultArea.headD 0, (portAt t .a).queue)) =
      some (.void (window 7 2 .read 3 0 0), 1, [.left ⟨7, 2⟩ .d .leave]) := by decide

/-- A posts UNSHARE of 7/2 from D. -/
def unsharing : State :=
  posting .a 0x31 [7, 0, 2, 3]
    (showing .d .w0 (.mapped (window 7 2 .read 3 0 0)) (directory (only .d)))

theorem test_unshare :
    seen (exec (.unshare .a) unsharing)
      (fun t => ((portAt t .d).w0, (portAt t .d).queue, (portAt t .a).cmd.resultArea.take 2)) =
      some (.void (window 7 2 .read 3 0 0), [.revoked ⟨7, 2⟩ .unshare], [0, 1]) := by decide

theorem witness_UnshareAndLeave :
    (Ready unsharing .a .unshare ∧
      checkHandle unsharing .a 0 = .ok (7, rec .a (.held (only .d)) [70, 71, 72]) ∧
      portOf (param unsharing .a 3) = some .d ∧
      perGet (shareOf (rec .a (.held (only .d)) [70, 71, 72])) .d = true ∧
      perGet (rec .a (.held (only .d)) [70, 71, 72]).marks .d = false) ∧
    (Ready leaving .d .leave ∧
      checkHandle leaving .d 0 = .ok (7, rec .a (.held (only .d)) [70, 71, 72])) :=
  ⟨⟨⟨⟨rfl, rfl, rfl⟩, rfl⟩, rfl, rfl, rfl, rfl⟩, ⟨⟨rfl, rfl, rfl⟩, rfl⟩, rfl⟩

/-- Step 2: PUBLISH with name 320 between 150 and 900. -/
def publishing : State :=
  posting .a 0x38 [7, 0, 2, 0x40, 0x01, 1]
    { directory noPorts with
      dir := [⟨150, ⟨2, 0⟩, .b, .openMode⟩, ⟨900, ⟨7, 2⟩, .a, .listed⟩] }

theorem test_publish :
    seen (exec (.publish .a) publishing)
      (fun t => (t.dir, (portAt t .a).cmd.resultArea.headD 0)) =
      some ((directory noPorts).dir, 3) := by decide

/-- NEXT 150 and LOOKUP 320, posted by C: steps 3 and 4. -/
def naming (code : Byte) (lo hi : Byte) : State := posting .c code [lo, hi] (directory noPorts)

theorem test_nextName :
    seen (exec (.nextName .c) (naming 0x3B 150 0)) (fun t => (portAt t .c).cmd.resultArea.take 8) =
      some [0x40, 0x01, 7, 0, 2, 0, 1, 3] := by decide

theorem test_lookup :
    seen (exec (.lookup .c) (naming 0x3A 0x40 0x01))
      (fun t => (portAt t .c).cmd.resultArea.take 6) = some [7, 0, 2, 0, 1, 3] := by decide

theorem witness_PublishAndLookup :
    (Ready publishing .a .publish ∧
      checkHandle publishing .a 0 = .ok (7, rec .a (.held noPorts) [70, 71, 72]) ∧
      320 = paramNum publishing .a 3 ∧ dirModeOf (param publishing .a 5) = some .openMode ∧
      (∀ e ∈ publishing.dir, e.name ≠ 320) ∧ publishing.dir.length < 64) ∧
    (Ready (naming 0x3A 0x40 0x01) .c .lookup ∧ 320 = paramNum (naming 0x3A 0x40 0x01) .c 0 ∧
      (naming 0x3A 0x40 0x01).dir.find? (fun x => x.name = 320) =
        some ⟨320, ⟨7, 2⟩, .a, .openMode⟩ ∧
      liveAt (naming 0x3A 0x40 0x01) 7 = some (rec .a (.held noPorts) [70, 71, 72])) ∧
    (Ready (naming 0x3B 150 0) .c .next ∧
      (naming 0x3B 150 0).dir.find? (fun x => paramNum (naming 0x3B 150 0) .c 0 < x.name) =
        some ⟨320, ⟨7, 2⟩, .a, .openMode⟩ ∧
      liveAt (naming 0x3B 150 0) 7 = some (rec .a (.held noPorts) [70, 71, 72])) :=
  ⟨⟨⟨⟨rfl, rfl, rfl⟩, rfl⟩, rfl, rfl, rfl, by decide, by decide⟩, ⟨⟨⟨rfl, rfl, rfl⟩, rfl⟩, rfl, rfl, rfl⟩,
    ⟨⟨rfl, rfl, rfl⟩, rfl⟩, rfl, rfl⟩

/-- Step 8: UNPUBLISH 320 by A, and the refusals: name 0, no entry, another publisher. -/
def unpublishing (lo hi : Byte) : State := posting .a 0x39 [lo, hi] (directory noPorts)

theorem test_unpublish :
    seen (exec (.unpublish .a) (unpublishing 0x40 0x01))
      (fun t => (t.dir.map DirEntry.name, (portAt t .a).cmd.resultArea.take 4)) =
      some ([150, 900], [7, 0, 2, 2]) := by decide

theorem witness_UnpublishRule :
    (Ready (unpublishing 0 0) .a .unpublish ∧ 0 = paramNum (unpublishing 0 0) .a 0) ∧
    (Ready (unpublishing 1 0) .a .unpublish ∧ 1 = paramNum (unpublishing 1 0) .a 0 ∧
      ∀ e ∈ (unpublishing 1 0).dir, e.name ≠ 1) ∧
    (Ready (unpublishing 150 0) .a .unpublish ∧ 150 = paramNum (unpublishing 150 0) .a 0 ∧
      (unpublishing 150 0).dir.find? (fun x => x.name = 150) =
        some ⟨150, ⟨2, 0⟩, .b, .openMode⟩) ∧
    (Ready (unpublishing 0x40 1) .a .unpublish ∧ 320 = paramNum (unpublishing 0x40 1) .a 0 ∧
      (unpublishing 0x40 1).dir.find? (fun x => x.name = 320) =
        some ⟨320, ⟨7, 2⟩, .a, .openMode⟩) :=
  ⟨⟨⟨⟨rfl, rfl, rfl⟩, rfl⟩, rfl⟩, ⟨⟨⟨rfl, rfl, rfl⟩, rfl⟩, rfl, by decide⟩, ⟨⟨⟨rfl, rfl, rfl⟩, rfl⟩, rfl, rfl⟩,
    ⟨⟨rfl, rfl, rfl⟩, rfl⟩, rfl, rfl⟩

/-- Step 4: SUBSCRIBE 320 by C, A's queue holding 12 notices or none. -/
def subscribing (n : Nat) : State := queued .a n (naming 0x3C 0x40 0x01)

theorem test_subscribe :
    seen (exec (.subscribe .c) (subscribing 0))
      (fun t => ((portAt t .a).queue, (portAt t .c).cmd.resultArea.take 5)) =
      some ([.joined ⟨7, 2⟩ .c 320], [7, 0, 2, 3, 0]) := by decide

/-- Step 5. -/
theorem test_subscribe_notOpen :
    seen (exec (.subscribe .c) (naming 0x3C 0x84 0x03)) (fun t => (portAt t .c).cmd.resultCode) =
      some (resultCode .notOpen) := by decide

theorem witness_SubscribeRule :
    Ready (subscribing 12) .c .subscribe ∧ 320 = paramNum (subscribing 12) .c 0 ∧
    (subscribing 12).dir.find? (fun x => x.name = 320) = some ⟨320, ⟨7, 2⟩, .a, .openMode⟩ ∧
    liveAt (subscribing 12) 7 = some (rec .a (.held noPorts) [70, 71, 72]) ∧
    isHeld (rec .a (.held noPorts) [70, 71, 72]) = true ∧ attached (subscribing 12) .a = true ∧
    perGet (shareOf (rec .a (.held noPorts) [70, 71, 72])) .c = false ∧
    (portAt (subscribing 12) .a).queue.length ≤ 12 :=
  ⟨⟨⟨rfl, rfl, rfl⟩, rfl⟩, rfl, rfl, rfl, rfl, rfl, rfl, by decide⟩

/-! ### Commands: offers, lending, recall (section 7.9), copies (9.8) -/

/-- Buffer 12/5 of A on pages 610 and 611 in a state; entry 0 names 30/2, from C to D. -/
def lending (st : BufState) (more : List (Nat × Option Offer)) : State :=
  showing .a .w0 (.mapped (window 12 5 .write 2 0 0))
    { withBuffer 30 2 (rec .c (.offered 0) [30]) [30]
        (withBuffer 12 5 (rec .a st [610, 611]) [610, 611] base)
      with offers := (0, some ⟨.lend, .c, .d, ⟨30, 2⟩, 200⟩) :: more }

/-- Step 1: LEND or GIVE of 12/5 to B, its queue holding some notices. -/
def offering (code : Byte) (n : Nat) : State :=
  queued .b n (posting .a code [12, 0, 5, 1] (lending (.held noPorts) []))

theorem test_lend :
    seen (exec (.lend .a) (offering 0x40 0))
      (fun t => ((portAt t .b).queue, offerAt t 1, (portAt t .a).cmd.resultArea.take 3)) =
      some ([.offer 1 .lend .a ⟨12, 5⟩ 2], some ⟨.lend, .a, .b, ⟨12, 5⟩, 1000⟩, [1, 0xE8, 0x03]) := by
  decide

theorem test_give :
    seen (exec (.give .a) (offering 0x41 0)) (fun t => ((liveAt t 12).map Live.st, offerAt t 1)) =
      some (some (.offered 1), some ⟨.give, .a, .b, ⟨12, 5⟩, 1000⟩) := by decide

theorem witness_OfferRule (i : Instr) (c : Command) (code : Byte) (kind : OfferKind)
    (h : (i, c, code, kind) = (.lend .a, .lend, 0x40, .lend) ∨
      (i, c, code, kind) = (.give .a, .give, 0x41, .give)) :
    Ready (offering code 12) .a c ∧
    checkHandle (offering code 12) .a 0 = .ok (12, rec .a (.held noPorts) [610, 611]) ∧
    isHeld (rec .a (.held noPorts) [610, 611]) = true ∧
    isEmptySet (shareOf (rec .a (.held noPorts) [610, 611])) = true ∧
    portOf (param (offering code 12) .a 3) = some .b ∧ attached (offering code 12) .b = true ∧
    isEmptySet (rec .a (.held noPorts) [610, 611]).marks = true ∧
    offerAt (offering code 12) 1 = none ∧ (∀ j, j < 1 → offerAt (offering code 12) j ≠ none) ∧
    (portAt (offering code 12) .b).queue.length ≤ 12 := by
  rcases h with h | h <;> (simp only [Prod.mk.injEq] at h; obtain ⟨rfl, rfl, rfl, rfl⟩ := h) <;>
    exact ⟨⟨⟨rfl, rfl, rfl⟩, rfl⟩, rfl, rfl, rfl, rfl, rfl, rfl, rfl, by decide, by decide⟩

/-- Step 3: B answers offer 1 of 12/5. -/
def answering (code : Byte) (kind : OfferKind) : State :=
  posting .b code [12, 0, 5, 1]
    (lending (.offered 1) [(1, some ⟨kind, .a, .b, ⟨12, 5⟩, 963⟩)])

theorem test_accept_lend :
    seen (exec (.accept .b) (answering 0x42 .lend))
      (fun t => ((liveAt t 12).map Live.st, (portAt t .a).w0, (portAt t .a).queue)) =
      some (some (.lent .b), .void (window 12 5 .write 2 0 0), [.accepted 1 ⟨12, 5⟩ .b]) := by
  decide

theorem test_accept_give :
    seen (exec (.accept .b) (answering 0x42 .give))
      (fun t => ((liveAt t 12).map Live.owner, countsAt t .a, countsAt t .b)) =
      some (some .b, ⟨0, 0⟩, ⟨1, 2⟩) := by decide

theorem test_decline :
    seen (exec (.decline .b) (answering 0x43 .lend))
      (fun t => ((liveAt t 12).map Live.st, offerAt t 1, (portAt t .a).queue)) =
      some (some (.held noPorts), none, [.declined 1 ⟨12, 5⟩ .decline]) := by decide

theorem witness_AcceptRules (kind : OfferKind) :
    Ready (answering 0x42 kind) .b .accept ∧
    checkHandle (answering 0x42 kind) .b 0 = .ok (12, rec .a (.offered 1) [610, 611]) ∧
    (param (answering 0x42 kind) .b 3).toNat = (1 : OfferId).val ∧
    offerAt (answering 0x42 kind) 1 = some ⟨kind, .a, .b, ⟨12, 5⟩, 963⟩ ∧
    attached (answering 0x42 kind) .a = true ∧
    isEmptySet (rec .a (.offered 1) [610, 611]).marks = true ∧
    (countsAt (answering 0x42 kind) .b).buffers + 1 ≤
      perGet (answering 0x42 kind).cfg.bufQuota .b ∧
    (countsAt (answering 0x42 kind) .b).pages + (rec .a (.offered 1) [610, 611]).length ≤
      perGet (answering 0x42 kind).cfg.pageQuota .b := by
  cases kind <;> exact ⟨⟨⟨rfl, rfl, rfl⟩, rfl⟩, rfl, rfl, rfl, rfl, rfl, by decide, by decide⟩

/-- A withdraws offer 1, or asks to withdraw a buffer that is HELD; C asks for A's buffer. -/
def withdrawing (p : Port) (st : BufState) : State :=
  posting p 0x44 [12, 0, 5] (lending st [(1, some ⟨.lend, .a, .b, ⟨12, 5⟩, 963⟩)])

theorem test_withdraw :
    seen (exec (.withdraw .a) (withdrawing .a (.offered 1)))
      (fun t => ((liveAt t 12).map Live.st, (portAt t .b).queue)) =
      some (some (.held noPorts), [.withdrawn 1 ⟨12, 5⟩]) := by decide

theorem witness_DeclineAndWithdraw :
    (Ready (answering 0x43 .lend) .b .decline ∧
      checkHandle (answering 0x43 .lend) .b 0 = .ok (12, rec .a (.offered 1) [610, 611]) ∧
      (param (answering 0x43 .lend) .b 3).toNat = (1 : OfferId).val ∧
      offerAt (answering 0x43 .lend) 1 = some ⟨.lend, .a, .b, ⟨12, 5⟩, 963⟩) ∧
    (Ready (withdrawing .a (.offered 1)) .a .withdraw ∧
      checkHandle (withdrawing .a (.offered 1)) .a 0 = .ok (12, rec .a (.offered 1) [610, 611]) ∧
      offerAt (withdrawing .a (.offered 1)) 1 = some ⟨.lend, .a, .b, ⟨12, 5⟩, 963⟩) ∧
    (Ready (withdrawing .c (.offered 1)) .c .withdraw ∧
      checkHandle (withdrawing .c (.offered 1)) .c 0 = .ok (12, rec .a (.offered 1) [610, 611])) ∧
    (Ready (withdrawing .a (.held noPorts)) .a .withdraw ∧
      checkHandle (withdrawing .a (.held noPorts)) .a 0 =
        .ok (12, rec .a (.held noPorts) [610, 611]) ∧
      offerRefOf (rec .a (.held noPorts) [610, 611]) = none) ∧
    (Ready (posting .a 0x44 [0, 4, 0] base) .a .withdraw ∧
      checkHandle (posting .a 0x44 [0, 4, 0] base) .a 0 = .error .range) ∧
    (Ready (posting .a 0x44 [0xFF, 3, 0] base) .a .withdraw ∧
      checkHandle (posting .a 0x44 [0xFF, 3, 0] base) .a 0 = .error .badHandle) :=
  ⟨⟨⟨⟨rfl, rfl, rfl⟩, rfl⟩, rfl, rfl, rfl⟩, ⟨⟨⟨rfl, rfl, rfl⟩, rfl⟩, rfl, rfl⟩, ⟨⟨⟨rfl, rfl, rfl⟩, rfl⟩, rfl⟩,
    ⟨⟨⟨rfl, rfl, rfl⟩, rfl⟩, rfl, rfl⟩, ⟨⟨⟨rfl, rfl, rfl⟩, rfl⟩, rfl⟩, ⟨⟨rfl, rfl, rfl⟩, rfl⟩, rfl⟩

/-- Step 5: RECALL of 12/5, lent to B, with a grace period. -/
def recalling (lo hi : Byte) : State := posting .a 0x45 [12, 0, 5, lo, hi] (lending (.lent .b) [])

theorem test_recall :
    seen (exec (.recall .a) (recalling 0 0))
      (fun t => ((liveAt t 12).map Live.st, (portAt t .b).queue)) =
      some (some (.recalling .b 500), [.recall ⟨12, 5⟩ 500]) := by decide

/-- Step 7: RETURN of 12/5 by B, whose W0 is MAPPED; `forced` is the forced-return port. -/
def returning (forced : Option Port) : State :=
  showing .b .w0 (.mapped (window 12 5 .write 2 0 0)) (posting .b 0x46 [12, 0, 5]
    (withBuffer 12 5 { rec .a (.recalling .b 380) [610, 611] with forced := forced } [610, 611]
      base))

theorem test_returnBuffer :
    seen (exec (.returnBuffer .b) (returning none))
      (fun t => ((portAt t .b).w0, (portAt t .b).cmd.resultArea.headD 0, (portAt t .a).queue)) =
      some (.void (window 12 5 .write 2 0 0), 1, [.returned ⟨12, 5⟩ .returned]) := by decide

theorem test_returnBuffer_late :
    seen (exec (.returnBuffer .b) (returning (some .b)))
      (fun t => (portAt t .b).cmd.resultCode) = some (resultCode .late) := by decide

theorem witness_RecallAndReturn :
    (Ready (recalling 0 0) .a .recall ∧
      checkHandle (recalling 0 0) .a 0 = .ok (12, rec .a (.lent .b) [610, 611]) ∧
      paramNum (recalling 0 0) .a 3 = 0 ∧ paramNum (recalling 0xFF 0xFF) .a 3 = 65535) ∧
    (Ready (returning none) .b .ret ∧
      checkHandle (returning none) .b 0 = .ok (12, rec .a (.recalling .b 380) [610, 611]) ∧
      borrowerOf (rec .a (.recalling .b 380) [610, 611]) = some .b) ∧
    (Ready (returning (some .b)) .b .ret ∧
      checkHandle (returning (some .b)) .b 0 =
        .ok (12, { rec .a (.recalling .b 380) [610, 611] with forced := some .b })) :=
  ⟨⟨⟨⟨rfl, rfl, rfl⟩, rfl⟩, rfl, rfl, rfl⟩, ⟨⟨⟨rfl, rfl, rfl⟩, rfl⟩, rfl, rfl⟩, ⟨⟨rfl, rfl, rfl⟩, rfl⟩, rfl⟩

/-- COPY within buffer 4/0 of length 4, page 0 on, to page `j` on, 2 pages; a revocation waits on
the record or none does. -/
def posted50 (j : Byte) (r : Option Revocation) : State :=
  posting .a 0x50 [4, 0, 0, 0, 4, 0, 0, j, 2]
    (withBuffer 4 0 { rec .a (.held noPorts) [10, 11, 12, 13] with pendingRev := r }
      [10, 11, 12, 13] base)

theorem test_copy :
    seen (exec (.copy .a) (posted50 2 none))
      (fun t => (jobAt t .a, (liveAt t 4).map Live.marks, (portAt t .a).cmd.state)) =
      some (some ⟨⟨4, 0⟩, 0, ⟨4, 0⟩, 2, 2, 0, .running⟩, some (only .a), .busy) := by decide

/-- Refused, by a check or at a DETACHED port: the cancel-requested flag is cleared (R73). -/
theorem test_copy_refused :
    (∀ st, seen (exec (.copy .a) (updPort .a (fun hp =>
        { hp with state := st, cmd := { hp.cmd with cancelRequested := true } }) (posted50 1 none)))
      (fun t => ((portAt t .a).cmd.resultCode, (portAt t .a).cmd.cancelRequested, jobAt t .a)) =
      some (resultCode (if st = .attached then .overlap else .detached), false, none)) := by
  intro st; cases st <;> decide

theorem witness_CopyRule (r : Option Revocation) :
    Ready (posted50 2 r) .a .copy ∧
    checkHandle (posted50 2 r) .a 0 =
      .ok (4, { rec .a (.held noPorts) [10, 11, 12, 13] with pendingRev := r }) ∧
    checkHandle (posted50 2 r) .a 4 =
      .ok (4, { rec .a (.held noPorts) [10, 11, 12, 13] with pendingRev := r }) ∧
    0 = (param (posted50 2 r) .a 3).toNat ∧ 2 = (param (posted50 2 r) .a 7).toNat ∧
    2 = (param (posted50 2 r) .a 8).toNat ∧
    access { rec .a (.held noPorts) [10, 11, 12, 13] with pendingRev := r } .a = .readWrite ∧
    (0 + 2 ≤ 2 ∨ 2 + 2 ≤ 0) ∧ (portAt (posted50 2 r) .a).cmd.cancelRequested = false ∧
    copyPageOf (posted50 2 r).page .a = false :=
  ⟨⟨⟨rfl, rfl, rfl⟩, rfl⟩, rfl, rfl, rfl, rfl, rfl, rfl, .inl (by decide), rfl, rfl⟩

/-- The same COPY, taken before A's teardown started; a copy page of A in progress or none. -/
def copyingOn (page : Option PageWork) : State :=
  { midway .a 0x50 [4, 0, 0, 0, 4, 0, 0, 2, 2]
      (withBuffer 4 0 (rec .a (.held noPorts) [10, 11, 12, 13]) [10, 11, 12, 13] base) with
    page := page }

theorem witness_CopyRule_refused :
    Ready (posted50 1 none) .a .copy ∧ copyChecks .a (posted50 1 none) = .error .overlap :=
  ⟨⟨⟨rfl, rfl, rfl⟩, rfl⟩, rfl⟩

theorem witness_CopyRule_runsOn (page : Option PageWork) :
    RunsOn (copyingOn page) .a (some .copy)
      { slotOf 0x50 [4, 0, 0, 0, 4, 0, 0, 2, 2] with state := .idle } ∧
    copyChecks .a (beforeStart (copyingOn page) .a
      { slotOf 0x50 [4, 0, 0, 0, 4, 0, 0, 2, 2] with state := .idle }) =
      .ok ⟨⟨4, 0⟩, 0, ⟨4, 0⟩, 2, 2, 0, .running⟩ ∧
    liveAt (copyingOn page) 4 = some (rec .a (.held noPorts) [10, 11, 12, 13]) ∧
    copyPageOf (copyingOn none).page .a = false ∧
    copyPageOf (copyingOn (some (.copyRead .a none))).page .a = true :=
  ⟨⟨rfl, rfl, rfl, rfl, rfl, rfl, rfl, rfl, rfl, rfl, rfl, rfl⟩, rfl, rfl, rfl, rfl⟩

/-! ### Ticks, walks, job ends -/

theorem witness_DeadlineTickRule :
    (base.rst = false ∧ ({ base with pendingTicks := 255 } : State).pendingTicks ≤ 255) ∧
    (base.pending = [] ∧ base.prescaler + 1 < base.period) ∧
    ({ base with prescaler := 16127 } : State).period ≤
      ({ base with prescaler := 16127 } : State).prescaler + 1 := by decide

theorem test_deadlineTick :
    seen (exec .deadlineTick { base with pendingTicks := 254, prescaler := 9 })
      (fun t => (t.pendingTicks, t.prescaler)) = some (255, 0) ∧
    seen (exec .deadlineTick { base with pendingTicks := 255 }) (fun t => t.pendingTicks) =
      some 255 := by decide

/-- The pending ticks a handling takes. -/
def ticking (k : Nat) (s : State) : State :=
  { s with pendingTicks := k, tcGrant := some .tick }

/-- Section 8.7, step 6, with countdowns 4 and 5: offer 1 of 6/1 from A to B, and 22/0 of D
recalled from B with a mark of B on it or none; 12/5 lent, 30/0 held. -/
def deadlines (k n : Nat) (marks : PortSet) : State :=
  ticking k (withBuffer 22 0 { rec .d (.recalling .b n) [22] with marks := marks } [22]
    { withBuffer 6 1 (rec .a (.offered 1) [60, 61]) [60, 61]
        (withBuffer 12 5 (rec .a (.lent .c) [12]) [12] (withBuffer 30 0
          (rec .c (.held noPorts) [30]) [30] base))
      with offers := [(1, some ⟨.lend, .a, .b, ⟨6, 1⟩, 4⟩)] })

theorem test_tickHandling :
    seen (exec .tickHandling (deadlines 4 4 noPorts))
      (fun t => ((liveAt t 6).map Live.st, offerAt t 1, (liveAt t 22).map Live.forced,
        (portAt t .b).queue)) =
      some (some (.held noPorts), none, some (some .b),
        [.expired 1 ⟨6, 1⟩ .target, .revoked ⟨22, 0⟩ .expiry]) := by decide

/-- A handling in progress that took 3 ticks: those that have arrived since wait (R134). -/
def begun (k : Nat) (s : State) : State := { s with underway := some (.ticks k) }

theorem test_tickHandling_counts :
    seen (exec .tickHandling (deadlines 3 4 noPorts))
      (fun t => ((offerAt t 1).map Offer.countdown, (liveAt t 22).map Live.st, t.pendingTicks)) =
      some (some 1, some (.recalling .b 1), 0) ∧
    seen (exec .tickHandling (begun 3 (deadlines 9 4 noPorts)))
      (fun t => ((offerAt t 1).map Offer.countdown, t.pendingTicks)) = some (some 1, 9) := by
  decide

/-- Every inner clause: countdowns above and at the count, with and without the mark. -/
theorem witness_TickHandlingRule :
    granted (deadlines 4 4 noPorts) .tick = true ∧ TableLaw (deadlines 4 4 noPorts) ∧
    offerAt (deadlines 3 4 noPorts) 1 = some ⟨.lend, .a, .b, ⟨6, 1⟩, 4⟩ ∧
    offerAt (deadlines 3 4 noPorts) 0 = none ∧
    liveAt (deadlines 3 4 noPorts) 12 = some (rec .a (.lent .c) [12]) ∧
    liveAt (deadlines 3 4 noPorts) 30 = some (rec .c (.held noPorts) [30]) ∧
    liveAt (deadlines 3 4 noPorts) 22 = some (rec .d (.recalling .b 4) [22]) ∧
    liveAt (deadlines 4 4 (only .b)) 22 =
      some { rec .d (.recalling .b 4) [22] with marks := only .b } ∧
    granted (deadlines 3 4 noPorts) .tick = true ∧ TableLaw (deadlines 3 4 noPorts) ∧
    granted (deadlines 4 4 (only .b)) .tick = true ∧ TableLaw (deadlines 4 4 (only .b)) :=
  ⟨rfl, ⟨rfl, rfl, rfl⟩, rfl, rfl, rfl, rfl, rfl, rfl, rfl, ⟨rfl, rfl, rfl⟩, rfl, rfl, rfl, rfl⟩

/-- 22/0 of D waits for B's mark. -/
def waited : State := ticking 1 (withBuffer 22 0 { rec .d (.recalling .b 0) [22] with
  marks := only .b, pendingRev := some ⟨.expiry, .b⟩ } [22] base)

/-- An OFFERED record whose offer expires and one whose offer does not, a RECALLING record with a
pending revocation, and a handling that took its ticks already. -/
theorem witness_TickHandlingRule_more :
    (liveAt (deadlines 4 4 noPorts) 6 = some (rec .a (.offered 1) [60, 61]) ∧
      dueOffer (deadlines 4 4 noPorts) 4 1 = some ⟨.lend, .a, .b, ⟨6, 1⟩, 4⟩ ∧
      dueOffer (deadlines 3 4 noPorts) 3 1 = none ∧
      dueRecall (deadlines 4 4 (only .b)) 4 22 =
        some ({ rec .d (.recalling .b 4) [22] with marks := only .b }, .b)) ∧
    (granted waited .tick = true ∧ TableLaw waited ∧
      liveAt waited 22 = some { rec .d (.recalling .b 0) [22] with
        marks := only .b, pendingRev := some ⟨.expiry, .b⟩ }) ∧
    (granted (begun 3 (deadlines 9 4 noPorts)) .tick = true ∧
      TableLaw (begun 3 (deadlines 9 4 noPorts)) ∧
      ticksInHand (begun 3 (deadlines 9 4 noPorts)) = 3) :=
  ⟨⟨rfl, rfl, rfl, rfl⟩, ⟨rfl, ⟨rfl, rfl, rfl⟩, rfl⟩, rfl, ⟨rfl, rfl, rfl⟩, rfl⟩

/-- The same with no offer in use. -/
def recalls (n : Nat) (marks : PortSet) : State :=
  ticking 4 (withBuffer 22 0 { rec .d (.recalling .b n) [22] with marks := marks } [22] base)

theorem test_offerExpiry :
    seen (exec (.offerExpiry 1) (deadlines 4 4 noPorts))
      (fun t => ((liveAt t 6).map Live.st, (portAt t .a).queue, (portAt t .b).queue)) =
      some (some (.held noPorts), [.expired 1 ⟨6, 1⟩ .offeror], [.expired 1 ⟨6, 1⟩ .target]) := by
  decide

/-- Section 7.10, step 4: with B's mark on the record the expiry waits. -/
theorem test_recallExpiry :
    seen (exec (.recallExpiry 22) (recalls 4 (only .b)))
      (fun t => ((liveAt t 22).map Live.st, (liveAt t 22).map Live.pendingRev)) =
      some (some (.recalling .b 0), some (some ⟨.expiry, .b⟩)) := by decide

theorem witness_ExpiryRule :
    (granted (deadlines 4 4 noPorts) .tick = true ∧ nextDueOffer (deadlines 4 4 noPorts) = some 1 ∧
      offerAt (deadlines 4 4 noPorts) 1 = some ⟨.lend, .a, .b, ⟨6, 1⟩, 4⟩ ∧
      liveAt (deadlines 4 4 noPorts) 6 = some (rec .a (.offered 1) [60, 61])) ∧
    (∀ m, m = noPorts ∨ m = only .b →
      granted (recalls 4 m) .tick = true ∧ nextDueOffer (recalls 4 m) = none ∧
      nextDueRecall (recalls 4 m) = some 22 ∧
      liveAt (recalls 4 m) 22 = some { rec .d (.recalling .b 4) [22] with marks := m }) ∧
    (granted (begun 4 (recalls 5 noPorts)) .tick = true ∧
      nextDueOffer (begun 4 (recalls 5 noPorts)) = none ∧
      nextDueRecall (begun 4 (recalls 5 noPorts)) = none ∧
      nextDueRecall (begun 5 (recalls 5 noPorts)) = some 22) := by
  refine ⟨⟨rfl, rfl, rfl, rfl⟩, ?_, rfl, rfl, rfl, rfl⟩
  rintro m (rfl | rfl) <;> exact ⟨rfl, rfl, rfl, rfl⟩

/-- Section 10.5: the walk of C at a phase and a position, over offer 2 of 6/0 from C to A or
from A to C, and one record. -/
def walk (phase : WalkPhase) (pos : Nat) (s : State) : State :=
  { updPort .c (fun hp => { hp with state := .teardown }) s with
    walkList := [.c], walkPhase := phase, walkPos := pos, tcGrant := some .teardown }

/-- Before step 1: record 6/0 OFFERED by entry 2, from one port to another. -/
def offered (src dst : Port) : State :=
  walk .offers 0 { withBuffer 6 0 (rec src (.offered 2) [60]) [60] base with
    offers := [(0, some ⟨.lend, .a, .b, ⟨5, 0⟩, 9⟩), (2, some ⟨.lend, src, dst, ⟨6, 0⟩, 300⟩)] }

/-- Before steps 2 to 4: one record at number 9 that holds a relation with C. -/
def related (l : Live) : State := walk .buffers 9 (withBuffer 9 1 l [90] base)

theorem test_walkStep_offer :
    seen (exec .walkStep (offered .c .a))
      (fun t => (offerAt t 2, (liveAt t 6).map Live.st, (portAt t .a).queue)) =
      some (none, some (.held noPorts), [.withdrawn 2 ⟨6, 0⟩]) := by decide

/-- Step 3. -/
theorem test_walkStep_shared :
    seen (exec .walkStep (related (rec .b (.held (only .c)) [90])))
      (fun t => ((liveAt t 9).map Live.st, (portAt t .b).queue)) =
      some (some (.held noPorts), [.left ⟨9, 1⟩ .c .peerLost]) := by decide

theorem witness_WalkStepRule_offers (src dst : Port)
    (h : (src, dst) = (.c, .a) ∨ (src, dst) = (.a, .c)) :
    granted (offered src dst) .teardown = true ∧ (offered src dst).walkList = [.c] ∧
    (offered src dst).walkPhase = .offers ∧
    nextRelatedOffer (offered src dst) .c 0 = some (2, ⟨.lend, src, dst, ⟨6, 0⟩, 300⟩) ∧
    liveAt (offered src dst) 6 = some (rec src (.offered 2) [60]) := by
  rcases h with h | h <;> (cases h; exact ⟨rfl, rfl, rfl, rfl, rfl⟩)

/-- Owned, borrowed and shared, each without a mark and with one. -/
theorem witness_WalkStepRule_buffers (l : Live)
    (h : l ∈ [rec .c (.held noPorts) [90], { rec .c (.lent .d) [90] with marks := only .d },
      rec .b (.lent .c) [90], rec .b (.held (only .c)) [90],
      { rec .b (.lent .c) [90] with marks := only .c },
      { rec .b (.held (only .c)) [90] with marks := only .c }]) :
    granted (related l) .teardown = true ∧ (related l).walkList = [.c] ∧
    (related l).walkPhase = .buffers ∧
    nextRelatedBuffer (related l) .c (related l).walkPos = some (9, l) ∧
    liveAt (related l) 9 = some l := by
  simp only [List.mem_cons, List.not_mem_nil, or_false] at h
  rcases h with rfl | rfl | rfl | rfl | rfl | rfl <;> exact ⟨rfl, rfl, rfl, rfl, rfl⟩

/-- The walk reaches a record on which a revocation waits: owned, with EXPIRY or FORCE_FREE; borrowed
and shared. -/
theorem witness_WalkStepRule_waits (l : Live)
    (h : l ∈ [
      { rec .c (.recalling .d 0) [90] with marks := only .d, pendingRev := some ⟨.expiry, .d⟩ },
      { rec .c (.lent .d) [90] with marks := only .d, pendingRev := some ⟨.forceFree, .c⟩ },
      { rec .b (.recalling .c 0) [90] with marks := only .c, pendingRev := some ⟨.expiry, .c⟩ },
      { rec .b (.held (only .c)) [90] with
        marks := only .c, pendingRev := some ⟨.forceFree, .b⟩ }]) :
    granted (walk .buffers 0 (withBuffer 9 1 l [90] base)) .teardown = true ∧
    nextRelatedBuffer (walk .buffers 0 (withBuffer 9 1 l [90] base)) .c 0 = some (9, l) ∧
    liveAt (walk .buffers 0 (withBuffer 9 1 l [90] base)) 9 = some l := by
  simp only [List.mem_cons, List.not_mem_nil, or_false] at h
  rcases h with rfl | rfl | rfl | rfl <;> exact ⟨rfl, rfl, rfl⟩

/-- The first relation with a record found from phase OFFERS, and none found. -/
theorem witness_WalkStepRule_fromOffers :
    (granted (walk .offers 0 (withBuffer 9 1 (rec .c (.held noPorts) [90]) [90] base)) .teardown =
        true ∧
      nextRelatedOffer (walk .offers 0 (withBuffer 9 1 (rec .c (.held noPorts) [90]) [90] base))
        .c 0 = none ∧
      nextRelatedBuffer (walk .offers 0 (withBuffer 9 1 (rec .c (.held noPorts) [90]) [90] base))
        .c 0 = some (9, rec .c (.held noPorts) [90])) ∧
    (granted (walk .offers 0 base) .teardown = true ∧
      nextRelatedOffer (walk .offers 0 base) .c 0 = none ∧
      nextRelatedBuffer (walk .offers 0 base) .c 0 = none) :=
  ⟨⟨rfl, rfl, rfl⟩, rfl, rfl, rfl⟩

theorem witness_WalkStepRule_end :
    granted (related (rec .a (.held noPorts) [90])) .teardown = true ∧
    (related (rec .a (.held noPorts) [90])).walkList = [.c] ∧
    (related (rec .a (.held noPorts) [90])).walkPhase = .buffers ∧
    nextRelatedBuffer (related (rec .a (.held noPorts) [90])) .c
      (related (rec .a (.held noPorts) [90])).walkPos = none := ⟨rfl, rfl, rfl, rfl⟩

/-- Section 9.8: A's report CANCELLED, 3 pages done, on records 4 and 5. -/
def reporting : State :=
  { copying .running none with
    jobs := base.jobs, reports := [⟨.a, ⟨4, 0⟩, ⟨5, 0⟩, 3, .cancelled⟩], tcGrant := some .jobEnd }

/-- Section 7.10, step 6, with one record for source and destination: B's report, 20/1 of A
waiting for B's mark. -/
def expiring : State :=
  { updPort .b (fun hp => { hp with cmd := { slotOf 0x50 [] with state := .busy } })
      (withBuffer 20 1 { rec .a (.recalling .b 0) [20, 21] with
        marks := only .b, pendingRev := some ⟨.expiry, .b⟩, forced := some .b } [20, 21] base)
    with reports := [⟨.b, ⟨20, 1⟩, ⟨20, 1⟩, 4, .ok⟩], tcGrant := some .jobEnd }

theorem test_jobEndReport :
    seen (exec .jobEndReport reporting)
      (fun t => ((portAt t .a).cmd.resultCode, (portAt t .a).cmd.resultArea.headD 0,
        (liveAt t 4).map Live.marks, t.reports)) = some (0x15, 3, some noPorts, []) := by decide

/-- A's slot in a state when its report is taken. -/
def idled (st : CmdState) : State :=
  updPort .a (fun hp => { hp with cmd := { hp.cmd with state := st } }) reporting

/-- No revocation on either record; the slot BUSY or not. -/
theorem witness_JobEndRule (st : CmdState) :
    granted (idled st) .jobEnd = true ∧
    (idled st).reports = [⟨.a, ⟨4, 0⟩, ⟨5, 0⟩, 3, .cancelled⟩] ∧
    liveAt (idled st) 4 = some { rec .a (.held noPorts) [10, 11] with marks := only .a } ∧
    liveAt (idled st) 5 = some { rec .a (.held noPorts) [12, 13] with marks := only .a } ∧
    NotSettledBy .a { rec .a (.held noPorts) [10, 11] with marks := only .a } ∧
    (portAt (idled st) .a).cmd.state = st ∧ resultOf .cancelled = .cancelled :=
  ⟨rfl, rfl, rfl, rfl, fun rv h => (by cases h), rfl, rfl⟩

/-- B's report over 20/1, on which a revocation may wait, and 21/0 of A, on which none does. -/
def settling (l : Live) : State :=
  { withBuffer 20 1 l [20, 21]
      (withBuffer 21 0 { rec .a (.held (only .b)) [22] with marks := only .b } [22] base)
    with reports := [⟨.b, ⟨20, 1⟩, ⟨21, 0⟩, 4, .ok⟩], tcGrant := some .jobEnd }

/-- A's record with marks of B and D, to be retired. -/
def both : Live := { rec .a (.held (perSet (only .b) .d true)) [20, 21] with
  marks := perSet (only .b) .d true, pendingRev := some ⟨.teardown, .a⟩ }

/-- A retirement that still waits for D's mark: not settled by B's, and the result is ABORTED. -/
theorem witness_JobEndRule_waits :
    granted (settling both) .jobEnd = true ∧ liveAt (settling both) 20 = some both ∧
    NotSettledBy .b both ∧ waitsFor both ⟨.teardown, .a⟩ .b = true :=
  ⟨rfl, rfl, fun rv h => ⟨.d, by decide, by cases h; rfl⟩, rfl⟩

/-- B's report over 20/1, lent to B and recalled, and 21/0, which C's teardown retires. -/
def settlingBoth : State :=
  { withBuffer 20 1 twoLow [20, 21] (withBuffer 21 0 twoHigh [22] base)
    with reports := [⟨.b, ⟨21, 0⟩, ⟨20, 1⟩, 4, .ok⟩], tcGrant := some .jobEnd }
where
  /-- The record of the lower number. -/
  twoLow : Live := { rec .a (.recalling .b 0) [20, 21] with
    marks := only .b, pendingRev := some ⟨.expiry, .b⟩ }
  /-- The record of the higher number. -/
  twoHigh : Live := { rec .c (.held (only .b)) [22] with
    marks := only .b, pendingRev := some ⟨.teardown, .c⟩ }

/-- A report that settles a revocation on each of its two records. -/
theorem witness_JobEndRule_both :
    granted settlingBoth .jobEnd = true ∧
    settlingBoth.reports = [⟨.b, ⟨21, 0⟩, ⟨20, 1⟩, 4, .ok⟩] ∧ (20 : BufNo) < 21 ∧
    liveAt settlingBoth 20 = some settlingBoth.twoLow ∧
    SettledBy .b settlingBoth.twoLow ⟨.expiry, .b⟩ ∧
    liveAt settlingBoth 21 = some settlingBoth.twoHigh ∧
    SettledBy .b settlingBoth.twoHigh ⟨.teardown, .c⟩ ∧
    RevocationFits ⟨20, { settlingBoth.twoLow with marks := noPorts }, ⟨.expiry, .b⟩⟩ ∧
    RevocationFits ⟨21, { settlingBoth.twoHigh with marks := noPorts }, ⟨.teardown, .c⟩⟩ ∧
    OfferNames settlingBoth 20 settlingBoth.twoLow ∧
    OfferNames settlingBoth 21 settlingBoth.twoHigh ∧
    (pagesEnded settlingBoth
      [⟨20, { settlingBoth.twoLow with marks := noPorts }, ⟨.expiry, .b⟩⟩,
        ⟨21, { settlingBoth.twoHigh with marks := noPorts }, ⟨.teardown, .c⟩⟩]).Nodup := by
  refine ⟨rfl, rfl, by decide, rfl, ⟨rfl, rfl, fun q hq => ?_⟩, rfl, ⟨rfl, rfl, fun q hq => ?_⟩,
    .inr ⟨by decide, .inl rfl⟩, .inl rfl, fun id o h => (by cases h), fun id o h => (by cases h),
    by decide⟩
  all_goals cases q <;> first | rfl | contradiction

/-- One waiting return completed; and one revocation of each record, the lower number first: B has
REVOKED of 20/1 and then of 21/0. -/
theorem test_jobEndReport_revocations :
    seen (exec .jobEndReport expiring)
      (fun t => ((portAt t .b).cmd.resultCode, (liveAt t 20).map Live.st, (portAt t .b).queue,
        (portAt t .a).queue)) =
      some (0x14, some (.held noPorts), [.revoked ⟨20, 1⟩ .expiry],
        [.returned ⟨20, 1⟩ .forced]) ∧
    seen (exec .jobEndReport settlingBoth)
      (fun t => ((portAt t .b).queue, (liveAt t 20).map Live.st, recAt t 21, t.scrubQueue)) =
      some ([.revoked ⟨20, 1⟩ .expiry, .revoked ⟨21, 0⟩ .peerLost], some (.held noPorts),
        ⟨1, none⟩, [22]) := ⟨by decide, by decide⟩

/-- The five revocations that B's mark alone held back. -/
theorem witness_JobEndRule_settled (l : Live) (rv : Revocation)
    (h : (l, rv) ∈ [
      ({ rec .a (.recalling .b 0) [20, 21] with
          marks := only .b, pendingRev := some ⟨.expiry, .b⟩ }, ⟨.expiry, .b⟩),
      ({ rec .a (.lent .b) [20, 21] with
          marks := only .b, pendingRev := some ⟨.teardown, .b⟩ }, ⟨.teardown, .b⟩),
      ({ rec .a (.held (only .b)) [20, 21] with
          marks := only .b, pendingRev := some ⟨.teardown, .b⟩ }, ⟨.teardown, .b⟩),
      ({ rec .b (.held noPorts) [20, 21] with
          marks := only .b, pendingRev := some ⟨.teardown, .b⟩ }, ⟨.teardown, .b⟩),
      ({ rec .a (.held (only .b)) [20, 21] with
          marks := only .b, pendingRev := some ⟨.forceFree, .a⟩ },
        (⟨.forceFree, .a⟩ : Revocation))]) :
    granted (settling l) .jobEnd = true ∧
    (settling l).reports = [⟨.b, ⟨20, 1⟩, ⟨21, 0⟩, 4, .ok⟩] ∧ liveAt (settling l) 20 = some l ∧
    SettledBy .b l rv ∧ OfferNames (settling l) 20 l ∧
    liveAt (settling l) 21 = some { rec .a (.held (only .b)) [22] with marks := only .b } ∧
    NotSettledBy .b { rec .a (.held (only .b)) [22] with marks := only .b } := by
  simp only [List.mem_cons, Prod.mk.injEq, List.not_mem_nil, or_false] at h
  rcases h with ⟨rfl, rfl⟩ | ⟨rfl, rfl⟩ | ⟨rfl, rfl⟩ | ⟨rfl, rfl⟩ | ⟨rfl, rfl⟩ <;>
    exact ⟨rfl, rfl, rfl, ⟨rfl, rfl, fun q hq => by cases q <;> first | rfl | contradiction⟩,
      fun id o hs => (by cases hs), rfl, fun rv h => (by cases h)⟩

/-! ### The Data Mover -/

/-- Pages 51 and 52 wait for scrubbing; the mover's next kind and page in progress are given. -/
def scrubbing (kind : WorkKind) (page : Option PageWork) (s : State) : State :=
  { s with scrubQueue := [51, 52], freeList := [50], nextKind := kind, page := page }

theorem test_scrubStepStart :
    seen (exec .scrubStepStart (scrubbing .scrub none base)) (fun t => (t.page, t.nextKind)) =
      some (some (.scrub 51 false), .copy) := by decide

theorem test_scrubStepEnd :
    seen (exec .scrubStepEnd (scrubbing .copy (some (.scrub 51 false)) base))
      (fun t => (t.scrubQueue, t.freeList, entryAt t 51, memRead t.mem (51 * 64 + 63), t.page)) =
      some ([52], [50, 51], .free, 0, none) := by decide

theorem witness_ScrubRule :
    ((scrubbing .scrub none base).rst = false ∧ (scrubbing .scrub none base).page = none ∧
      (scrubbing .scrub none base).paused = false ∧
      (scrubbing .scrub none base).scrubQueue = [51, 52] ∧
      (scrubbing .scrub none base).nextKind = .scrub) ∧
    (∀ p j, jobAt (scrubbing .copy none base) p = some j → j.state ≠ .running) ∧
    (∀ served, (scrubbing .copy (some (.scrub 51 served)) base).page = some (.scrub 51 served) ∧
      (scrubbing .copy (some (.scrub 51 served)) base).scrubQueue = [51, 52]) :=
  ⟨⟨rfl, rfl, rfl, rfl, rfl⟩, (fun p j (h : jobAt _ p = some j) => by cases p <;> cases h),
    fun _ => ⟨rfl, rfl⟩⟩

/-- Section 9.8, page 1: with scrub work too, next kind COPY and last copy port D serve A. -/
theorem test_copyPageStart :
    seen (exec .copyPageStart (scrubbing .copy none (copying .running none)))
      (fun t => (t.page, t.lastCopy, t.nextKind)) =
      some (some (.copyRead .a none), .a, .scrub) := by decide

/-- Byte 63 of the source page 10 is 0x77. -/
def sourced (page : Option PageWork) (st : JobState) (last : Nat) : State :=
  { copying st page with
    mem := [(10 * 64 + 63, 0x77)]
    jobs := perSet base.jobs .a (some ⟨⟨4, 0⟩, 0, ⟨5, 0⟩, 0, last, 0, st⟩) }

theorem test_copyPageReadEnd :
    seen (exec .copyPageReadEnd (sourced (some (.copyRead .a none)) .running 2))
      (fun t => match t.page with
        | some (.copyWrite .a bytes false) => bytes[63]?
        | _ => none) = some (some 0x77) := rfl

theorem test_copyPageWriteEnd :
    seen (exec .copyPageWriteEnd
        (sourced (some (.copyWrite .a (List.replicate 64 0x5A) false)) .running 1))
      (fun t => (memRead t.mem (12 * 64 + 63), t.reports, jobAt t .a)) =
      some (0x5A, [⟨.a, ⟨4, 0⟩, ⟨5, 0⟩, 1, .ok⟩], none) := by decide

/-- The last page, a page before it, and a STOPPING job; read and write served before or not. -/
theorem witness_CopyPageRule (st : JobState) (last : Nat) (bytes : List Byte) (served : Bool)
    (read : Option (List Byte)) (h : bytes = List.replicate 64 0x5A) :
    ((copying .running none).rst = false ∧ (copying .running none).page = none ∧
      (copying .running none).paused = false ∧ nextCopyPort (copying .running none) = some .a ∧
      (copying .running none).scrubQueue = []) ∧
    ((sourced (some (.copyRead .a read)) st last).page = some (.copyRead .a read) ∧
      jobAt (sourced (some (.copyRead .a read)) st last) .a =
        some ⟨⟨4, 0⟩, 0, ⟨5, 0⟩, 0, last, 0, st⟩ ∧
      resolveIndex (sourced (some (.copyRead .a read)) st last) 4 0 = some 10) ∧
    ((sourced (some (.copyWrite .a bytes served)) st last).page =
        some (.copyWrite .a bytes served) ∧ bytes.length = 64 ∧
      jobAt (sourced (some (.copyWrite .a bytes served)) st last) .a =
        some ⟨⟨4, 0⟩, 0, ⟨5, 0⟩, 0, last, 0, st⟩ ∧
      resolveIndex (sourced (some (.copyWrite .a bytes served)) st last) 5 0 = some 12) := by
  subst h
  exact ⟨⟨rfl, rfl, rfl, rfl, rfl⟩, ⟨rfl, rfl, rfl⟩, rfl, rfl, rfl, rfl⟩

/-! ### The Maintenance Port -/

theorem test_requestFrame :
    seen (exec (.requestFrame [0x20, 3, 0, 9]) base) (fun t => (t.maint, t.sdo)) =
      some (.pending ⟨0x20, [3, 0]⟩, [0, 0, 0, 0, 0]) := by decide

/-- TICK_DIV 255 replaces 62. -/
theorem test_requestFrame_config :
    seen (exec (.requestFrame [0x02, 6, 0, 255, 0]) base) (fun t => (t.cfg.tickDiv, t.maint)) =
      some (255, .ready .ok [62, 0]) := by decide

/-- A response that READ_OFFER might leave. -/
def answeredPort : State := { base with maint := .ready .ok [1, 2, 3], hold := true }

theorem test_fetchFrame :
    seen (exec (.fetchFrame 6) answeredPort) (fun t => (t.maint, t.sdo)) =
      some (.idle, [0x82, 0x01, 1, 2, 3, 0]) := by decide

theorem test_unknownFrame :
    seen (exec (.unknownFrame 0x55 3) answeredPort) (fun t => (t.maint, t.sdo)) =
      some (.ready .ok [1, 2, 3], [0x82, 0, 0]) := by decide

theorem witness_FrameRule :
    (base.rst = false ∧ base.maint = .idle ∧ requestOf 0x43 = none) ∧
    (requestOf 0x20 = some .readBuffer ∧ requestLength .readBuffer [3, 0] ≤ [3, 0].length) ∧
    (answeredPort.maint ≠ .idle ∧ [3].length < requestLength .readBuffer [3]) ∧
    (cfgItemOf 6 0 = some .tickDiv ∧
      cfgInRange ((255 : Byte).toNat + 256 * (0 : Byte).toNat) .tickDiv = true) ∧
    (answeredPort.rst = false ∧ answeredPort.maint = .ready .ok [1, 2, 3] ∧ 1 ≤ 1 ∧ 1 ≤ 2) ∧
    (cfgItemOf 6 4 = some .tickDiv ∧ cfgInRange ((0 : Byte).toNat + 256 * (1 : Byte).toNat) .tickDiv =
      false) ∧ cfgItemOf 3 4 = none ∧ cfgItemOf 7 0 = none ∧
    ((holding 0x20 [3, 0] base).rst = false ∧
      (holding 0x20 [3, 0] base).maint = .pending ⟨0x20, [3, 0]⟩) ∧
    ((0x00 : Byte) ≠ 0x01 ∧ (0x00 : Byte) ≠ 0x02 ∧ (0x03 : Byte) ≠ 0x01 ∧ (0x03 : Byte) ≠ 0x02) := by
  decide

/-- HOLD with nothing in progress, taken again, and RELEASE. -/
theorem test_hold :
    seen (exec .hold (holding 0x10 [] base)) (fun t => (t.hold, t.paused, t.maint)) =
      some (true, true, .ready .ok [1]) := by decide

/-- A copy write in progress runs to its end. -/
theorem test_hold_copyPage :
    seen (exec .hold (holding 0x10 []
        (sourced (some (.copyWrite .a (List.replicate 64 0x5A) false)) .running 1)))
      (fun t => (t.page, memRead t.mem (12 * 64 + 63), t.reports, t.paused)) =
      some (none, 0x5A, [⟨.a, ⟨4, 0⟩, ⟨5, 0⟩, 1, .ok⟩], true) := by decide

theorem test_release :
    seen (exec .release { holding 0x11 [] base with hold := true, paused := true })
      (fun t => (t.hold, t.paused, t.maint)) = some (false, false, .ready .ok [1]) := by decide

theorem witness_HoldAndRelease :
    (MaintReady (holding 0x10 [] base) .hold [] ∧ (holding 0x10 [] base).hold = false ∧
      (holding 0x10 [] base).page = none) ∧
    MaintReady { holding 0x10 [] base with hold := true } .hold [] ∧
    MaintReady { holding 0x11 [] base with hold := true } .release [] ∧
    MaintReady (holding 0x11 [] base) .release [] :=
  ⟨⟨⟨rfl, rfl⟩, rfl, rfl⟩, ⟨rfl, rfl⟩, ⟨rfl, rfl⟩, rfl, rfl⟩

/-- HOLD with a page in progress: a scrub step, and a copy page in each of its phases. -/
theorem witness_HoldAndRelease_page (served : Bool) (bytes : List Byte)
    (h : bytes = (List.range 64).map (fun k => memRead [(10 * 64 + 63, 0x77)] (10 * 64 + k))) :
    (MaintReady (holding 0x10 [] (scrubbing .copy (some (.scrub 51 served)) base)) .hold [] ∧
      (holding 0x10 [] (scrubbing .copy (some (.scrub 51 served)) base)).page =
        some (.scrub 51 served)) ∧
    (∀ page, MaintReady (holding 0x10 [] (sourced page .running 2)) .hold [] ∧
      (holding 0x10 [] (sourced page .running 2)).hold = false ∧
      (holding 0x10 [] (sourced page .running 2)).page = page ∧
      jobAt (holding 0x10 [] (sourced page .running 2)) .a =
        some ⟨⟨4, 0⟩, 0, ⟨5, 0⟩, 0, 2, 0, .running⟩ ∧
      resolveIndex (holding 0x10 [] (sourced page .running 2)) 4 0 = some 10 ∧
      resolveIndex (holding 0x10 [] (sourced page .running 2)) 5 0 = some 12 ∧
      ∀ k, k < 64 → bytes.getD k 0 =
        memRead (holding 0x10 [] (sourced page .running 2)).mem (10 * 64 + k)) ∧
    bytes.length = 64 := by
  subst h
  refine ⟨⟨⟨rfl, rfl⟩, rfl⟩, fun page => ⟨⟨rfl, rfl⟩, rfl, rfl, rfl, rfl, rfl, fun k hk => ?_⟩, ?_⟩
  · rw [List.getD_eq_getElem?_getD, List.getElem?_map, List.getElem?_range hk]; rfl
  · rw [List.length_map, List.length_range]

/-- Buffer 3/1 of A, entry 0 of the Directory naming it, and offer 2. -/
def inspecting (code : Byte) (params : List Byte) : State :=
  holding code params { withBuffer 3 1 (rec .a (.held (only .b)) [200, 201]) [200, 201] base with
    dir := [⟨320, ⟨3, 1⟩, .a, .openMode⟩]
    offers := [(2, some ⟨.lend, .c, .a, ⟨6, 0⟩, 300⟩)] }

theorem test_readBuffer :
    seen (exec .readBuffer (inspecting 0x20 [3, 0])) (fun t => t.maint) =
      some (.ready .ok [1, 1, 0x3D, 0x01, 0, 0, 2, 2, 200, 0, 201, 0, 0, 0, 0, 0, 0, 0, 0]) := by
  decide

theorem test_readPageEntry :
    seen (exec .readPageEntry (inspecting 0x21 [200, 0])) (fun t => t.maint) =
      some (.ready .ok [2, 3, 0, 201, 0, 3]) := by decide

theorem test_readOffer :
    seen (exec .readOffer (inspecting 0x22 [2])) (fun t => t.maint) =
      some (.ready .ok [1, 1, 2, 0, 6, 0, 0, 0x2C, 0x01]) := by decide

theorem test_readDir :
    seen (exec .readDir (inspecting 0x23 [0])) (fun t => t.maint) =
      some (.ready .ok [1, 1, 0x40, 0x01, 3, 0, 1, 0, 1]) := by decide

theorem test_readPort :
    seen (exec .readPort (inspecting 0x24 [0])) (fun t => match t.maint with
      | .ready .ok data => (data.length, data.take 7)
      | _ => (0, [])) = some (43, [1, 0, 0, 1, 0, 2, 0]) := by decide

theorem test_readPool :
    seen (exec .readPool (holding 0x25 [] (scrubbing .copy (some (.scrub 51 false)) base)))
      (fun t => t.maint) =
      some (.ready .ok [1, 0, 50, 0, 2, 0, 51, 0, 51, 0, 7, 0, 0, 0]) := by decide

theorem witness_Inspections :
    (MaintReady (inspecting 0x20 [0xFF, 3]) .readBuffer [0xFF, 3] ∧
      numAt [0xFF, 3] 0 = (1023 : BufNo).val) ∧
    (MaintReady (inspecting 0x21 [0xFF, 31]) .readPageEntry [0xFF, 31] ∧
      numAt [0xFF, 31] 0 = (8191 : PageNo).val) ∧
    (MaintReady (inspecting 0x22 [15]) .readOffer [15] ∧
      (byteAt [15] 0).toNat = (15 : OfferId).val) ∧
    (MaintReady (inspecting 0x23 [63]) .readDir [63] ∧ (byteAt [63] 0).toNat < 64) ∧
    (MaintReady (inspecting 0x24 [3]) .readPort [3] ∧ portOf (byteAt [3] 0) = some .d) ∧
    heldRequest (holding 0x25 [] base) .readPool = some [] :=
  ⟨⟨⟨rfl, rfl⟩, rfl⟩, ⟨⟨rfl, rfl⟩, rfl⟩, ⟨⟨rfl, rfl⟩, rfl⟩, ⟨⟨rfl, rfl⟩, by decide⟩,
    ⟨⟨rfl, rfl⟩, rfl⟩, rfl⟩

/-- The first number outside each range. -/
theorem witness_Inspections_range :
    (MaintReady (inspecting 0x20 [0, 4]) .readBuffer [0, 4] ∧ 1024 ≤ numAt [0, 4] 0) ∧
    (MaintReady (inspecting 0x21 [0, 32]) .readPageEntry [0, 32] ∧ 8192 ≤ numAt [0, 32] 0) ∧
    (MaintReady (inspecting 0x22 [16]) .readOffer [16] ∧ 16 ≤ (byteAt [16] 0).toNat) ∧
    (MaintReady (inspecting 0x23 [64]) .readDir [64] ∧ 64 ≤ (byteAt [64] 0).toNat) ∧
    (MaintReady (inspecting 0x24 [4]) .readPort [4] ∧ 4 ≤ (byteAt [4] 0).toNat) :=
  ⟨⟨⟨rfl, rfl⟩, by decide⟩, ⟨⟨rfl, rfl⟩, by decide⟩, ⟨⟨rfl, rfl⟩, by decide⟩,
    ⟨⟨rfl, rfl⟩, by decide⟩, ⟨rfl, rfl⟩, by decide⟩

/-- READ_MEM of the last byte of page 200, WRITE_MEM of two bytes from its byte 62. -/
def reading : State := { inspecting 0x30 [200, 0, 63, 1] with mem := [(200 * 64 + 63, 0x66)] }

def writing (page : Byte) : State := inspecting 0x31 [page, 0, 62, 2, 0xA1, 0xA2]

theorem test_readMem :
    seen (exec .readMem reading) (fun t => t.maint) = some (.ready .ok [0x66]) := by decide

theorem test_writeMem :
    seen (exec .writeMem (writing 200)) (fun t => (memRead t.mem (200 * 64 + 63), t.maint)) =
      some (0xA2, .ready .ok [3, 0]) ∧
    seen (exec .writeMem (writing 202)) (fun t => (t.mem, t.maint)) =
      some ([], .ready .notChained []) := by decide

theorem witness_MemoryRequests :
    (heldRequest reading .readMem = some [200, 0, 63, 1] ∧
      memGrant .maintenance reading = some { reading with memLast := .maintenance }) ∧
    (MaintReady (writing 200) .writeMem [200, 0, 62, 2, 0xA1, 0xA2] ∧
      numAt [200, 0, 62, 2, 0xA1, 0xA2] 0 = (200 : PageNo).val ∧
      entryAt (writing 200) 200 = .chained 3 (some 201) ∧
      memGrant .maintenance (writing 200) =
        some { writing 200 with memLast := .maintenance }) ∧
    (MaintReady (writing 202) .writeMem [202, 0, 62, 2, 0xA1, 0xA2] ∧
      entryAt (writing 202) 202 = .scrub) :=
  ⟨⟨rfl, rfl⟩, ⟨⟨rfl, rfl⟩, rfl, rfl, rfl⟩, ⟨rfl, rfl⟩, rfl⟩

/-- A page, an offset and two lengths outside their ranges, of both requests. -/
theorem witness_MemoryRequests_range (ps : List Byte)
    (h : ps ∈ [[0, 32, 0, 1], [200, 0, 64, 1], [200, 0, 0, 0], [200, 0, 63, (2 : Byte)]]) :
    (8192 ≤ numAt ps 0 ∨ 64 ≤ (byteAt ps 2).toNat ∨ (byteAt ps 3).toNat = 0 ∨
      64 < (byteAt ps 2).toNat + (byteAt ps 3).toNat) ∧
    (inspecting 0x30 ps).rst = false ∧ heldRequest (inspecting 0x30 ps) .readMem = some ps ∧
    MaintReady (inspecting 0x31 ps) .writeMem ps := by
  refine ⟨?_, rfl, rfl, rfl, rfl⟩
  simp only [List.mem_cons, List.not_mem_nil, or_false] at h
  rcases h with rfl | rfl | rfl | rfl <;> decide

/-- A page write, a zero-fill and a WRITE_MEM that a device reset abandons; and a WRITE_MEM without
the grant, which stores nothing. -/
theorem witness_DeviceResetValues_bytes :
    ((writing 200).rst = false ∧
      MaintReady (writing 200) .writeMem [200, 0, 62, 2, 0xA1, 0xA2] ∧
      memoryParams [200, 0, 62, 2, 0xA1, 0xA2] = .ok (200, 62, 2) ∧
      entryAt (writing 200) 200 = .chained 3 (some 201)) ∧
    copyDest (sourced (some (.copyWrite .a [0x5A] false)) .running 2) .a = some 12 :=
  ⟨⟨rfl, ⟨rfl, rfl⟩, rfl, rfl⟩, rfl⟩

theorem test_deviceReset_notGranted :
    seen (exec .deviceReset { writing 200 with tcGrant := some (.port .a) }) (fun t => t.mem) =
      some [] := by decide

/-- FORCE_FREE of 3/1, HELD and shared, or of 6/0, OFFERED by entry 2 to A, or of 4/0, marked. -/
def freeing (b : Byte) (s : State) : State := holding 0x40 [b, 0] s

theorem test_forceFree :
    seen (exec .forceFree (freeing 3 (inspecting 0 [])))
      (fun t => (recAt t 3, (portAt t .a).queue, t.dir, t.maint)) =
      some (⟨2, none⟩, [.revoked ⟨3, 1⟩ .forceFree], [], .ready .ok [3, 0, 1, 0, 2, 0]) := by decide

theorem test_forceFree_offered :
    seen (exec .forceFree (freeing 6 (offered .c .a)))
      (fun t => (recAt t 6, offerAt t 2, (portAt t .a).queue)) =
      some (⟨1, none⟩, none, [.withdrawn 2 ⟨6, 0⟩]) := by decide

theorem witness_ForceFreeRule :
    (MaintReady (freeing 3 (inspecting 0 [])) .forceFree [3, 0] ∧
      numAt [3, 0] 0 = (3 : BufNo).val ∧
      liveAt (freeing 3 (inspecting 0 [])) 3 = some (rec .a (.held (only .b)) [200, 201])) ∧
    (MaintReady (freeing 6 (offered .c .a)) .forceFree [6, 0] ∧
      liveAt (freeing 6 (offered .c .a)) 6 = some (rec .c (.offered 2) [60]) ∧
      offerAt (freeing 6 (offered .c .a)) 2 = some ⟨.lend, .c, .a, ⟨6, 0⟩, 300⟩) ∧
    (MaintReady (freeing 4 (copying .running none)) .forceFree [4, 0] ∧
      liveAt (freeing 4 (copying .running none)) 4 =
        some { rec .a (.held noPorts) [10, 11] with marks := only .a } ∧
      (freeing 4 (copying .running none)).hold = false) ∧
    (MaintReady (freeing 3 base) .forceFree [3, 0] ∧ liveAt (freeing 3 base) 3 = none) ∧
    (MaintReady (holding 0x40 [0, 4] base) .forceFree [0, 4] ∧ 1024 ≤ numAt [0, 4] 0) :=
  ⟨⟨⟨rfl, rfl⟩, rfl, rfl⟩, ⟨⟨rfl, rfl⟩, rfl, rfl⟩, ⟨⟨rfl, rfl⟩, rfl, rfl⟩, ⟨⟨rfl, rfl⟩, rfl⟩,
    ⟨rfl, rfl⟩, by decide⟩

/-- A's copy from 4/0 to 5/0, in HOLD. -/
def held : State := { copying .running none with hold := true, paused := true }

/-- In HOLD a copy that marks the record is ended, and OfferNames holds of an offered one. -/
theorem witness_ForceFreeRule_retired :
    (OfferNames (freeing 6 (offered .c .a)) 6 (rec .c (.offered 2) [60]) ∧
      isEmptySet (rec .c (.offered 2) [60]).marks = true) ∧
    (MaintReady (freeing 4 held) .forceFree [4, 0] ∧ (freeing 4 held).hold = true ∧
      liveAt (freeing 4 held) 4 = some { rec .a (.held noPorts) [10, 11] with marks := only .a } ∧
      OfferNames (freeing 4 held) 4 { rec .a (.held noPorts) [10, 11] with marks := only .a } ∧
      (∀ c p l', c ≠ 4 → perGet (only .a) p = true → copyNames (freeing 4 held) p c = true →
        liveAt (freeing 4 held) c = some l' → l'.pendingRev = none)) := by
  refine ⟨⟨fun id o h ho => ?_, rfl⟩, ⟨rfl, rfl⟩, rfl, rfl, fun id o h => (by cases h), ?_⟩
  · cases h; cases ho; rfl
  · intro c p l' hc hp hn hl
    cases p <;> try cases hp
    have h5 : c = 5 := by
      have : (decide ((4 : BufNo) = c) || decide ((5 : BufNo) = c)) = true := hn
      simp only [Bool.or_eq_true, decide_eq_true_eq] at this
      exact this.elim (fun h => absurd h.symm hc) Eq.symm
    subst h5; cases hl; rfl

/-- In HOLD, A's copy from 4/0 to 5/0 ends, and 5/0, lent to A by B, was waiting for it. -/
def heldWaiting : State :=
  { held with
    buffers := (withBuffer 4 0 { rec .a (.held noPorts) [10, 11] with marks := only .a } [10, 11]
      (withBuffer 5 0 otherLive [12, 13] base)).buffers }
where
  /-- The other record of the copy. -/
  otherLive : Live := { rec .b (.recalling .a 0) [12, 13] with
    marks := only .a, pendingRev := some ⟨.expiry, .a⟩ }

theorem witness_ForceFreeRule_settles :
    MaintReady (freeing 4 heldWaiting) .forceFree [4, 0] ∧
    liveAt (freeing 4 heldWaiting) 4 =
      some { rec .a (.held noPorts) [10, 11] with marks := only .a } ∧
    (freeing 4 heldWaiting).hold = true ∧
    othersSettled (freeing 4 heldWaiting) 4
        { rec .a (.held noPorts) [10, 11] with marks := only .a } =
      [⟨5, { heldWaiting.otherLive with marks := noPorts }, ⟨.expiry, .a⟩⟩] ∧
    (∀ q, perGet (only .a) q = true → copyNames (freeing 4 heldWaiting) q 4 = true) ∧
    (∀ c lc rv q, c ≠ 4 → liveAt (freeing 4 heldWaiting) c = some lc → lc.pendingRev = some rv →
      perGet (only .a) q = true → copyNames (freeing 4 heldWaiting) q c = true →
      ∃ r, waitsFor lc rv r = true) ∧
    OfferNames (freeing 4 heldWaiting) 4
      { rec .a (.held noPorts) [10, 11] with marks := only .a } ∧
    RevocationFits ⟨5, { heldWaiting.otherLive with marks := noPorts }, ⟨.expiry, .a⟩⟩ ∧
    OfferNames (freeing 4 heldWaiting) 5 { heldWaiting.otherLive with marks := noPorts } ∧
    (pagesEnded (freeing 4 heldWaiting)
      [⟨5, { heldWaiting.otherLive with marks := noPorts }, ⟨.expiry, .a⟩⟩,
        ⟨4, { rec .a (.held noPorts) [10, 11] with marks := only .a },
          ⟨.forceFree, .a⟩⟩]).Nodup := by
  refine ⟨⟨rfl, rfl⟩, rfl, rfl, by decide, fun q h => ?_, fun c lc rv q hc hl hr hq hn => ?_,
    fun id o h => (by cases h), .inr ⟨by decide, .inl rfl⟩, fun id o h => (by cases h), by decide⟩
  · cases q <;> first | rfl | contradiction
  · cases q <;> try cases hq
    have : (decide ((4 : BufNo) = c) || decide ((5 : BufNo) = c)) = true := hn
    simp only [Bool.or_eq_true, decide_eq_true_eq] at this
    obtain rfl := this.resolve_left (fun h => hc h.symm)
    cases hl; cases hr
    exact ⟨.a, rfl⟩

theorem test_forceDetach :
    seen (exec .forceDetach (holding 0x41 [3] base))
      (fun t => ((portAt t .d).state, (portAt t .d).lastCause, t.walkList, t.maint)) =
      some (.teardown, .forceDetach, [.d], .ready .ok [1]) := by decide

theorem witness_ForceDetachRule :
    (MaintReady (holding 0x41 [3] base) .forceDetach [3] ∧ portOf (byteAt [3] 0) = some .d ∧
      attached (holding 0x41 [3] base) .d = true) ∧
    (MaintReady (holding 0x41 [3] State.reset) .forceDetach [3] ∧
      (portAt (holding 0x41 [3] State.reset) .d).state = .detached) ∧
    (MaintReady (holding 0x41 [0] gone) .forceDetach [0] ∧ portOf (byteAt [0] 0) = some .a ∧
      (portAt (holding 0x41 [0] gone) .a).state = .teardown) ∧
    (MaintReady (holding 0x41 [4] base) .forceDetach [4] ∧ 3 < (byteAt [4] 0).toNat) :=
  ⟨⟨⟨rfl, rfl⟩, rfl, rfl⟩, ⟨⟨rfl, rfl⟩, rfl⟩, ⟨⟨rfl, rfl⟩, rfl, rfl⟩, ⟨rfl, rfl⟩, by decide⟩

/-- At a port in TEARDOWN: data 2. -/
theorem test_forceDetach_teardown :
    seen (exec .forceDetach (holding 0x41 [0] gone))
      (fun t => ((portAt t .a).lastCause, t.walkList, t.maint)) =
      some (.none, [], .ready .ok [2]) := by decide

/-- CLEAR_ALL over a live record of generation 1 and a VACANT one of generation 7. -/
def clearing (hold : Bool) : State :=
  { inspecting 0x42 [] with
    buffers := (inspecting 0 []).buffers ++ [(9, ⟨7, none⟩)], hold := hold }

theorem test_clearAll :
    seen (exec .clearAll (clearing true))
      (fun t => (recAt t 3, recAt t 9, t.dir, (portAt t .a).lastCause, t.hold)) =
      some (⟨2, none⟩, ⟨7, none⟩, [], .clearAll, true) := by decide

theorem test_clearAll_notHeld :
    seen (exec .clearAll (clearing false)) (fun t => (t.maint, t.dir.length)) =
      some (.ready .notHeld [], 1) := by decide

theorem witness_ClearAllRule :
    (MaintReady (clearing false) .clearAll [] ∧ (clearing false).hold = false) ∧
    (MaintReady (clearing true) .clearAll [] ∧ (clearing true).hold = true ∧
      TableLaw (clearing true)) := ⟨⟨⟨rfl, rfl⟩, rfl⟩, ⟨rfl, rfl⟩, rfl, rfl, rfl, rfl⟩

/-! ### The laws hold of a state that is at work, and it takes a step -/

/-- A owns 5/3, shared with B, whose W0 shows it, and named in the Directory; C is in TEARDOWN with
an offer of 6/0 to A to settle, and the walk's command waits. -/
def atWork : State :=
  { showing .b .w0 (.mapped (window 5 3 .read 2 1 63))
      (showing .a .w0 (.mapped (window 5 3 .write 2 0 0))
        (withBuffer 5 3 (rec .a (.held (only .b)) [40, 41]) [40, 41]
          (withBuffer 6 0 (rec .c (.offered 2) [60]) [60]
            (updPort .c (fun hp => { hp with state := .teardown }) base))))
    with
    dir := [⟨320, ⟨5, 3⟩, .a, .openMode⟩]
    offers := [(2, some ⟨.lend, .c, .a, ⟨6, 0⟩, 300⟩)]
    mem := [(40 * 64, 1)]
    walkList := [.c], tcGrant := some .teardown, pending := [.walkStep] }

theorem live_atWork (b : BufNo) : liveAt atWork b =
    if b = 5 then some (rec .a (.held (only .b)) [40, 41])
    else if b = 6 then some (rec .c (.offered 2) [60]) else none := by
  obtain ⟨n, h⟩ := b
  show (tabGet vacantRec atWork.buffers n).live = _
  simp only [Fin.ext_iff, show ((5 : BufNo).val) = 5 from rfl, show ((6 : BufNo).val) = 6 from rfl]
  show (tabGet vacantRec [(5, ⟨3, some (rec .a (.held (only .b)) [40, 41])⟩),
    (6, ⟨0, some (rec .c (.offered 2) [60])⟩)] n).live = _
  simp only [tabGet]
  split_ifs <;> rfl

theorem offer_atWork (id : OfferId) : offerAt atWork id =
    if id = 2 then some ⟨.lend, .c, .a, ⟨6, 0⟩, 300⟩ else none := by
  revert id; decide

theorem witness_CountsKept : CountLaw atWork := by
  have h : ∀ p b, owned atWork p b =
      if b = 5 then (if Port.a = p then (1, 2) else (0, 0))
      else if b = 6 then (if Port.c = p then (1, 1) else (0, 0)) else (0, 0) := by
    intro p b
    cases p <;> simp only [owned, live_atWork] <;> split_ifs <;> first | rfl | contradiction
  intro p
  have h6 : ∀ b : BufNo, b ≠ 6 → b ≠ 5 → owned atWork p b = (0, 0) := by
    intro b h6 h5; rw [h, if_neg h5, if_neg h6]
  constructor <;>
  · rw [← Finset.sum_subset (Finset.subset_univ {5, 6}) (fun b _ hb => by
      simp only [Finset.mem_insert, Finset.mem_singleton, not_or] at hb
      rw [h6 b hb.2 hb.1]), Finset.sum_pair (by decide), h, h]
    cases p <;> rfl

theorem witness_InvariantsKept :
    QueueLaw atWork ∧ RangeLaw atWork ∧ MemoryLaw atWork ∧ TableLaw atWork ∧ WalkLaw atWork ∧
    DetachedLaw atWork ∧ ArbiterLaw atWork := by
  refine ⟨fun p => ?_, ⟨fun p => ?_, by decide⟩, ⟨rfl, fun _ _ h => ?_, fun _ _ _ h => ?_⟩,
    ⟨rfl, rfl, rfl⟩, ⟨by decide, fun p => ?_⟩, fun p => ?_, fun _ => ⟨fun r h => ?_, fun h => ?_⟩⟩
  · cases p <;> decide
  · cases p <;> decide
  · cases h
  · cases h
  · cases p <;> decide
  · cases p <;> decide
  · cases h; rfl
  · cases h

theorem witness_OffersKept : OfferLaw atWork ∧ PassedLaw atWork := by
  refine ⟨⟨by decide, fun id o h => ?_, fun b l id h hs => ?_⟩,
    fun p id o _ _ _ => ⟨rfl, Nat.zero_le _⟩, ?_⟩
  · rw [offer_atWork] at h
    split_ifs at h with h2
    cases h; subst h2
    exact ⟨by decide, by decide, _, rfl, rfl, rfl, rfl⟩
  · rw [live_atWork] at h
    split_ifs at h with h5 h6
    · cases h; cases hs
    · cases h; cases hs; subst h6
      exact ⟨_, rfl, rfl⟩
  · intro b l q h hr
    rw [live_atWork] at h
    split_ifs at h <;> cases h <;> cases hr

theorem witness_MappedWindowsKept : MappedLaw atWork := by
  intro p
  cases p
  · exact ⟨⟨_, rfl, rfl, rfl, by decide, rfl⟩, trivial, trivial⟩
  · exact ⟨⟨_, rfl, rfl, rfl, by decide, rfl⟩, trivial, trivial⟩
  · exact ⟨trivial, trivial, trivial⟩
  · exact ⟨trivial, trivial, trivial⟩

theorem witness_DirectoryKept : DirectoryLaw atWork := by
  refine ⟨by decide, by decide, fun e he => ?_⟩
  cases List.mem_singleton.1 he
  exact ⟨by decide, by decide, _, rfl, rfl, rfl⟩

/-- The step that the laws above are kept by. -/
theorem witness_atWork_steps :
    (∃ t, step atWork = .next t) ∧
    seen (step atWork) (fun t => offerAt t 2) = some none := ⟨⟨_, rfl⟩, rfl⟩

/-- The second clause of MappedWindowsKept, and ArbiterKept's other two. -/
theorem witness_MappedWindowsKept_writers :
    (portAt atWork .a).w0 = .mapped (window 5 3 .write 2 0 0) ∧
    (window 5 3 .write 2 0 0).mode = .write := ⟨rfl, rfl⟩

theorem witness_ArbiterKept :
    (base.rst = false ∧ base.tcGrant = none) ∧
    ({ holding 0x42 [] base with hold := true } : State).hold = true ∧
    grantable { holding 0x42 [] base with hold := true } .maintenance = true := by decide

/-- A command's handling and a tick handling in progress: each takes a step. -/
theorem witness_WalkListKept :
    (WalkLaw freeingOn ∧ UnderwayLaw freeingOn ∧
      ∃ t, step { freeingOn with pending := [.free .a] } = .next t) ∧
    (UnderwayLaw (begun 3 (deadlines 9 4 noPorts)) ∧
      ∃ t, step { begun 3 (deadlines 9 4 noPorts) with pending := [.tickHandling] } = .next t) ∧
    UnderwayLaw atWork :=
  ⟨⟨⟨by decide, fun p => by cases p <;> decide⟩,
      ⟨rfl, rfl, rfl, rfl, rfl, rfl, fun _ => ⟨rfl, rfl⟩⟩, _, rfl⟩,
    ⟨⟨rfl, rfl, rfl, by decide⟩, _, rfl⟩, trivial⟩

/-- A of 5/3 on pages 40 and 41, page 50 free, and page 51 cleared by a scrub step whose end waits. -/
def pooled : State :=
  { withBuffer 5 3 (rec .a (.held noPorts) [40, 41]) [40, 41] base with
    pageMap := [(40, .chained 5 (some 41)), (41, .chained 5 none), (50, .free)]
    freeList := [50]
    scrubQueue := 51 :: (List.finRange 8192).filter (fun pg => pg ∉ [40, 41, 50, (51 : PageNo)])
    mem := (List.range 128).map (fun k => (50 * 64 + k, 0))
    page := some (.scrub 51 true), pending := [.scrubStepEnd] }

theorem live_pooled (b : BufNo) : liveAt pooled b =
    if b = 5 then some (rec .a (.held noPorts) [40, 41]) else none := by
  obtain ⟨n, h⟩ := b
  simp only [Fin.ext_iff, show ((5 : BufNo).val) = 5 from rfl]
  show (tabGet vacantRec [(5, ⟨3, some (rec .a (.held noPorts) [40, 41])⟩)] n).live = _
  simp only [tabGet]
  split_ifs <;> rfl

theorem entry_pooled (pg : PageNo) : entryAt pooled pg =
    if pg = 40 then .chained 5 (some 41) else if pg = 41 then .chained 5 none
    else if pg = 50 then .free else .scrub := by
  obtain ⟨n, h⟩ := pg
  simp only [Fin.ext_iff, show ((40 : PageNo).val) = 40 from rfl,
    show ((41 : PageNo).val) = 41 from rfl, show ((50 : PageNo).val) = 50 from rfl]
  show tabGet PageEntry.scrub
    [(40, .chained 5 (some 41)), (41, .chained 5 none), (50, .free)] n = _
  simp only [tabGet]

theorem witness_PageLaw : PageLaw pooled := by
  refine ⟨List.nodup_singleton _, List.nodup_cons.2 ⟨fun h => ?_, (List.nodup_finRange _).filter _⟩,
    fun pg => ?_, fun pg => ?_, fun b l h => ?_, fun pg b n h => ?_, fun pg served h => ?_⟩
  · exact absurd (List.mem_filter.1 h).2 (by decide)
  · rw [entry_pooled, show pooled.freeList = [50] from rfl, List.mem_singleton]
    constructor
    · rintro rfl; rfl
    · intro h; split_ifs at h with h1 h2 h3; exact h3
  · rw [entry_pooled, show pooled.scrubQueue =
      51 :: (List.finRange 8192).filter (fun pg => pg ∉ [40, 41, 50, (51 : PageNo)]) from rfl]
    simp only [List.mem_cons, List.mem_filter, List.mem_finRange, List.not_mem_nil, or_false,
      not_or, decide_eq_true_eq, true_and]
    constructor
    · rintro (rfl | ⟨h1, h2, h3, -⟩)
      · rfl
      · rw [if_neg h1, if_neg h2, if_neg h3]
    · intro h
      split_ifs at h with h1 h2 h3
      by_cases h4 : pg = 51
      · exact .inl h4
      · exact .inr ⟨h1, h2, h3, h4⟩
  · rw [live_pooled] at h
    split_ifs at h with hb
    cases h; subst hb
    refine ⟨by decide, by decide, rfl, by decide, rfl, rfl, fun pg => ?_⟩
    rw [entry_pooled, show chainOf pooled (rec .a (.held noPorts) [40, 41]) = [40, 41] from rfl]
    simp only [List.mem_cons, List.not_mem_nil, or_false]
    constructor
    · rintro (rfl | rfl) <;> exact ⟨_, rfl⟩
    · rintro ⟨n, h⟩
      split_ifs at h with h1 h2
      · exact .inl h1
      · exact .inr h2
  · rw [entry_pooled] at h
    rw [live_pooled]
    split_ifs at h <;> cases h <;> exact fun h => nomatch h
  · cases h; rfl

theorem witness_ClearedLaw : ClearedLaw pooled := by
  have h : ∀ k, k < 128 → memRead pooled.mem (50 * 64 + k) = 0 := by
    intro k hk
    interval_cases k <;> rfl
  rintro pg (hpg | hpg) k hk
  · cases List.mem_singleton.1 hpg
    exact h k (by omega)
  · cases hpg
    rw [show ((51 : PageNo).val) * 64 + k = 50 * 64 + (64 + k) from by
      rw [show ((51 : PageNo).val) = 51 from rfl]; omega]
    exact h (64 + k) (by omega)

theorem witness_MemoryKept : TableLaw pooled ∧ ∃ t, step pooled = .next t :=
  ⟨⟨rfl, rfl, rfl⟩, _, rfl⟩

end Sys2Proof.Tests
end

/-! The window control at offset 0x48 (R54 to R56): each of its writes is one update of the port that
made the access, and the arbiter. -/

namespace Sys2Proof.Proofs

open Sys2Proof Sys2Proof.Machine Sys2Proof.Safety

/-! ### Host cycles that reach one port -/

/-- Two updates of one port are one. -/
theorem updPort_updPort (p : Port) (f g : HostPort → HostPort) (s : State) :
    updPort p g (updPort p f s) = updPort p (fun hp => g (f hp)) s := by
  have h : portAt (updPort p f s) p = f (portAt s p) := by simp
  unfold updPort at h ⊢
  rw [h, perSet_perSet]

/-- An update of one port, after which the arbiter grants, leaves everything but that port and the
standing grant. -/
theorem onlyPort_arbitrate_updPort (s : State) (p : Port) (f : HostPort → HostPort) :
    OnlyPort p (f (portAt s p)) s (arbitrate (updPort p f s)) := by
  refine ⟨?_, fun x => by simp, by simp, fun q hq => by simp [hq]⟩
  rw [arbitrate_eq]
  rfl

/-- A host cycle outside reset whose effect is an update of one port. -/
theorem hostStep_onlyPort {s : State} {p : Port} {f : HostPort → HostPort} {g : State → State}
    (hrst : s.rst = false) (hg : g s = updPort p f s) :
    ∃ t, hostStep s g = .next t ∧ OnlyPort p (f (portAt s p)) s t :=
  ⟨arbitrate (g s), (hostStep_next s g _).2 (.inr ⟨hrst, rfl⟩),
    hg ▸ onlyPort_arbitrate_updPort s p f⟩

/-- The answer of a write: the data lines are not driven (R205). -/
theorem answerZero_write_eq (p : Port) (v : Byte) (s : State) :
    answerZero p (.write v) s = updPort p (driving · none) s := rfl

/-! ### The writes of the window control -/

/-- UNMAP as one update of the port (R54). -/
theorem unmapWindow_eq (p : Port) (w : Window) (s : State) :
    unmapWindow p w s = updPort p (fun hp => putSlot w .empty (driving hp none)) s :=
  updPort_updPort p (driving · none) _ s

/-- SWAP as one update of the port (R55). -/
theorem swapWindows_eq (p : Port) (s : State) :
    swapWindows p s =
      updPort p (fun hp => { driving hp none with w0 := hp.saved, saved := hp.w0 }) s :=
  updPort_updPort p (driving · none) _ s

/-- CLEAR OVR as one update of the port (R56). -/
theorem clearOvrWindows_eq (p : Port) (s : State) :
    clearOvrWindows p s =
      updPort p (fun hp => { driving hp none with
        w0 := clearOvrSlot hp.w0, w1 := clearOvrSlot hp.w1 }) s :=
  updPort_updPort p (driving · none) _ s

/-- A value that is none of the four codes is only answered (R56). -/
theorem windowControlWrite_of_not_code (p : Port) (s : State) {v : Byte}
    (hv : v.toNat = 0 ∨ 4 < v.toNat) : windowControlWrite p v s = answerZero p (.write v) s := by
  have hne : v ≠ 1 ∧ v ≠ 2 ∧ v ≠ 3 ∧ v ≠ 4 := by
    refine ⟨?_, ?_, ?_, ?_⟩ <;> (rintro rfl; exact absurd hv (by decide))
  obtain ⟨h1, h2, h3, h4⟩ := hne
  simp only [windowControlWrite, if_neg h1, if_neg h2, if_neg h3, if_neg h4]

/-- A host write at offset 0x48 is a host cycle of the window control. -/
theorem exec_hostLocationWrite_windowControl (p : Port) (v : Byte) (s : State) :
    exec (.hostLocationWrite p 0x48 v) s = hostStep s (windowControlWrite p v) := rfl

/-- A read of the window control gives 0x00 (R56). -/
theorem readLocation_windowControl (hp : HostPort) : readLocation hp 0x48 = some 0 := rfl

/-- Settles O12: each write is one update of its port. -/
theorem windowControl : Obligations.WindowControl := by
  unfold Obligations.WindowControl
  refine ⟨fun s p hrst => ?clearOvr, fun s p v hrst hv => ?noCode, readLocation_windowControl,
    fun s p w hrst => ?unmap, fun s p hrst => ?swap⟩
  case clearOvr => exact hostStep_onlyPort hrst (clearOvrWindows_eq p s)
  case noCode =>
    rw [exec_hostLocationWrite_windowControl]
    exact hostStep_onlyPort hrst
      ((windowControlWrite_of_not_code p s hv).trans (answerZero_write_eq p v s))
  case unmap => exact hostStep_onlyPort hrst (unmapWindow_eq p w s)
  case swap => exact hostStep_onlyPort hrst (swapWindows_eq p s)

end Sys2Proof.Proofs

/-! UNPUBLISH (R113): the checks of its handling one by one, and the handling of a ready command as
the take, one reply, and the grant again. -/

namespace Sys2Proof.Proofs

open Sys2Proof Sys2Proof.Machine Sys2Proof.Safety

/-! ### The handling of a ready command -/

/-- The end of a handling changes the last-granted requester and the standing grant (R76). -/
theorem endHandling_eq (r : Requester) (s : State) :
    endHandling r s = { s with tcLast := r, tcGrant := (endHandling r s).tcGrant } :=
  arbitrate_eq _

/-- A ready command is taken and answered by its checks, and the handling ends (R69, R77, R79). -/
theorem portHandling_fromAttached_of_ready {s : State} {p : Port} {c : Command}
    (h : Ready s p c) (body : State → Answer) :
    portHandling p (some c) s (fromAttached p body) =
      .next (endHandling (.port p)
        (completeAnswer p (updPort p takeCommand s) (body (updPort p takeCommand s)))) := by
  obtain ⟨htaken, hatt⟩ := h
  have hadm : admitted (updPort p takeCommand s) p = true :=
    (admitted_iff _ _).2 (.inl (by simpa using hatt))
  refine (portHandling_next p _ s _ _).2 (.inl ⟨htaken, ?_⟩)
  simp [fromAttached, hadm]

/-- A completion of the command that was just taken is stored in its slot (R70). -/
theorem takeCompletion_takeCommand (r : Result) (area : List Byte) (hp : HostPort) :
    takeCompletion r area (takeCommand hp) = answered hp r area :=
  takeCompletion_busy rfl r area

/-! ### A reply that may change the Directory -/

/-- The handling of a port's command that leaves the Directory `d` and replies `r` with the bytes
`area`. -/
def directoryReply (p : Port) (r : Result) (area : List Byte) (d : List DirEntry) (s : State) :
    State :=
  endHandling (.port p) (complete p r area { updPort p takeCommand s with dir := d })

section
variable (p : Port) (r : Result) (area : List Byte) (d : List DirEntry) (s : State)

@[simp] theorem directoryReply_dir : (directoryReply p r area d s).dir = d := by
  rw [directoryReply, endHandling_eq]; rfl

@[simp] theorem directoryReply_mem : (directoryReply p r area d s).mem = s.mem := by
  rw [directoryReply, endHandling_eq]; rfl

theorem directoryReply_frame :
    directoryReply p r area d s =
      { s with ports := (directoryReply p r area d s).ports
               dir := (directoryReply p r area d s).dir
               tcLast := .port p
               tcGrant := (directoryReply p r area d s).tcGrant } := by
  rw [directoryReply, endHandling_eq]
  rfl

theorem portAt_directoryReply (q : Port) :
    portAt (directoryReply p r area d s) q =
      if q = p then answered (portAt s p) r area else portAt s q := by
  have hport : portAt (directoryReply p r area d s) q =
      portAt (complete p r area (updPort p takeCommand s)) q := by
    rw [directoryReply, endHandling_eq]; rfl
  rw [hport]
  by_cases hq : q = p <;> simp [hq, takeCompletion_takeCommand]

theorem sameBytes_directoryReply : SameBytes s (directoryReply p r area d s) := fun x => by simp

theorem otherPorts_directoryReply : OtherPorts p s (directoryReply p r area d s) := fun q hq => by
  rw [portAt_directoryReply, if_neg hq]

theorem portAt_directoryReply_self :
    portAt (directoryReply p r area d s) p = answered (portAt s p) r area := by
  rw [portAt_directoryReply, if_pos rfl]
end

/-! ### The checks of UNPUBLISH -/

theorem dirFind_eq_none_iff (d : List DirEntry) (name : Nat) :
    dirFind d name = none ↔ ∀ e ∈ d, e.name ≠ name := by
  simp [dirFind]

section
variable {s : State} {p : Port} (h : Ready s p .unpublish)
include h

/-- A ready UNPUBLISH is taken and answered by its checks. -/
theorem exec_unpublish_of_ready :
    exec (.unpublish p) s = .next (endHandling (.port p)
      (completeAnswer p (updPort p takeCommand s) (unpublishAnswer p (updPort p takeCommand s)))) :=
  portHandling_fromAttached_of_ready h (unpublishAnswer p)

/-- A check that fails leaves the Directory and replies with its result and a zero area (R81). -/
theorem exec_unpublish_of_error {r : Result}
    (hans : unpublishAnswer p (updPort p takeCommand s) = .error r) :
    exec (.unpublish p) s = .next (directoryReply p r [] s.dir s) := by
  rw [exec_unpublish_of_ready h, hans]
  rfl

/-- Check 1 of R113. -/
theorem exec_unpublish_range (hname : paramNum s p 0 = 0) :
    exec (.unpublish p) s = .next (directoryReply p .range [] s.dir s) :=
  exec_unpublish_of_error h (by simp [unpublishAnswer, hname])

/-- Check 2 of R113. -/
theorem exec_unpublish_notFound (hname : paramNum s p 0 ≠ 0)
    (hfind : dirFind s.dir (paramNum s p 0) = none) :
    exec (.unpublish p) s = .next (directoryReply p .notFound [] s.dir s) :=
  exec_unpublish_of_error h (by simp [unpublishAnswer, hname, hfind])

/-- Check 3 of R113. -/
theorem exec_unpublish_notOwner {e : DirEntry} (hname : paramNum s p 0 ≠ 0)
    (hfind : dirFind s.dir (paramNum s p 0) = some e) (hpub : e.publisher ≠ p) :
    exec (.unpublish p) s = .next (directoryReply p .notOwner [] s.dir s) :=
  exec_unpublish_of_error h (by simp [unpublishAnswer, hname, hfind, hpub])

/-- The effect of R113 when the three checks pass. -/
theorem exec_unpublish_ok {e : DirEntry} (hname : paramNum s p 0 ≠ 0)
    (hfind : dirFind s.dir (paramNum s p 0) = some e) (hpub : e.publisher = p) :
    exec (.unpublish p) s = .next (directoryReply p .ok
      (handleBytes e.handle ++ [byteOf (s.dir.filter (fun x => x.name ≠ paramNum s p 0)).length])
      (s.dir.filter (fun x => x.name ≠ paramNum s p 0)) s) := by
  have hkeep : (fun x : DirEntry => x.name != paramNum s p 0) =
      fun x => decide (x.name ≠ paramNum s p 0) := by
    funext x; simp [bne, beq_eq_decide]
  rw [exec_unpublish_of_ready h]
  simp only [unpublishAnswer, paramNum_take, updPort_dir, if_neg hname, hfind,
    if_neg (not_not_intro hpub), hkeep]
  rfl
end

/-- Whatever its checks find, a ready UNPUBLISH ends in one reply (R113). -/
theorem exec_unpublish_cases {s : State} {p : Port} (h : Ready s p .unpublish) :
    ∃ r area d, exec (.unpublish p) s = .next (directoryReply p r area d s) := by
  by_cases hname : paramNum s p 0 = 0
  · exact ⟨_, _, _, exec_unpublish_range h hname⟩
  cases hfind : dirFind s.dir (paramNum s p 0) with
  | none => exact ⟨_, _, _, exec_unpublish_notFound h hname hfind⟩
  | some e =>
    by_cases hpub : e.publisher = p
    · exact ⟨_, _, _, exec_unpublish_ok h hname hfind hpub⟩
    · exact ⟨_, _, _, exec_unpublish_notOwner h hname hfind hpub⟩

/-- A step ends in one state: when that is a reply, its Directory and its port are the reply's. -/
theorem directoryReply_reads {s t : State} {p : Port} {r : Result} {area : List Byte}
    {d : List DirEntry} {i : Instr} (ht : exec i s = .next t)
    (hr : exec i s = .next (directoryReply p r area d s)) :
    t.dir = d ∧ portAt t p = answered (portAt s p) r area := by
  obtain rfl : t = directoryReply p r area d s := Host.Outcome.next.inj (ht.symm.trans hr)
  exact ⟨directoryReply_dir .., portAt_directoryReply_self ..⟩

/-- Settles O28: every outcome is one reply with the frame of `directoryReply`, and the three checks
in their order say which. -/
theorem unpublishRule : Obligations.UnpublishRule := by
  unfold Obligations.UnpublishRule
  rintro s p _ h rfl
  obtain ⟨r, area, d, ht⟩ := exec_unpublish_cases h
  refine ⟨_, ht, directoryReply_frame p r area d s, sameBytes_directoryReply p r area d s,
    otherPorts_directoryReply p r area d s, fun hname => ?range, fun hname hno => ?notFound,
    fun e hname hfind => ⟨fun hpub => ?notOwner, fun hpub => ?ok⟩⟩
  case range => exact directoryReply_reads ht (exec_unpublish_range h hname)
  case notFound =>
    exact directoryReply_reads ht
      (exec_unpublish_notFound h hname ((dirFind_eq_none_iff _ _).2 hno))
  case notOwner => exact directoryReply_reads ht (exec_unpublish_notOwner h hname hfind hpub)
  case ok =>
    obtain ⟨hdir, hport⟩ := directoryReply_reads ht (exec_unpublish_ok h hname hfind hpub)
    exact ⟨hdir, hdir.symm ▸ hport⟩

end Sys2Proof.Proofs

/-! DECLINE and WITHDRAW (R127, R128): an offer that ends without ACCEPT, and the checks of
WITHDRAW in their order. -/

namespace Sys2Proof.Proofs

open Sys2Proof Sys2Proof.Machine Sys2Proof.Safety

/-! ### What the end of a handling leaves -/

section
variable (r : Requester) (s : State)

@[simp] theorem portAt_endHandling (q : Port) : portAt (endHandling r s) q = portAt s q :=
  portAt_arbitrate _ q

@[simp] theorem recAt_endHandling (b : BufNo) : recAt (endHandling r s) b = recAt s b :=
  recAt_arbitrate _ b

@[simp] theorem offerAt_endHandling (id : OfferId) :
    offerAt (endHandling r s) id = offerAt s id := offerAt_arbitrate _ id

@[simp] theorem endHandling_mem : (endHandling r s).mem = s.mem := arbitrate_mem _
end

/-! ### A refused command -/

/-- A ready command that a check refuses is completed with the check's result and a zero area, and
nothing else changes (R79, R81). -/
theorem portHandling_refused {s : State} {p : Port} {c : Command} {body : State → Answer}
    {r : Result} (h : Ready s p c) (hans : body (updPort p takeCommand s) = .error r) :
    ∃ t, portHandling p (some c) s (fromAttached p body) = .next t ∧
      t = { s with ports := t.ports, tcLast := .port p, tcGrant := t.tcGrant } ∧ SameBytes s t ∧
      portAt t p = answered (portAt s p) r [] ∧ OtherPorts p s t := by
  have hframe := directoryReply_frame p r [] s.dir s
  rw [directoryReply_dir] at hframe
  refine ⟨directoryReply p r [] s.dir s, ?_, hframe,
    sameBytes_directoryReply p r [] s.dir s, portAt_directoryReply_self p r [] s.dir s,
    otherPorts_directoryReply p r [] s.dir s⟩
  rw [portHandling_fromAttached_of_ready h, hans]
  rfl

/-- The result of a handle that is not valid (R5): RANGE above 1023, BAD_HANDLE up to it. -/
theorem checkHandle_error {s : State} {p : Port} {i : Nat} {r : Result}
    (h : checkHandle s p i = .error r) :
    (r = .range ↔ 1024 ≤ paramNum s p i) ∧ (r = .badHandle ↔ paramNum s p i < 1024) := by
  unfold checkHandle bufNoOf at h
  by_cases hn : paramNum s p i < 1024
  · have hr : r = .badHandle := by
      rw [dif_pos hn] at h
      dsimp only at h
      split at h
      · cases h; rfl
      · split at h <;> cases h
        rfl
    simp [hr, hn]
  · have hr : r = .range := by
      rw [dif_neg hn] at h
      cases h; rfl
    simp [hr, Nat.le_of_not_lt hn]

/-! ### An offer that ends without ACCEPT -/

/-- The handling of a port's command that frees an offer entry, leaves a record HELD with an empty
share set, appends a notice to a port's queue, and replies OK with the offer id (R9). -/
def offerEndReply (p q : Port) (id : OfferId) (b : BufNo) (l : Live) (n : Notice) (s : State) :
    State :=
  updPort p takeCommand s |> setOffer id none |> setLive b { l with st := .held noPorts }
    |> notify q n |> complete p .ok [byteOf id.val] |> endHandling (.port p)

section
variable (p q : Port) (id : OfferId) (b : BufNo) (l : Live) (n : Notice) (s : State)

theorem offerEndReply_frame :
    offerEndReply p q id b l n s =
      { s with ports := (offerEndReply p q id b l n s).ports
               buffers := (offerEndReply p q id b l n s).buffers
               offers := (offerEndReply p q id b l n s).offers
               tcLast := .port p
               tcGrant := (offerEndReply p q id b l n s).tcGrant } := by
  rw [offerEndReply, endHandling_eq]
  rfl

theorem sameBytes_offerEndReply : SameBytes s (offerEndReply p q id b l n s) := fun x => by
  simp [offerEndReply]

theorem recordBecomes_offerEndReply :
    RecordBecomes b { l with st := .held noPorts } s (offerEndReply p q id b l n s) :=
  ⟨by simp [offerEndReply], fun c hc => by simp [offerEndReply, hc]⟩

theorem offerAt_offerEndReply (i : OfferId) :
    offerAt (offerEndReply p q id b l n s) i = if i = id then none else offerAt s i := by
  simp [offerEndReply]

theorem portAt_offerEndReply_caller (hq : q ≠ p) :
    portAt (offerEndReply p q id b l n s) p = answered (portAt s p) .ok [byteOf id.val] := by
  simp [offerEndReply, hq.symm, takeCompletion_takeCommand]

theorem portAt_offerEndReply_notified (hq : q ≠ p) :
    portAt (offerEndReply p q id b l n s) q = notified (portAt s q) n := by
  simp [offerEndReply, hq, takeAppend_eq]

theorem portAt_offerEndReply_other {r : Port} (hp : r ≠ p) (hq : r ≠ q) :
    portAt (offerEndReply p q id b l n s) r = portAt s r := by
  simp [offerEndReply, hp, hq]
end

/-- A handling that ends in this reply has the effect that R127 and R128 state, and no other: the
caller and the port that is told of the end are two ports (R120). -/
theorem offerEndReply_effect {out : Host.Outcome State Fault Refusal} {s : State} {p q : Port}
    {id : OfferId} {b : BufNo} {l : Live} {n : Notice}
    (hout : out = .next (offerEndReply p q id b l n s)) (hq : q ≠ p) :
    ∃ t, out = .next t ∧
      t = { s with ports := t.ports, buffers := t.buffers, offers := t.offers,
                   tcLast := .port p, tcGrant := t.tcGrant } ∧
      SameBytes s t ∧ RecordBecomes b { l with st := .held ⟨false, false, false, false⟩ } s t ∧
      offerAt t id = none ∧ OtherOffers id s t ∧
      portAt t p = answered (portAt s p) .ok [byteOf id.val] ∧
      portAt t q = notified (portAt s q) n ∧
      (∀ r, r ≠ p → r ≠ q → portAt t r = portAt s r) := by
  refine ⟨_, hout, offerEndReply_frame p q id b l n s, sameBytes_offerEndReply p q id b l n s,
    recordBecomes_offerEndReply p q id b l n s, ?free, fun i hi => ?others,
    portAt_offerEndReply_caller p q id b l n s hq,
    portAt_offerEndReply_notified p q id b l n s hq,
    fun r hp hr => portAt_offerEndReply_other p q id b l n s hp hr⟩
  case free => rw [offerAt_offerEndReply, if_pos rfl]
  case others => rw [offerAt_offerEndReply, if_neg hi]

/-- The record that an ending offer names is OFFERED under its id, so it returns to HELD (R9). -/
theorem endOffer_of_offered {s : State} {id : OfferId} {o : Offer} {l : Live}
    (hlive : liveAt s o.handle.buf = some l) (hst : l.st = .offered id) :
    endOffer id o s =
      setLive o.handle.buf { l with st := .held noPorts } (setOffer id none s) := by
  simp [endOffer, hlive, hst]

/-! ### The checks of DECLINE and WITHDRAW -/

/-- An offer id given as a byte. -/
theorem offerIdOf_of_toNat {v : Byte} {id : OfferId} (h : v.toNat = id.val) :
    offerIdOf v = some id := by
  simp [offerIdOf, offerNoOf, h]

/-- An entry in use that names the buffer and the caller is matched (R124). -/
theorem matchOffer_of_entry {s : State} {p : Port} {b : BufNo} {id : OfferId} {o : Offer}
    (hid : (param s p 3).toNat = id.val) (hoffer : offerAt s id = some o)
    (hbuf : o.handle.buf = b) (hdst : o.dst = p) : matchOffer p b s = .ok (id, o) := by
  simp [matchOffer, offerIdOf_of_toNat hid, hoffer, hbuf, hdst]

section
variable {s : State} {p : Port} {b : BufNo} {l : Live} {id : OfferId} {o : Offer}
  (hcheck : checkHandle s p 0 = .ok (b, l))
include hcheck

/-- DECLINE when its checks pass (R127). -/
theorem exec_decline_ok (h : Ready s p .decline) (hid : (param s p 3).toNat = id.val)
    (hoffer : offerAt s id = some o) (hbuf : o.handle.buf = b) (hdst : o.dst = p)
    (hst : l.st = .offered id) :
    exec (.decline p) s = .next
      (offerEndReply p o.src id b l (.declined id ⟨b, genAt s b⟩ .decline) s) := by
  subst hbuf
  obtain ⟨-, hlive, -⟩ := checkHandle_ok hcheck
  have hmatch : matchOffer p o.handle.buf (updPort p takeCommand s) = .ok (id, o) :=
    matchOffer_of_entry ((param_take s p p 3).symm ▸ hid) hoffer rfl hdst
  have hend := endOffer_of_offered (s := updPort p takeCommand s) hlive hst
  refine (portHandling_fromAttached_of_ready h (declineAnswer p)).trans ?_
  simp only [declineAnswer, checkHandle_take, hcheck, hmatch, hend]
  rfl

/-- WITHDRAW when its checks pass (R128). -/
theorem exec_withdraw_ok (h : Ready s p .withdraw) (howner : l.owner = p)
    (hst : l.st = .offered id) (hoffer : offerAt s id = some o) (hbuf : o.handle.buf = b) :
    exec (.withdraw p) s = .next
      (offerEndReply p o.dst id b l (.withdrawn id ⟨b, genAt s b⟩) s) := by
  subst hbuf
  obtain ⟨-, hlive, -⟩ := checkHandle_ok hcheck
  have href : offerRefOf l = some id := by simp [offerRefOf, hst]
  have hend := endOffer_of_offered (s := updPort p takeCommand s) hlive hst
  refine (portHandling_fromAttached_of_ready h (withdrawAnswer p)).trans ?_
  simp only [withdrawAnswer, checkHandle_take, hcheck, if_neg (not_not_intro howner), href,
    offerAt_updPort, hoffer, hend]
  rfl

/-- Check 2 of R128. -/
theorem withdrawAnswer_notOwner (howner : l.owner ≠ p) : withdrawAnswer p s = .error .notOwner := by
  simp [withdrawAnswer, hcheck, howner]

/-- Check 3 of R128. -/
theorem withdrawAnswer_state (howner : l.owner = p) (href : offerRefOf l = none) :
    withdrawAnswer p s = .error .state := by
  simp [withdrawAnswer, hcheck, howner, href]
end

/-- Check 1 of R128. -/
theorem withdrawAnswer_invalidHandle {s : State} {p : Port} {r : Result}
    (hcheck : checkHandle s p 0 = .error r) : withdrawAnswer p s = .error r := by
  simp [withdrawAnswer, hcheck]

/-- Settles O33: both commands that pass their checks end in `offerEndReply`, and a check of WITHDRAW
that fails refuses it. -/
theorem declineAndWithdraw : Obligations.DeclineAndWithdraw := by
  unfold Obligations.DeclineAndWithdraw
  refine ⟨fun s p b l id o h hcheck hid hoffer hbuf hdst hst hsrc => ?decline,
    fun s p b l id o h hcheck howner hst hoffer hbuf hdst => ?withdraw,
    fun s p b l h hcheck hrefused => ?notOffered, fun s p r h hcheck => ?invalidHandle⟩
  case decline =>
    exact offerEndReply_effect (exec_decline_ok hcheck h hid hoffer hbuf hdst hst) hsrc
  case withdraw =>
    exact offerEndReply_effect (exec_withdraw_ok hcheck h howner hst hoffer hbuf) hdst
  case notOffered =>
    have htake := (checkHandle_take s p p 0).trans hcheck
    refine portHandling_refused h (body := withdrawAnswer p) ?_
    obtain howner | ⟨howner, href⟩ := hrefused
    · rw [if_neg howner]; exact withdrawAnswer_notOwner htake howner
    · rw [if_pos howner]; exact withdrawAnswer_state htake howner href
  case invalidHandle =>
    have htake := (checkHandle_take s p p 0).trans hcheck
    have hanswered := portHandling_refused h (withdrawAnswer_invalidHandle htake)
    obtain ⟨hrange, hbadHandle⟩ := checkHandle_error hcheck
    exact ⟨hrange, hbadHandle, hanswered⟩

end Sys2Proof.Proofs

/-! DETACH (R174): a completion with OK, and then the start step of a teardown (R179, R180). -/

namespace Sys2Proof.Proofs

open Sys2Proof Sys2Proof.Machine Sys2Proof.Safety

/-! ### The parts of a start step -/

/-- A teardown start at the walk list changes the list and its active walk and nothing else
(R180). -/
theorem addWalk_eq (p : Port) (s : State) :
    addWalk p s = { s with walkList := (addWalk p s).walkList
                           walkPhase := (addWalk p s).walkPhase
                           walkPos := (addWalk p s).walkPos } := by
  unfold addWalk
  split <;> rfl

theorem walkJoined_addWalk (p : Port) (s : State) : WalkJoined p s (addWalk p s) := by
  unfold addWalk
  split
  · next hnil => exact ⟨by rw [hnil]; rfl, fun _ => ⟨rfl, rfl⟩, fun hne => absurd hnil hne⟩
  · next hne => exact ⟨rfl, fun hnil => absurd hnil hne, fun _ => ⟨rfl, rfl⟩⟩

/-- A stop says what R165 says, in each of the states a job may be in. -/
theorem jobStopped_stopJob (p : Port) (c : StopCause) (s : State) :
    JobStopped p c s (stopJob p c s) := by
  unfold JobStopped stopJob
  cases hjob : jobAt s p with
  | none => exact ⟨fun _ _ => rfl, hjob, rfl⟩
  | some j =>
    cases hstate : j.state with
    | stopping c' => exact ⟨fun _ _ => by simp [hstate], by simp [hstate, hjob]⟩
    | running =>
      cases hpage : copyPageOf s.page p with
      | true => exact ⟨fun q hq => by simp [hstate, hq], by simp [hstate]⟩
      | false =>
        exact ⟨fun q hq => by simp [hstate, endJob, jobAt, setJob, hq],
          by simp [hstate, endJob, jobAt, setJob]⟩

theorem tornDown_startStepPort (c : TeardownCause) (hp : HostPort) :
    TornDown c hp (startStepPort c hp) := by
  refine ⟨rfl, rfl, rfl, rfl, rfl, rfl, rfl, rfl, rfl, rfl, rfl, ?params, ?held, ?kept⟩
  case params => cases hstate : hp.cmd.state <;> simp [startStepPort, hstate]
  case held => rintro (hstate | hstate) <;> simp [startStepPort, hstate]
  case kept => rintro (hstate | hstate) <;> simp [startStepPort, hstate]

/-- ATN is low outside ATTACHED (R156). -/
theorem atnLevel_of_not_attached {hp : HostPort} (h : hp.state ≠ .attached) :
    atnLevel hp = false := by
  simp [atnLevel, h]

/-! ### The start step -/

/-- The start step of a port that holds no command to be taken (R179, R180): at the port itself, at
its job, and at the walk list. -/
def startStep (p : Port) (c : TeardownCause) (s : State) : State :=
  s |> updPort p (startStepPort c) |> stopJob p .aborted |> addWalk p

section
variable (p : Port) (c : TeardownCause) (s : State)

/-- A cause at an ATTACHED port whose slot is not PENDING is a start step: there is no take it could
meet (R74). -/
theorem teardownCause_eq_startStep (hatt : attached s p = true)
    (hcmd : (portAt s p).cmd.state ≠ .pending) : teardownCause p c s = startStep p c s := by
  have hmeet : meetTake p s = s := by simp [meetTake, hcmd]
  simp [teardownCause, hatt, hmeet, startStep]

theorem startStep_frame :
    startStep p c s =
      { s with ports := (startStep p c s).ports
               jobs := (startStep p c s).jobs
               reports := (startStep p c s).reports
               walkList := (startStep p c s).walkList
               walkPhase := (startStep p c s).walkPhase
               walkPos := (startStep p c s).walkPos } := by
  rw [startStep, addWalk_eq, stopJob_eq]
  rfl

theorem portAt_startStep (q : Port) :
    portAt (startStep p c s) q =
      if q = p then startStepPort c (portAt s p) else portAt s q := by
  have hport : portAt (startStep p c s) q = portAt (updPort p (startStepPort c) s) q := by
    rw [startStep, addWalk_eq, stopJob_eq]
    rfl
  rw [hport, portAt_updPort]

theorem walkJoined_startStep : WalkJoined p s (startStep p c s) := by
  have h := walkJoined_addWalk p (stopJob p .aborted (updPort p (startStepPort c) s))
  rw [stopJob_eq] at h
  rw [startStep, stopJob_eq]
  exact h

theorem jobStopped_startStep : JobStopped p .aborted s (startStep p c s) := by
  rw [startStep, addWalk_eq]
  exact jobStopped_stopJob p .aborted (updPort p (startStepPort c) s)
end

/-! ### DETACH -/

/-- The handling of a DETACH that is accepted: the slot answered OK, and the start step after it. -/
def detachReply (p : Port) (s : State) : State :=
  s |> updPort p (answered · .ok []) |> startStep p .detach |> endHandling (.port p)

section
variable (p : Port) (s : State)

theorem detachReply_frame :
    detachReply p s =
      { s with ports := (detachReply p s).ports
               jobs := (detachReply p s).jobs
               reports := (detachReply p s).reports
               walkList := (detachReply p s).walkList
               walkPhase := (detachReply p s).walkPhase
               walkPos := (detachReply p s).walkPos
               tcLast := .port p
               tcGrant := (detachReply p s).tcGrant } := by
  rw [detachReply, endHandling_eq, startStep_frame]
  rfl

theorem sameBytes_detachReply : SameBytes s (detachReply p s) := fun x => by
  rw [detachReply_frame]

theorem portAt_detachReply_self :
    portAt (detachReply p s) p = startStepPort .detach (answered (portAt s p) .ok []) := by
  simp [detachReply, portAt_startStep]

theorem otherPorts_detachReply : OtherPorts p s (detachReply p s) := fun q hq => by
  simp [detachReply, portAt_startStep, hq]

theorem jobStopped_detachReply : JobStopped p .aborted s (detachReply p s) := by
  rw [detachReply, endHandling_eq]
  exact jobStopped_startStep p .detach (updPort p (answered · .ok []) s)

theorem walkJoined_detachReply : WalkJoined p s (detachReply p s) := by
  rw [detachReply, endHandling_eq]
  exact walkJoined_startStep p .detach (updPort p (answered · .ok []) s)
end

/-- A completion of the command that was just taken is one update of its port (R69, R70). -/
theorem complete_take_eq (p : Port) (r : Result) (area : List Byte) (s : State) :
    complete p r area (updPort p takeCommand s) = updPort p (answered · r area) s := by
  simp only [complete, updPort_updPort, takeCompletion_takeCommand]

section
variable {s : State} {p : Port}

/-- A posted DETACH is taken and handled, whatever the state of its port. -/
theorem exec_detach_of_taken (h : Taken s p (some .detach)) :
    exec (.detach p) s =
      .next (endHandling (.port p) (detachFrom p (updPort p takeCommand s))) :=
  (portHandling_next p _ s _ _).2 (.inl ⟨h, rfl⟩)

/-- DETACH from an ATTACHED port (R174): the slot is DONE when the cause reaches it. -/
theorem exec_detach_of_ready (h : Ready s p .detach) :
    exec (.detach p) s = .next (detachReply p s) := by
  obtain ⟨htaken, hatt⟩ := h
  have hanswered : attached (updPort p (answered · .ok []) s) p = true := by
    simpa [attached, answered] using hatt
  have hdone : (portAt (updPort p (answered · .ok []) s) p).cmd.state ≠ .pending := by
    simp [answered]
  rw [exec_detach_of_taken htaken, detachFrom, if_pos ((attached_take s p p).trans hatt),
    complete_take_eq, teardownCause_eq_startStep p .detach _ hanswered hdone]
  rfl

/-- DETACH from any other port is a refusal that leaves the Directory (R79). -/
theorem exec_detach_of_not_attached (h : Taken s p (some .detach)) (hatt : attached s p = false) :
    exec (.detach p) s = .next (directoryReply p .detached [] s.dir s) := by
  rw [exec_detach_of_taken h, detachFrom, attached_take, hatt]
  rfl
end

/-- Settles O18: from an ATTACHED port the handling is `detachReply`, whose parts are those of the
start step at a DONE slot; from any other it is a refusal. -/
theorem detachRule : Obligations.DetachRule := by
  unfold Obligations.DetachRule
  refine ⟨fun s p h => ?attached, fun s p h hstate => ?refused⟩
  case attached =>
    have hport := portAt_detachReply_self p s
    have htorn := tornDown_startStepPort .detach (answered (portAt s p) .ok [])
    refine ⟨_, exec_detach_of_ready h, detachReply_frame p s, sameBytes_detachReply p s,
      otherPorts_detachReply p s, hport ▸ htorn, ?done, ?atn, jobStopped_detachReply p s,
      walkJoined_detachReply p s⟩
    case done => rw [hport]; rfl
    case atn => exact atnLevel_of_not_attached (by rw [hport]; simp [startStepPort])
  case refused =>
    have hatt : attached s p = false := by
      obtain hs | hs := hstate <;> simp [attached, hs]
    have hframe := directoryReply_frame p .detached [] s.dir s
    rw [directoryReply_dir] at hframe
    exact ⟨_, exec_detach_of_not_attached h hatt, hframe,
      sameBytes_directoryReply p .detached [] s.dir s,
      portAt_directoryReply_self p .detached [] s.dir s,
      otherPorts_directoryReply p .detached [] s.dir s⟩

end Sys2Proof.Proofs

/-! The actions that a step is made of. Every command changes the records in one of a few ways (a
retirement, a return, a take of pages, …); the laws that every step keeps are proved of these actions,
once each, and every command is shown to be a chain of them. -/

namespace Sys2Proof.Proofs

open Sys2Proof Sys2Proof.Machine Sys2Proof.Safety

/-! ### What a Host Port may do within an action -/

/-- The three window slots of a Host Port (R44). -/
def slotsOf (hp : HostPort) : List WindowSlot := [hp.w0, hp.w1, hp.saved]

/-- A Host Port with EMPTY slots, an empty queue, LOST clear and an empty fault record. -/
def Bare (hp : HostPort) : Prop :=
  hp.w0 = .empty ∧ hp.w1 = .empty ∧ hp.saved = .empty ∧ hp.queue = [] ∧ hp.lost = false ∧
    hp.fault = none

/-- A change of a Host Port that keeps its state, its queue at 16 notices at most, and a bare port
that is not ATTACHED bare. -/
structure Still (hp new : HostPort) : Prop where
  state : new.state = hp.state
  queue : hp.queue.length ≤ 16 → new.queue.length ≤ 16
  bare : hp.state ≠ .attached → Bare hp → Bare new

/-- A mapping after accesses that move its position within the buffer (R48, R51, R52). -/
def MovedTo (m m' : Mapping) : Prop :=
  m'.handle = m.handle ∧ m'.mode = m.mode ∧ m'.lengthCopy = m.lengthCopy ∧
    (m'.pageIndex = m.pageIndex ∨ m'.pageIndex < m.lengthCopy)

/-- Every mapping of `new` is a mapping of `hp`, its position apart. -/
def SlotsFrom (hp new : HostPort) : Prop :=
  ∀ m', .mapped m' ∈ slotsOf new → ∃ m, .mapped m ∈ slotsOf hp ∧ MovedTo m m'

/-- A change of a Host Port that makes no mapping. -/
structure Calm (hp new : HostPort) : Prop extends Still hp new where
  slots : SlotsFrom hp new

theorem Still.refl (hp : HostPort) : Still hp hp := ⟨rfl, id, fun _ => id⟩

theorem Still.trans {a b c : HostPort} (h : Still a b) (k : Still b c) : Still a c :=
  ⟨k.state.trans h.state, k.queue ∘ h.queue, fun ha hb => k.bare (h.state ▸ ha) (h.bare ha hb)⟩

theorem MovedTo.refl (m : Mapping) : MovedTo m m := ⟨rfl, rfl, rfl, .inl rfl⟩

theorem MovedTo.trans {a b c : Mapping} (h : MovedTo a b) (k : MovedTo b c) : MovedTo a c := by
  obtain ⟨hh, hm, hl, hp⟩ := h
  obtain ⟨kh, km, kl, kp⟩ := k
  refine ⟨kh.trans hh, km.trans hm, kl.trans hl, ?_⟩
  obtain kp | kp := kp
  · rw [kp]; exact hp
  · exact .inr (hl ▸ kp)

theorem SlotsFrom.refl (hp : HostPort) : SlotsFrom hp hp := fun m h => ⟨m, h, .refl m⟩

theorem Calm.refl (hp : HostPort) : Calm hp hp := ⟨.refl hp, .refl hp⟩

theorem Calm.trans {a b c : HostPort} (h : Calm a b) (k : Calm b c) : Calm a c := by
  refine ⟨h.toStill.trans k.toStill, fun m hm => ?_⟩
  obtain ⟨m₁, hm₁, hmove₁⟩ := k.slots m hm
  obtain ⟨m₂, hm₂, hmove₂⟩ := h.slots m₁ hm₁
  exact ⟨m₂, hm₂, hmove₂.trans hmove₁⟩

/-- A change that keeps the three slots makes no mapping. -/
theorem SlotsFrom.of_slots_eq {hp new : HostPort} (h : slotsOf new = slotsOf hp) :
    SlotsFrom hp new := fun m hm => ⟨m, h ▸ hm, .refl m⟩

/-! ### What an action may do to a live record -/

/-- A live record with the same owner and the same chain. -/
structure SameBody (l l' : Live) : Prop where
  owner : l'.owner = l.owner
  length : l'.length = l.length
  head : l'.head = l.head
  tail : l'.tail = l.tail

/-- Every mode that a port's access allowed it still allows (R13). -/
def AccessKept (l l' : Live) (p : Port) : Prop :=
  ∀ mode, allows (access l p) mode = true → allows (access l' p) mode = true

/-- A record is OFFERED under the ids it was OFFERED under. -/
def SameOffer (l l' : Live) : Prop := ∀ id, l'.st = .offered id ↔ l.st = .offered id

/-- The record at the position of the active walk, in phase BUFFERS, of a port (R180). -/
def AtWalk (s : State) (b : BufNo) (q : Port) : Prop :=
  s.walkList.head? = some q ∧ s.walkPhase = .buffers ∧ s.walkPos = b.val

/-- A revocation of kind TEARDOWN stands already, or is that of the active walk at this record
(R186). -/
def RevocationFrom (s : State) (b : BufNo) (l l' : Live) : Prop :=
  ∀ q, l'.pendingRev = some ⟨.teardown, q⟩ →
    l.pendingRev = some ⟨.teardown, q⟩ ∨ AtWalk s b q

/-- What a mapping says of its buffer (R63). -/
def Backed (s : State) (p : Port) (m : Mapping) : Prop :=
  ∃ l, liveAt s m.handle.buf = some l ∧ genAt s m.handle.buf = m.handle.gen ∧
    m.lengthCopy = l.length ∧ m.pageIndex < l.length ∧ allows (access l p) m.mode = true

/-- A port acts for itself: it is ATTACHED, or its command was taken before its teardown started
(R74). -/
def Acting (s : State) (p : Port) : Prop :=
  attached s p = true ∨ ∃ slot, s.underway = some (.command p slot)

/-! ### The actions -/

/-- One action of a step that begins in `s₀`. What an action takes from a law of `s₀` it has as a
premise under that law: the walk finds a record in a list that is known to be the record's table only
when the tables have their canonical form. Only where `begins` holds may a handling begin that is
still in progress at the end of the step. -/
inductive Act (s₀ : State) (begins : Prop) : State → State → Prop
  /-- Fields that no law but the arbiter's speaks of. -/
  | quiet (s : State) (memLast : MemRequester) (jobs : PerPort (Option Job)) (nextKind : WorkKind)
      (lastCopy : Port) (reports : List Report) (maint : MaintState) (sdo : List Byte)
      (freeCount : Nat) :
      Act s₀ begins s { s with
        memLast := memLast, jobs := jobs, nextKind := nextKind, lastCopy := lastCopy,
        reports := reports, maint := maint, sdo := sdo, freeCount := freeCount }
  /-- HOLD and RELEASE (R194). -/
  | held (s : State) (paused hold : Bool) (hgrant : s₀.tcGrant = some .maintenance) :
      Act s₀ begins s { s with paused := paused, hold := hold }
  /-- The release of RST (R206). -/
  | released (s : State) (hrst : s.rst = true) : Act s₀ begins s { s with rst := false }
  /-- Changes of Host Ports that make no mapping. -/
  | calm (s : State) (ports : PerPort HostPort)
      (h : ∀ p, Calm (portAt s p) (perGet ports p)) : Act s₀ begins s { s with ports := ports }
  /-- The Deadline Unit, and the start and the end of a tick handling (R134). -/
  | clock (s : State) (prescaler period pendingTicks : Nat) (underway : Option Underway)
      (hunder : underway = s.underway ∨ begins ∧ (underway = none ∨
        ∃ k, underway = some (.ticks k) ∧ s.tcGrant = some .tick ∧ s.rst = false ∧ s.hold = false ∧
          1 ≤ k))
      (hrange : RangeLaw s → RangeLaw { s with
        prescaler := prescaler, period := period, pendingTicks := pendingTicks,
        underway := underway }) :
      Act s₀ begins s { s with
        prescaler := prescaler, period := period, pendingTicks := pendingTicks,
        underway := underway }
  /-- A write to the configuration (R193). -/
  | config (s : State) (cfg : Cfg) (hrange : RangeLaw s → RangeLaw { s with cfg := cfg })
      (hoffer : 1 ≤ s.cfg.offerTicks ∧ s.cfg.offerTicks ≤ 65535 →
        1 ≤ cfg.offerTicks ∧ cfg.offerTicks ≤ 65535) : Act s₀ begins s { s with cfg := cfg }
  /-- The Data Mover's transfer is served (R31, R33). -/
  | serve (s t : State) (h : serveMover s = some t)
      (hsafe : PageLaw s₀ → ∀ p bytes pg, s.page = some (.copyWrite p bytes false) →
        copyDest s p = some pg → pg ∉ s.freeList) : Act s₀ begins s t
  /-- A host's byte is stored in a page of a buffer (R32). -/
  | hostStore (s : State) (pg : PageNo) (k : Nat) (v : Byte) (hk : k < 64)
      (hsafe : PageLaw s₀ → pg ∉ s.freeList ∧ s.page ≠ some (.scrub pg true)) :
      Act s₀ begins s { s with mem := memWrite s.mem (pageAddr pg k) v }
  /-- A run of bytes is stored in a chained page (R197). -/
  | maintStore (s : State) (pg : PageNo) (k : Nat) (vs : List Byte) (hk : k + vs.length ≤ 64)
      (hsafe : PageLaw s₀ → pg ∉ s.freeList ∧ s.page ≠ some (.scrub pg true)) :
      Act s₀ begins s { s with mem := memWriteRun s.mem (pageAddr pg k) vs }
  /-- A scrub step begins (R37). -/
  | startScrub (s : State) (hpage : s.page = none) : Act s₀ begins s (startScrub s)
  /-- A scrub step ends (R38). -/
  | endScrub (s : State) (pg : PageNo) (hpage : s.page = some (.scrub pg true)) :
      Act s₀ begins s (endScrub pg s)
  /-- A copy page goes on or ends (R162, R163). -/
  | copyWork (s : State) (page : Option PageWork) (hcopy : ∀ pg served, page ≠ some (.scrub pg served))
      (hbytes : MemoryLaw s → MemoryLaw { s with page := page }) : Act s₀ begins s { s with page := page }
  /-- A DETACHED port becomes ATTACHED (R172). -/
  | attach (s : State) (p : Port) (h : (portAt s p).state = .detached) :
      Act s₀ begins s (updPort p takeAttach s)
  /-- The start step of an ATTACHED port (R179, R180). -/
  | start (s : State) (p : Port) (c : TeardownCause) (hatt : attached s p = true) :
      Act s₀ begins s (addWalk p (updPort p (startStepPort c) s))
  /-- The start step of an ATTACHED port whose command was taken before it (R74). -/
  | startTaken (s : State) (p : Port) (c : TeardownCause) (slot : CmdSlot)
      (hatt : attached s p = true) (hbegins : begins) (hgrant : s.tcGrant = some (.port p))
      (hrst : s.rst = false) (hhold : s.hold = false) (hidle : slot.state = .idle)
      (hcancel : slot.cancelRequested = false) :
      Act s₀ begins s (addWalk p (updPort p (startStepPort c)
        { s with underway := some (.command p slot) }))
  /-- The active walk comes to an offer (R181). -/
  | walkOffer (s : State) (p : Port) (id : OfferId) (o : Offer)
      (hgrant : s.tcGrant = some .teardown) (hhead : s.walkList.head? = some p)
      (hphase : s.walkPhase = .offers) (hnext : nextRelatedOffer s p s.walkPos = some (id, o)) :
      Act s₀ begins s { s with walkPos := id.val }
  /-- The active walk comes to a record (R181). -/
  | walkBuffer (s : State) (p : Port) (b : BufNo) (hgrant : s.tcGrant = some .teardown)
      (hwait : walkWaits s = false) (hhead : s.walkList.head? = some p)
      (hoffers : s.walkPhase = .offers → nextRelatedOffer s p s.walkPos = none) :
      Act s₀ begins s { s with walkPhase := .buffers, walkPos := b.val }
  /-- The active walk ends (R187). -/
  | endWalk (s : State) (p : Port) (hgrant : s.tcGrant = some .teardown)
      (hwait : walkWaits s = false) (hhead : s.walkList.head? = some p) :
      Act s₀ begins s (endWalk p s)
  /-- A new buffer (R87). -/
  | alloc (s : State) (p : Port) (b : BufNo) (n : Nat) (hd tl : PageNo) (hvacant : liveAt s b = none)
      (hpos : 1 ≤ n) (hmax : n ≤ 32) (hfree : n ≤ s.freeList.length)
      (hhd : (s.freeList.take n).head? = some hd) (htl : (s.freeList.take n).getLast? = some tl) :
      Act s₀ begins s (s |> takeAndChain b none n |> setLive b (newLive p (s.freeList.take n) hd tl)
        |> raiseCounts p 1 n)
  /-- A buffer grows (R89). -/
  | extend (s : State) (b : BufNo) (l : Live) (n : Nat) (tl : PageNo) (hlive : liveAt s b = some l)
      (hpos : 1 ≤ n) (hmax : l.length + n ≤ 32) (hfree : n ≤ s.freeList.length)
      (htl : (s.freeList.take n).getLast? = some tl) :
      Act s₀ begins s (s |> takeAndChain b (some l.tail) n
        |> setLive b { l with length := l.length + n, tail := tl } |> raiseCounts l.owner 0 n
        |> updPorts (fun _ => onSlots (lengthSlot (handleAt s b) (l.length + n))))
  /-- A buffer shrinks (R91). -/
  | trim (s : State) (b : BufNo) (l : Live) (n : Nat) (hlive : liveAt s b = some l) (hpos : 1 ≤ n)
      (hlt : n < l.length) :
      Act s₀ begins s (s |> scrubPages ((chainOf s l).drop (l.length - n))
        |> cutChain b ((((chainOf s l).take (l.length - n)).getLast?).getD l.head)
        |> setLive b { l with
            length := l.length - n
            tail := (((chainOf s l).take (l.length - n)).getLast?).getD l.head }
        |> lowerCounts l.owner 0 n
        |> updPorts (trimPort l.owner (handleAt s b) (l.length - n)))
  /-- A record is retired (R11). -/
  | retire (s : State) (b : BufNo) (l l' : Live) (cause : Cause) (caller : Option Port)
      (hlive : TableLaw s₀ → liveAt s b = some l) (hbody : SameBody l l')
      (hoffer : TableLaw s₀ → OfferLaw s → PassedLaw s → ∀ id, l.st ≠ .offered id) :
      Act s₀ begins s (retire b l' cause caller s)
  /-- A slot is MAPPED (R58). -/
  | install (s : State) (p : Port) (w : Window) (m : Mapping) (h : Backed s p m) :
      Act s₀ begins s (updPort p (takeInstall w m) s)
  /-- A record changes and no port loses access. -/
  | relive (s : State) (b : BufNo) (l l' : Live) (hlive : TableLaw s₀ → liveAt s b = some l)
      (hbody : SameBody l l') (haccess : ∀ p, AccessKept l l' p) (hoffer : SameOffer l l')
      (hrev : RevocationFrom s b l l') : Act s₀ begins s (setLive b l' s)
  /-- A record changes and one port, whose slots on it are voided, loses access. -/
  | handOver (s : State) (b : BufNo) (l l' : Live) (q : Port)
      (hlive : TableLaw s₀ → liveAt s b = some l) (hbody : SameBody l l') (haccess : ∀ p, p ≠ q → AccessKept l l' p) (hoffer : SameOffer l l')
      (hrev : RevocationFrom s b l l') : Act s₀ begins s (s |> setLive b l' |> voidAt q (handleAt s b))
  /-- A record is offered (R123). -/
  | makeOffer (s : State) (kind : OfferKind) (q : Port) (b : BufNo) (l : Live) (id : OfferId)
      (hlive : liveAt s b = some l) (hheld : isHeld l = true) (hshare : isEmptySet (shareOf l) = true)
      (hsrc : Acting s l.owner) (hdst : attached s q = true) (hfree : offerAt s id = none) :
      Act s₀ begins s (s |> setOffer id (some ⟨kind, l.owner, q, handleAt s b, s.cfg.offerTicks⟩)
        |> setLive b { l with st := .offered id, forced := none })
  /-- An offer ends without ACCEPT (R9). -/
  | endOffer (s : State) (id : OfferId) (o : Offer) (h : TableLaw s₀ → offerAt s id = some o) :
      Act s₀ begins s (endOffer id o s)
  /-- An offer's countdown falls (R135). -/
  | countOffer (s : State) (id : OfferId) (o : Offer) (n : Nat) (h : offerAt s id = some o)
      (hpos : 1 ≤ n) (hle : n ≤ o.countdown) :
      Act s₀ begins s (setOffer id (some { o with countdown := n }) s)
  /-- A LEND is accepted (R125). -/
  | acceptLend (s : State) (p : Port) (id : OfferId) (o : Offer) (b : BufNo) (l : Live)
      (hoffer : offerAt s id = some o) (hbuf : o.handle.buf = b) (hlive : liveAt s b = some l)
      (hst : OfferLaw s₀ → l.st = .offered id) :
      Act s₀ begins s (s |> setOffer id none |> setLive b { l with st := .lent p }
        |> voidAt l.owner (handleAt s b))
  /-- A GIVE is accepted (R126). -/
  | acceptGive (s : State) (p : Port) (id : OfferId) (o : Offer) (b : BufNo) (l : Live)
      (hoffer : offerAt s id = some o) (hbuf : o.handle.buf = b) (hlive : liveAt s b = some l)
      (hst : OfferLaw s₀ → l.st = .offered id) :
      Act s₀ begins s (s |> setOffer id none |> setLive b { l with owner := p, st := .held noPorts }
        |> lowerCounts l.owner 1 l.length |> raiseCounts p 1 l.length |> unpublishAll b
        |> voidAt l.owner (handleAt s b))
  /-- A buffer is published (R112). -/
  | publish (s : State) (b : BufNo) (l : Live) (name : Nat) (mode : DirMode)
      (hlive : liveAt s b = some l) (hpos : 1 ≤ name) (hmax : name ≤ 65535)
      (hnew : dirFind s.dir name = none) (hroom : s.dir.length < 64) :
      Act s₀ begins s { s with dir := dirInsert ⟨name, handleAt s b, l.owner, mode⟩ s.dir }
  /-- Entries leave the Directory (R113). -/
  | unpublish (s : State) (keep : DirEntry → Bool) :
      Act s₀ begins s { s with dir := s.dir.filter keep }
  /-- CLEAR_ALL (R200). -/
  | clearAll (s : State) (hgrant : s₀.tcGrant = some .maintenance) :
      Act s₀ begins s (clearAllState s)
  /-- A device reset (R26). -/
  | reset (s : State) (hbegins : begins) : Act s₀ begins s (resetDevice s)

/-- A chain of actions. -/
def Acts (s₀ : State) (begins : Prop) : State → State → Prop :=
  Relation.ReflTransGen (Act s₀ begins)

/-- What every action keeps, every chain keeps. -/
theorem Acts.keep {s₀ s t : State} {begins : Prop} {L : State → Prop} (hact : ∀ u v, Act s₀ begins u v → L u → L v)
    (h : Acts s₀ begins s t) (hs : L s) : L t := by
  induction h with
  | refl => exact hs
  | tail _ hlast ih => exact hact _ _ hlast ih

theorem Acts.refl {begins : Prop} (s₀ s : State) : Acts s₀ begins s s := Relation.ReflTransGen.refl

theorem Acts.trans {s₀ s t u : State} {begins : Prop} (h : Acts s₀ begins s t) (k : Acts s₀ begins t u) : Acts s₀ begins s u :=
  Relation.ReflTransGen.trans h k

theorem Act.acts {s₀ s t : State} {begins : Prop} (h : Act s₀ begins s t) : Acts s₀ begins s t := Relation.ReflTransGen.single h

end Sys2Proof.Proofs

/-! Which changes of a Host Port are calm, and the actions that the shared operations are made of. -/

namespace Sys2Proof.Proofs

open Sys2Proof Sys2Proof.Machine Sys2Proof.Safety

/-! ### Calm changes of a Host Port -/

theorem mem_slotsOf {x : WindowSlot} {hp : HostPort} :
    x ∈ slotsOf hp ↔ x = hp.w0 ∨ x = hp.w1 ∨ x = hp.saved := by
  simp [slotsOf]

/-- A change that leaves state, slots, queue, LOST and fault record is calm. -/
theorem Calm.of_frame {hp new : HostPort} (hstate : new.state = hp.state)
    (hslots : slotsOf new = slotsOf hp) (hqueue : new.queue = hp.queue) (hlost : new.lost = hp.lost)
    (hfault : new.fault = hp.fault) : Calm hp new := by
  refine ⟨⟨hstate, fun h => hqueue ▸ h, fun _ hbare => ?_⟩, .of_slots_eq hslots⟩
  simp only [slotsOf, List.cons.injEq] at hslots
  obtain ⟨h0, h1, hs, -⟩ := hslots
  simpa only [Bare, h0, h1, hs, hqueue, hlost, hfault] using hbare

theorem calm_cmd (hp : HostPort) (c : CmdSlot) : Calm hp { hp with cmd := c } :=
  .of_frame rfl rfl rfl rfl rfl

theorem calm_dataOut (hp : HostPort) (v : Option Byte) : Calm hp { hp with dataOut := v } :=
  .of_frame rfl rfl rfl rfl rfl

theorem calm_prst (hp : HostPort) (v : Bool) : Calm hp { hp with prst := v } :=
  .of_frame rfl rfl rfl rfl rfl

theorem calm_enables (hp : HostPort) (e : Enables) : Calm hp { hp with enables := e } :=
  .of_frame rfl rfl rfl rfl rfl

theorem calm_takeCompletion (r : Result) (area : List Byte) (hp : HostPort) :
    Calm hp (takeCompletion r area hp) := by
  unfold takeCompletion
  split
  · exact calm_cmd hp _
  · exact .refl hp

theorem calm_takeAppend (n : Notice) (hp : HostPort) : Calm hp (takeAppend n hp) := by
  refine ⟨⟨by simp, length_takeAppend n, fun hstate hbare => ?_⟩, .of_slots_eq (by simp [slotsOf])⟩
  simpa [takeAppend, hstate] using hbare

theorem calm_pop (hp : HostPort) : Calm hp { hp with queue := hp.queue.tail } := by
  refine ⟨⟨rfl, fun h => ?_, fun _ hbare => ?_⟩, .of_slots_eq rfl⟩
  · simp only [List.length_tail]; omega
  · obtain ⟨h0, h1, hs, hq, hl, hf⟩ := hbare
    exact ⟨h0, h1, hs, by simp [hq], hl, hf⟩

theorem calm_lost (hp : HostPort) : Calm hp { hp with lost := false } :=
  ⟨⟨rfl, id, fun _ ⟨h0, h1, hs, hq, _, hf⟩ => ⟨h0, h1, hs, hq, rfl, hf⟩⟩, .of_slots_eq rfl⟩

theorem calm_fault_none (hp : HostPort) : Calm hp { hp with fault := none } :=
  ⟨⟨rfl, id, fun _ ⟨h0, h1, hs, hq, hl, _⟩ => ⟨h0, h1, hs, hq, hl, rfl⟩⟩, .of_slots_eq rfl⟩

theorem calm_fault_attached {hp : HostPort} (h : hp.state = .attached) (f : Option FaultRec) :
    Calm hp { hp with fault := f } :=
  ⟨⟨rfl, id, fun hne => absurd h hne⟩, .of_slots_eq rfl⟩

/-- A change at a slot that makes no mapping but by moving the one that stands there. -/
def SlotCalm (x y : WindowSlot) : Prop :=
  (x = .empty → y = .empty) ∧ ∀ m', y = .mapped m' → ∃ m, x = .mapped m ∧ MovedTo m m'

theorem SlotCalm.refl (x : WindowSlot) : SlotCalm x x := ⟨id, fun m h => ⟨m, h, .refl m⟩⟩

theorem slotCalm_empty (x : WindowSlot) : SlotCalm x .empty := ⟨fun _ => rfl, fun _ h => nomatch h⟩

theorem slotCalm_mapped {m m' : Mapping} (h : MovedTo m m') : SlotCalm (.mapped m) (.mapped m') :=
  ⟨fun h => (nomatch h), fun n hn => ⟨m, rfl, by cases hn; exact h⟩⟩

theorem slotCalm_voidSlot (h : Handle) (x : WindowSlot) : SlotCalm x (voidSlot h x) := by
  cases x with
  | empty => exact .refl _
  | void m => exact .refl _
  | mapped m =>
    by_cases hm : m.handle = h
    · exact ⟨fun h => (nomatch h), by simp [voidSlot, hm]⟩
    · simpa [voidSlot, hm] using SlotCalm.refl (.mapped m)

theorem slotCalm_clearOvrSlot (x : WindowSlot) : SlotCalm x (clearOvrSlot x) := by
  cases x with
  | empty => exact .refl _
  | void m => exact ⟨fun h => (nomatch h), fun _ h => (nomatch h)⟩
  | mapped m => exact slotCalm_mapped ⟨rfl, rfl, rfl, .inl rfl⟩

/-- Calm changes at each of the three slots make a calm change of the port. -/
theorem calm_slots {hp : HostPort} {x y z : WindowSlot} (hx : SlotCalm hp.w0 x)
    (hy : SlotCalm hp.w1 y) (hz : SlotCalm hp.saved z) :
    Calm hp { hp with w0 := x, w1 := y, saved := z } := by
  refine ⟨⟨rfl, id, fun _ ⟨h0, h1, hs, hrest⟩ => ⟨hx.1 h0, hy.1 h1, hz.1 hs, hrest⟩⟩, ?_⟩
  intro m hm
  simp only [mem_slotsOf] at hm
  obtain hm | hm | hm := hm
  · obtain ⟨n, hn, hmove⟩ := hx.2 m hm.symm
    exact ⟨n, by simp [mem_slotsOf, hn], hmove⟩
  · obtain ⟨n, hn, hmove⟩ := hy.2 m hm.symm
    exact ⟨n, by simp [mem_slotsOf, hn], hmove⟩
  · obtain ⟨n, hn, hmove⟩ := hz.2 m hm.symm
    exact ⟨n, by simp [mem_slotsOf, hn], hmove⟩

theorem calm_onSlots_void (h : Handle) (hp : HostPort) : Calm hp (onSlots (voidSlot h) hp) :=
  calm_slots (slotCalm_voidSlot h _) (slotCalm_voidSlot h _) (slotCalm_voidSlot h _)

theorem calm_putSlot {w : Window} {hp : HostPort} {x : WindowSlot} (h : SlotCalm (slotAt w hp) x) :
    Calm hp (putSlot w x hp) := by
  cases w with
  | w0 => exact calm_slots h (.refl _) (.refl _)
  | w1 => exact calm_slots (.refl _) h (.refl _)

theorem calm_swap (hp : HostPort) : Calm hp { hp with w0 := hp.saved, saved := hp.w0 } := by
  refine ⟨⟨rfl, id, fun _ ⟨h0, h1, hs, hrest⟩ => ⟨hs, h1, h0, hrest⟩⟩, fun m hm => ⟨m, ?_, .refl m⟩⟩
  simp only [mem_slotsOf] at hm ⊢
  tauto

theorem movedTo_advance (m : Mapping) : MovedTo m (advance m) := by
  unfold advance
  split
  · exact ⟨rfl, rfl, rfl, .inl rfl⟩
  · split
    · next hlt => exact ⟨rfl, rfl, rfl, .inr hlt⟩
    · exact ⟨rfl, rfl, rfl, .inl rfl⟩

/-! ### Chains of the operations on ports -/

section
variable {s₀ s t : State} {begins : Prop}

theorem acts_updPort {p : Port} {f : HostPort → HostPort} (h : Calm (portAt s p) (f (portAt s p))) :
    Acts s₀ begins s (updPort p f s) := by
  refine (Act.calm s _ fun q => ?_).acts
  rw [perGet_perSet]
  split
  · next hq => exact hq ▸ h
  · exact .refl _

/-- A chain that goes on with a change of one port. -/
theorem Acts.updPort (hs : Acts s₀ begins s t) {p : Port} {f : HostPort → HostPort}
    (h : ∀ hp, Calm hp (f hp)) : Acts s₀ begins s (Machine.updPort p f t) :=
  hs.trans (acts_updPort (h _))

theorem Acts.notify (hs : Acts s₀ begins s t) (p : Port) (n : Notice) : Acts s₀ begins s (notify p n t) :=
  hs.updPort (calm_takeAppend n)

theorem Acts.complete (hs : Acts s₀ begins s t) (p : Port) (r : Result) (area : List Byte) :
    Acts s₀ begins s (complete p r area t) :=
  hs.updPort (calm_takeCompletion r area)

theorem Acts.take (hs : Acts s₀ begins s t) (p : Port) : Acts s₀ begins s (Machine.updPort p takeCommand t) :=
  hs.updPort fun hp => calm_cmd hp _

theorem Acts.answer (hs : Acts s₀ begins s t) (p : Port) (acc : Access) (v : Byte) :
    Acts s₀ begins s (answer p acc v t) :=
  hs.updPort fun hp => calm_dataOut hp _

theorem Acts.clearCancel (hs : Acts s₀ begins s t) (p : Port) : Acts s₀ begins s (clearCancel p t) :=
  hs.updPort fun hp => calm_cmd hp _

/-! ### Chains of the operations on jobs -/

theorem Acts.quiet (hs : Acts s₀ begins s t) (memLast : MemRequester) (jobs : PerPort (Option Job))
    (nextKind : WorkKind) (lastCopy : Port) (reports : List Report) (maint : MaintState)
    (sdo : List Byte) (freeCount : Nat) :
    Acts s₀ begins s { t with
        memLast := memLast, jobs := jobs, nextKind := nextKind, lastCopy := lastCopy,
        reports := reports, maint := maint, sdo := sdo, freeCount := freeCount } :=
  hs.trans (Act.quiet t memLast jobs nextKind lastCopy reports maint sdo freeCount).acts

theorem Acts.jobs (hs : Acts s₀ begins s t) (jobs : PerPort (Option Job)) (reports : List Report) :
    Acts s₀ begins s { t with jobs := jobs, reports := reports } :=
  hs.quiet t.memLast jobs t.nextKind t.lastCopy reports t.maint t.sdo t.freeCount

theorem Acts.memLast (hs : Acts s₀ begins s t) (r : MemRequester) (n : Nat) :
    Acts s₀ begins s { t with freeCount := n, memLast := r } :=
  hs.quiet r t.jobs t.nextKind t.lastCopy t.reports t.maint t.sdo n

theorem Acts.maint (hs : Acts s₀ begins s t) (m : MaintState) :
    Acts s₀ begins s { t with maint := m } :=
  hs.quiet t.memLast t.jobs t.nextKind t.lastCopy t.reports m t.sdo t.freeCount

theorem Acts.mover (hs : Acts s₀ begins s t) (kind : WorkKind) (last : Port) :
    Acts s₀ begins s { t with nextKind := kind, lastCopy := last } :=
  hs.quiet t.memLast t.jobs kind last t.reports t.maint t.sdo t.freeCount

theorem Acts.sdo (hs : Acts s₀ begins s t) (bytes : List Byte) (m : MaintState) :
    Acts s₀ begins s { t with sdo := bytes, maint := m } :=
  hs.quiet t.memLast t.jobs t.nextKind t.lastCopy t.reports m bytes t.freeCount

theorem Acts.stopJob (hs : Acts s₀ begins s t) (p : Port) (c : StopCause) : Acts s₀ begins s (stopJob p c t) := by
  rw [stopJob_eq]
  exact hs.jobs _ _

theorem Acts.stopJobs (hs : Acts s₀ begins s t) (ps : List Port) : Acts s₀ begins s (stopJobs ps t) := by
  rw [stopJobs_eq]
  exact hs.jobs _ _

theorem Acts.setJob (hs : Acts s₀ begins s t) (p : Port) (j : Option Job) : Acts s₀ begins s (setJob p j t) :=
  hs.jobs _ t.reports

theorem Acts.endJob (hs : Acts s₀ begins s t) (p : Port) (j : Job) (c : EndCause) :
    Acts s₀ begins s (endJob p j c t) :=
  hs.jobs _ _

theorem Acts.dropCopy (hs : Acts s₀ begins s t) (p : Port) : Acts s₀ begins s (dropCopy p t) :=
  hs.jobs _ _

/-! ### Chains of a teardown start and a fault -/

/-- What a grant says of the arbiter (R75, R78). -/
theorem granted_iff {r : Requester} : granted s r = true ↔
    s.rst = false ∧ s.tcGrant = some r ∧ presents s r = true ∧ (s.hold = false ∨ r = .maintenance) := by
  simp [granted, grantable, and_assoc]

/-- The Host Port's part and the Table Controller's part of a teardown start, its command taken before
it or not. -/
theorem acts_start {p : Port} (c : TeardownCause) (hatt : attached s p = true)
    (hbegins : begins ∨ (portAt s p).cmd.state ≠ .pending) :
    Acts s₀ begins s (addWalk p (updPort p (startStepPort c) (meetTake p s))) := by
  have hcount : Acts s₀ begins s { s with freeCount := s.freeCount + 1 } :=
    (Acts.refl s₀ s).memLast s.memLast _
  obtain ⟨-, h⟩ | ⟨⟨hgrant, hpending⟩, h | h⟩ := meetTake_cases p s
  · rw [h]; exact (Act.start s p c hatt).acts
  · rw [h]; exact hcount.trans (Act.start { s with freeCount := s.freeCount + 1 } p c hatt).acts
  · rw [h]
    obtain ⟨hrst, hg, -, hhold⟩ := granted_iff.1 hgrant
    refine (hcount.take p).trans (Act.startTaken (updPort p takeCommand { s with freeCount := s.freeCount + 1 })
      p c { (portAt s p).cmd with state := .idle, cancelRequested := false } ?_
      (hbegins.resolve_right fun h => h hpending) hg hrst (hhold.resolve_right (by simp)) rfl rfl).acts
    rw [attached_take]
    exact hatt

theorem Acts.teardownCause (hs : Acts s₀ begins s t) (p : Port) (c : TeardownCause)
    (hbegins : begins ∨ (portAt t p).cmd.state ≠ .pending) :
    Acts s₀ begins s (teardownCause p c t) := by
  obtain ⟨hatt, h⟩ | ⟨-, h⟩ := teardownCause_cases p c t
  · rw [h]
    have hjobs : ∀ u : State, addWalk p (Machine.stopJob p .aborted u) =
        { addWalk p u with jobs := (Machine.stopJob p .aborted u).jobs
                           reports := (Machine.stopJob p .aborted u).reports } := fun u => by
      rw [stopJob_eq]; unfold addWalk; dsimp only; split <;> rfl
    rw [hjobs]
    exact (hs.trans (acts_start c hatt hbegins)).jobs _ _
  · rwa [h]

theorem Acts.raiseFault (hs : Acts s₀ True s t) (p : Port) (k : FaultKind) (off : Nat)
    (acc : Access) : Acts s₀ True s (raiseFault p k off acc t) := by
  obtain ⟨hatt, -, h⟩ | ⟨-, -, h⟩ | ⟨-, h⟩ := raiseFault_cases p k off acc t <;> rw [h]
  · exact hs.trans (acts_updPort (calm_fault_attached (by simpa [attached] using hatt) _))
  · exact hs.teardownCause p _ (.inl trivial)
  · exact hs

/-! ### Chains of the operations on records -/

theorem Acts.act {u : State} (hs : Acts s₀ begins s t) (h : Act s₀ begins t u) : Acts s₀ begins s u := hs.trans h.acts

/-- A borrower is that of a LENT or a RECALLING record (R1). -/
theorem borrowerOf_eq_some {l : Live} {q : Port} :
    borrowerOf l = some q ↔ l.st = .lent q ∨ ∃ n, l.st = .recalling q n := by
  unfold borrowerOf
  cases l.st <;> simp

/-- A return (R10): the borrower alone loses access. -/
theorem Acts.returnToOwner (hs : Acts s₀ begins s t) {b : BufNo} {l l' : Live} {q : Port}
    (hlive : TableLaw s₀ → liveAt t b = some l) (hbody : SameBody l l') (hborrower : borrowerOf l = some q)
    (hrev : RevocationFrom t b l l') : Acts s₀ begins s (returnToOwner b l' q t) := by
  rw [borrowerOf_eq_some] at hborrower
  refine hs.act (Act.handOver t b l { l' with st := .held noPorts } q hlive
    ⟨hbody.1, hbody.2, hbody.3, hbody.4⟩ (fun p hp mode hmode => ?_) (fun id => ?_) hrev)
  · obtain hst | ⟨n, hst⟩ := hborrower <;> simp [access, hst, hp.symm, allows] at hmode
  · obtain hst | ⟨n, hst⟩ := hborrower <;> simp [hst]

/-- A leaving (R8): the port that leaves alone loses access. -/
theorem Acts.leaveShare (hs : Acts s₀ begins s t) {b : BufNo} {l l' : Live} {q : Port}
    (hlive : TableLaw s₀ → liveAt t b = some l) (hbody : SameBody l l') (hst : l'.st = l.st)
    (hheld : isHeld l = true) (hrev : RevocationFrom t b l l') :
    Acts s₀ begins s (leaveShare b l' q t) := by
  obtain ⟨m, hm⟩ : ∃ m, l.st = .held m := by
    unfold isHeld at hheld
    split at hheld <;> simp_all
  refine hs.act (Act.handOver t b l { l' with st := .held (perSet (shareOf l') q false) } q hlive
    ⟨hbody.1, hbody.2, hbody.3, hbody.4⟩ (fun p hp mode hmode => ?_) (fun id => by simp [hm]) hrev)
  simpa [access, hm, hst, shareOf, hp, hbody.owner] using hmode

/-- A retirement of the record as it stands, its transient fields apart. -/
theorem Acts.retire (hs : Acts s₀ begins s t) {b : BufNo} {l l' : Live} (cause : Cause)
    (caller : Option Port) (hlive : TableLaw s₀ → liveAt t b = some l) (hbody : SameBody l l')
    (hoffer : TableLaw s₀ → OfferLaw t → PassedLaw t → ∀ id, l.st ≠ .offered id) :
    Acts s₀ begins s (retire b l' cause caller t) :=
  hs.act (.retire t b l l' cause caller hlive hbody hoffer)

theorem SameBody.refl (l : Live) : SameBody l l := ⟨rfl, rfl, rfl, rfl⟩

theorem accessKept_of_eq {l l' : Live} (howner : l'.owner = l.owner) (hst : l'.st = l.st) (p : Port) :
    AccessKept l l' p := fun mode h => by
  simpa [access, howner, hst] using h

theorem sameOffer_of_eq {l l' : Live} (hst : l'.st = l.st) : SameOffer l l' := fun id => by rw [hst]

/-- A change of marks, pending revocation and forced-return port. -/
theorem Acts.relive (hs : Acts s₀ begins s t) {b : BufNo} {l l' : Live}
    (hlive : TableLaw s₀ → liveAt t b = some l)
    (hbody : SameBody l l') (hst : l'.st = l.st) (hrev : RevocationFrom t b l l') :
    Acts s₀ begins s (setLive b l' t) :=
  hs.act (.relive t b l l' hlive hbody (accessKept_of_eq hbody.owner hst) (sameOffer_of_eq hst) hrev)

theorem revocationFrom_of_eq {b : BufNo} {l l' : Live} (h : l'.pendingRev = l.pendingRev) :
    RevocationFrom t b l l' := fun _ hq => .inl (h ▸ hq)

theorem revocationFrom_of_none {b : BufNo} {l l' : Live} (h : l'.pendingRev = none) :
    RevocationFrom t b l l' := fun _ hq => by rw [h] at hq; cases hq

theorem Acts.unmark (hs : Acts s₀ begins s t) (b : BufNo) (p : Port) : Acts s₀ begins s (unmark b p t) := by
  unfold Machine.unmark
  split
  · exact hs
  · next l hl => exact hs.relive (fun _ => hl) ⟨rfl, rfl, rfl, rfl⟩ rfl (revocationFrom_of_eq rfl)

theorem Acts.mark (hs : Acts s₀ begins s t) (b : BufNo) (p : Port) : Acts s₀ begins s (mark b p t) := by
  unfold Machine.mark
  split
  · exact hs
  · next l hl => exact hs.relive (fun _ => hl) ⟨rfl, rfl, rfl, rfl⟩ rfl (revocationFrom_of_eq rfl)

theorem Acts.endOffer (hs : Acts s₀ begins s t) {id : OfferId} {o : Offer}
    (h : TableLaw s₀ → offerAt t id = some o) : Acts s₀ begins s (endOffer id o t) := hs.act (.endOffer t id o h)

/-- A forced cause that retires the record waits for its marks (R25). -/
theorem Acts.awaitRetirement (hs : Acts s₀ begins s t) {b : BufNo} {l : Live} {r : Revocation}
    (hlive : TableLaw s₀ → liveAt t b = some l) (hr : ∀ q, r = ⟨.teardown, q⟩ → AtWalk t b q) :
    Acts s₀ begins s (awaitRetirement b l r t) := by
  unfold Machine.awaitRetirement
  refine Acts.stopJobs ?_ _
  refine hs.relive hlive ⟨rfl, rfl, rfl, rfl⟩ rfl fun q hq => ?_
  cases hp : l.pendingRev with
  | none =>
    simp only [hp, Option.some.injEq] at hq
    exact .inr (hr q hq)
  | some old =>
    simp only [hp, Option.some.injEq] at hq
    split at hq
    · exact .inl (by rw [hq])
    · exact .inr (hr q hq)

/-- What the removal of a record's offer leaves of the record: HELD when its offer named it. -/
theorem liveAt_removeOffer_body {b : BufNo} {l : Live} (hlive : liveAt t b = some l) :
    ∃ l', liveAt (removeOffer b l t) b = some l' ∧ SameBody l' l ∧ l'.pendingRev = l.pendingRev := by
  unfold removeOffer
  split
  · exact ⟨l, hlive, .refl l, rfl⟩
  · next id hid =>
    split
    · exact ⟨l, hlive, .refl l, rfl⟩
    · next o ho =>
      simp only [liveAt_notify]
      obtain h | ⟨l₀, hl₀, hst, h⟩ := endOffer_cases id o t
      · rw [h]; exact ⟨l, hlive, .refl l, rfl⟩
      · rw [h, liveAt_setLive]
        split
        · next hb =>
          subst hb
          obtain rfl : l₀ = l := Option.some.inj (hl₀.symm.trans hlive)
          exact ⟨_, rfl, ⟨rfl, rfl, rfl, rfl⟩, rfl⟩
        · exact ⟨l, hlive, .refl l, rfl⟩

/-- After the removal of its offer no record stays OFFERED, by the law of offers (R121). -/
theorem not_offered_removeOffer {b : BufNo} {l l' : Live} (hlive : liveAt t b = some l)
    (hlaw : OfferLaw (removeOffer b l t)) (hlive' : liveAt (removeOffer b l t) b = some l')
    (id : OfferId) : l'.st ≠ .offered id := by
  intro hst
  obtain ⟨-, -, hrec⟩ := hlaw
  obtain ⟨o, ho, hbuf⟩ := hrec b l' id hlive' hst
  unfold removeOffer at hlive' ho
  split at hlive'
  · next hnone =>
    obtain rfl : l = l' := Option.some.inj (hlive.symm.trans hlive')
    simp [offerRefOf, hst] at hnone
  · next i hi =>
    have hli : l.st = .offered i := by
      unfold offerRefOf at hi
      split at hi <;> simp_all
    simp only [hi] at ho
    split at hlive'
    · next hnone =>
      obtain rfl : l = l' := Option.some.inj (hlive.symm.trans hlive')
      obtain rfl : i = id := by simpa [hli] using hst
      simp [hnone] at ho
    · next o' ho' =>
      simp only [ho', liveAt_notify, offerAt_notify] at hlive' ho
      have hfree : offerAt (Machine.endOffer i o' t) i = none := by
        obtain h | ⟨_, -, -, h⟩ := endOffer_cases i o' t <;> rw [h] <;> simp
      have hid : l'.st = .offered i := by
        obtain h | ⟨l₀, hl₀, -, h⟩ := endOffer_cases i o' t
        · rw [h, liveAt_setOffer, hlive] at hlive'
          cases hlive'; exact hli
        · rw [h, liveAt_setLive] at hlive'
          split at hlive'
          · cases hlive'; cases hst
          · rw [liveAt_setOffer, hlive] at hlive'
            cases hlive'; exact hli
      obtain rfl : i = id := by simpa [hid] using hst
      rw [hfree] at ho
      cases ho

theorem Acts.removeOffer (hs : Acts s₀ begins s t) (b : BufNo) (l : Live) :
    Acts s₀ begins s (removeOffer b l t) := by
  unfold Machine.removeOffer
  split
  · exact hs
  · split
    · exact hs
    · next o ho => exact (hs.endOffer fun _ => ho).notify _ _

/-- The retirement of a FORCE_FREE (R198): the record's offer is gone before it. -/
theorem Acts.forceRetire (hs : Acts s₀ begins s t) {b : BufNo} {l l' : Live} (hlive : liveAt t b = some l)
    (hbody : SameBody l l') (hst : l'.st = l.st) : Acts s₀ begins s (forceRetire b l' t) := by
  have heq : Machine.removeOffer b l' t = Machine.removeOffer b l t := by
    simp [Machine.removeOffer, offerRefOf, hst]
  obtain ⟨l₁, hlive₁, hbody₁, -⟩ := liveAt_removeOffer_body hlive
  unfold Machine.forceRetire
  rw [heq]
  refine (hs.removeOffer b l).retire _ _ (fun _ => hlive₁) ?_ fun _ hoffer _ =>
    not_offered_removeOffer hlive hoffer hlive₁
  exact ⟨hbody.1.trans hbody₁.1, hbody.2.trans hbody₁.2, hbody.3.trans hbody₁.3,
    hbody.4.trans hbody₁.4⟩

/-- A record that a teardown of its owner is to retire is not OFFERED: the walk has passed the
offers (R182). -/
theorem not_offered_of_atWalk {b : BufNo} {l : Live} (hlive : liveAt t b = some l)
    (hwalk : PassedLaw t → t.walkList.head? = some l.owner ∧ t.walkPhase = .buffers)
    (hoffer : OfferLaw t) (hpassed : PassedLaw t) (id : OfferId) : l.st ≠ .offered id := by
  intro hst
  obtain ⟨hhead, hphase⟩ := hwalk hpassed
  obtain ⟨-, hin, hrec⟩ := hoffer
  obtain ⟨o, ho, hbuf⟩ := hrec b l id hlive hst
  obtain ⟨-, -, l₁, hl₁, -, howner, -⟩ := hin id o ho
  obtain rfl : l = l₁ := by rw [hbuf, hlive] at hl₁; exact Option.some.inj hl₁
  have := (hpassed.1 l.owner id o hhead ho (by simp [offerRelated, howner])).1
  rw [hphase] at this
  cases this

theorem Acts.completeRevocation (hs : Acts s₀ begins s t) (b : BufNo) :
    Acts s₀ begins s (completeRevocation b t) := by
  unfold Machine.completeRevocation
  split
  · exact hs
  · next l hl =>
    split
    · exact hs
    · next r hr =>
      have hbody : SameBody l { l with pendingRev := none } := ⟨rfl, rfl, rfl, rfl⟩
      have hrev : RevocationFrom t b l { l with pendingRev := none } := revocationFrom_of_none rfl
      dsimp only
      split
      · exact hs.forceRetire hl hbody rfl
      · split
        · exact hs.relive (fun _ => hl) hbody rfl hrev
        · next q hq => exact ((hs.returnToOwner (fun _ => hl) hbody hq hrev).notify _ _).notify _ _
      · next hkind =>
        split
        · next howner =>
          refine hs.retire _ _ (fun _ => hl) hbody fun _ =>
            not_offered_of_atWalk hl fun hpassed => ?_
          have hr' : l.pendingRev = some ⟨.teardown, l.owner⟩ := by
            rw [hr]; cases r; simp_all
          exact ⟨(hpassed.2 b l _ hl hr').1, (hpassed.2 b l _ hl hr').2.1⟩
        · split
          · next hq => exact (hs.returnToOwner (fun _ => hl) hbody hq hrev).notify _ _
          · split
            · next hheld => exact (hs.leaveShare (fun _ => hl) hbody rfl hheld hrev).notify _ _
            · exact hs.relive (fun _ => hl) hbody rfl hrev

theorem Acts.settleRevocation (hs : Acts s₀ begins s t) (b : BufNo) :
    Acts s₀ begins s (settleRevocation b t) := by
  unfold Machine.settleRevocation
  split
  · exact hs
  · split
    · exact hs.completeRevocation b
    · exact hs

/-- A chain over the members of a list. -/
theorem Acts.foldl {α : Type} (f : State → α → State)
    (h : ∀ {u : State} (a : α), Acts s₀ begins s u → Acts s₀ begins s (f u a)) (as : List α)
    (hs : Acts s₀ begins s t) : Acts s₀ begins s (as.foldl f t) := by
  induction as generalizing t with
  | nil => exact hs
  | cons a as ih => exact ih (h a hs)

end

end Sys2Proof.Proofs

/-! The answers of the posted commands, the handlings of the Table Controller, the steps of the Data
Mover and the services of the Maintenance Port as chains of actions. -/

namespace Sys2Proof.Proofs

open Sys2Proof Sys2Proof.Machine Sys2Proof.Safety

/-! ### Lowest free entries -/

/-- The lowest VACANT record of a range (R6). -/
theorem vacantFrom_eq_some {t : List (Nat × BufRec)} {k n j : Nat} (h : vacantFrom t k n = some j) :
    k ≤ j ∧ j < k + n ∧ (tabGet vacantRec t j).live = none ∧
      ∀ i, k ≤ i → i < j → (tabGet vacantRec t i).live ≠ none := by
  induction n generalizing k with
  | zero => cases h
  | succ n ih =>
    unfold vacantFrom at h
    split at h
    · next hk => cases h; exact ⟨le_refl _, by omega, hk, fun i _ _ => by omega⟩
    · next hk =>
      obtain ⟨h1, h2, h3, h4⟩ := ih h
      refine ⟨by omega, by omega, h3, fun i hi hij => ?_⟩
      obtain rfl | hlt := Nat.eq_or_lt_of_le hi
      · exact hk
      · exact h4 i hlt hij

/-- The lowest free entry of a range of the Offer Table (R120). -/
theorem freeOfferFrom_eq_some {t : List (Nat × Option Offer)} {k n j : Nat}
    (h : freeOfferFrom t k n = some j) :
    k ≤ j ∧ j < k + n ∧ tabGet none t j = none ∧ ∀ i, k ≤ i → i < j → tabGet none t i ≠ none := by
  induction n generalizing k with
  | zero => cases h
  | succ n ih =>
    unfold freeOfferFrom at h
    split at h
    · next hk => cases h; exact ⟨le_refl _, by omega, hk, fun i _ _ => by omega⟩
    · next hk =>
      obtain ⟨h1, h2, h3, h4⟩ := ih h
      refine ⟨by omega, by omega, h3, fun i hi hij => ?_⟩
      obtain rfl | hlt := Nat.eq_or_lt_of_le hi
      · exact hk
      · exact h4 i hlt hij

theorem bufNoOf_eq_some {n : Nat} {b : BufNo} : bufNoOf n = some b ↔ n = b.val := by
  unfold bufNoOf
  split
  · simp [Fin.ext_iff]
  · next h => have := b.isLt; constructor <;> intro hb <;> [cases hb; omega]

theorem offerNoOf_eq_some {n : Nat} {id : OfferId} : offerNoOf n = some id ↔ n = id.val := by
  unfold offerNoOf
  split
  · simp [Fin.ext_iff]
  · next h => have := id.isLt; constructor <;> intro hb <;> [cases hb; omega]

theorem lowestVacant_eq_some {s : State} {b : BufNo} (h : lowestVacant s = some b) :
    liveAt s b = none ∧ ∀ c, c < b → liveAt s c ≠ none := by
  unfold lowestVacant at h
  split at h
  · cases h
  · next k hk =>
    obtain ⟨-, -, hv, hlow⟩ := vacantFrom_eq_some hk
    obtain rfl := bufNoOf_eq_some.1 h
    exact ⟨hv, fun c hc => hlow c.val (Nat.zero_le _) hc⟩

theorem lowestFreeOffer_eq_some {s : State} {id : OfferId} (h : lowestFreeOffer s = some id) :
    offerAt s id = none ∧ ∀ j, j < id → offerAt s j ≠ none := by
  unfold lowestFreeOffer at h
  split at h
  · cases h
  · next k hk =>
    obtain ⟨-, -, hv, hlow⟩ := freeOfferFrom_eq_some hk
    obtain rfl := offerNoOf_eq_some.1 h
    exact ⟨hv, fun j hj => hlow j.val (Nat.zero_le _) hj⟩

/-! ### The answers of the commands -/

section
variable {s₀ s t : State} {begins : Prop} {p : Port} {area : List Byte}

theorem isHeld_iff {l : Live} : isHeld l = true ↔ ∃ m, l.st = .held m := by
  unfold isHeld
  cases l.st <;> simp

theorem acting_of_admitted (h : admitted s p = true) : Acting s p := by
  obtain h | ⟨slot, h⟩ := (admitted_iff s p).1 h
  · exact .inl h
  · refine .inr ⟨slot, ?_⟩
    unfold slotTaken at h
    split at h
    · next q slot' hu =>
      split at h
      · next hq => cases h; rw [hu, hq]
      · cases h
    · cases h

theorem paramNum_le (s : State) (p : Port) (i : Nat) : paramNum s p i ≤ 65535 := by
  unfold paramNum numAt num16
  have h1 := (byteAt (portAt s p).cmd.postedParams i).isLt
  have h2 := (byteAt (portAt s p).cmd.postedParams (i + 1)).isLt
  omega

theorem acts_attachAnswer (h : attachAnswer p s = .ok (t, area)) : Acts s₀ begins s t := by
  unfold attachAnswer at h
  dsimp only at h
  split at h
  · cases h
  · next hatt =>
    split at h
    · cases h
    · next htear =>
      split at h
      · cases h
      · cases h
        refine (Act.attach s p ?_).acts
        cases hs : (portAt s p).state <;> simp_all

theorem acts_clearFaultAnswer (h : clearFaultAnswer p s = .ok (t, area)) : Acts s₀ begins s t := by
  cases h
  exact (Acts.refl s₀ s).updPort calm_fault_none

theorem acts_clearLostAnswer (h : clearLostAnswer p s = .ok (t, area)) : Acts s₀ begins s t := by
  cases h
  exact (Acts.refl s₀ s).updPort calm_lost

theorem acts_publishAnswer (h : publishAnswer p s = .ok (t, area)) : Acts s₀ begins s t := by
  unfold publishAnswer at h
  split at h
  · cases h
  · next b l hcheck =>
    obtain ⟨-, hlive, -⟩ := checkHandle_ok hcheck
    dsimp only at h
    split at h
    · cases h
    · next hname =>
      split at h
      · cases h
      · next mode hmode =>
        split at h
        · cases h
        · next howner =>
          split at h
          · cases h
          · split at h
            · cases h
            · next hfind =>
              split at h
              · cases h
              · next hroom =>
                cases h
                obtain rfl : l.owner = p := not_not.1 howner
                exact (Act.publish s b l _ mode hlive (Nat.pos_of_ne_zero hname) (paramNum_le ..)
                  (by simpa using hfind) (by simpa [dirSize] using hroom)).acts

theorem acts_unpublishAnswer (h : unpublishAnswer p s = .ok (t, area)) : Acts s₀ begins s t := by
  unfold unpublishAnswer at h
  dsimp only at h
  split at h
  · cases h
  · split at h
    · cases h
    · split at h
      · cases h
      · cases h
        exact (Act.unpublish s _).acts

theorem acts_lookupAnswer (h : lookupAnswer p s = .ok (t, area)) : Acts s₀ begins s t := by
  unfold lookupAnswer at h
  dsimp only at h
  split at h
  · cases h
  · split at h <;> cases h
    exact .refl s₀ s

theorem acts_nextAnswer (h : nextAnswer p s = .ok (t, area)) : Acts s₀ begins s t := by
  unfold nextAnswer at h
  split at h <;> cases h
  exact .refl s₀ s

/-- A port joins the share set of a HELD record: no access is lost (R8). -/
theorem acts_joinShare {b : BufNo} {l : Live} (q : Port) (hlive : liveAt s b = some l)
    (hheld : isHeld l = true) :
    Acts s₀ begins s (setLive b { l with st := .held (perSet (shareOf l) q true) } s) := by
  obtain ⟨m, hm⟩ := isHeld_iff.1 hheld
  refine Act.acts (.relive s b l _ (fun _ => hlive) ⟨rfl, rfl, rfl, rfl⟩ (fun r mode hmode => ?_)
    (fun id => by simp [hm]) (revocationFrom_of_eq rfl))
  simp only [access, hm, shareOf, perGet_perSet] at hmode ⊢
  split at hmode
  · next ho => simpa [ho] using hmode
  · next ho =>
    split at hmode
    · next hr => simpa [ho, hr] using hmode
    · cases mode <;> simp [allows] at hmode

theorem acts_subscribeAnswer (h : subscribeAnswer p s = .ok (t, area)) : Acts s₀ begins s t := by
  unfold subscribeAnswer at h
  dsimp only at h
  split at h
  · cases h
  · split at h
    · cases h
    · split at h
      · cases h
      · next l hlive =>
        split at h
        · cases h
        · split at h
          · cases h
          · split at h
            · cases h
            · next hheld =>
              split at h
              · cases h
              · split at h
                · cases h
                · split at h
                  · cases h
                  · cases h
                    exact (acts_joinShare p hlive (by simpa using hheld)).notify _ _

theorem acts_allocAnswer (h : allocAnswer p s = .ok (t, area)) : Acts s₀ begins s t := by
  unfold allocAnswer at h
  dsimp only at h
  split at h
  · cases h
  · next hn =>
    split at h
    · cases h
    · split at h
      · cases h
      · next b hb =>
        split at h
        · cases h
        · next hfree =>
          split at h
          · next hd tl hhd htl =>
            cases h
            exact (Act.alloc s p b _ hd tl (lowestVacant_eq_some hb).1 (by omega) (by omega)
              (by omega) hhd htl).acts
          · cases h

theorem acts_extendAnswer (h : extendAnswer p s = .ok (t, area)) : Acts s₀ begins s t := by
  unfold extendAnswer at h
  split at h
  · cases h
  · next b l hcheck =>
    obtain ⟨-, hlive, -⟩ := checkHandle_ok hcheck
    dsimp only at h
    split at h
    · cases h
    · next hn =>
      split at h
      · cases h
      · next howner =>
        split at h
        · cases h
        · split at h
          · cases h
          · next hmax =>
            split at h
            · cases h
            · split at h
              · cases h
              · next hfree =>
                split at h
                · next tl htl =>
                  cases h
                  obtain rfl : l.owner = p := not_not.1 howner
                  exact (Act.extend s b l _ tl hlive (by omega) (by omega) (by omega) htl).acts
                · cases h

theorem acts_trimAnswer (h : trimAnswer p s = .ok (t, area)) : Acts s₀ begins s t := by
  unfold trimAnswer at h
  split at h
  · cases h
  · next b l hcheck =>
    obtain ⟨-, hlive, -⟩ := checkHandle_ok hcheck
    dsimp only at h
    split at h
    · cases h
    · next hn =>
      split at h
      · cases h
      · next howner =>
        split at h
        · cases h
        · split at h
          · cases h
          · next hlt =>
            split at h
            · cases h
            · cases h
              obtain rfl : l.owner = p := not_not.1 howner
              exact (Act.trim s b l _ hlive (by omega) (by omega)).acts

theorem acts_freeAnswer (h : freeAnswer p s = .ok (t, area)) : Acts s₀ begins s t := by
  unfold freeAnswer at h
  split at h
  · cases h
  · next b l hcheck =>
    obtain ⟨-, hlive, -⟩ := checkHandle_ok hcheck
    split at h
    · cases h
    · split at h
      · cases h
      · next hheld =>
        split at h
        · cases h
        · cases h
          obtain ⟨m, hm⟩ := isHeld_iff.1 (by simpa using hheld)
          exact (Acts.refl s₀ s).retire _ _ (fun _ => hlive) (.refl l) fun _ _ _ id => by simp [hm]

theorem acts_infoAnswer (h : infoAnswer p s = .ok (t, area)) : Acts s₀ begins s t := by
  unfold infoAnswer at h
  split at h <;> cases h
  exact .refl s₀ s

theorem acts_mapAnswer (h : mapAnswer p s = .ok (t, area)) : Acts s₀ begins s t := by
  unfold mapAnswer at h
  split at h
  · cases h
  · next b l hcheck =>
    obtain ⟨-, hlive, -⟩ := checkHandle_ok hcheck
    split at h
    · cases h
    · split at h
      · cases h
      · split at h
        · cases h
        · next hallow =>
          split at h
          · cases h
          · next hlt =>
            cases h
            refine (Act.install s p _ _ ⟨l, hlive, rfl, rfl, ?_, ?_⟩).acts
            · exact Nat.lt_of_not_le hlt
            · simpa [newMapping] using hallow

theorem acts_shareAnswer (h : shareAnswer p s = .ok (t, area)) : Acts s₀ begins s t := by
  unfold shareAnswer at h
  split at h
  · cases h
  · next b l hcheck =>
    obtain ⟨-, hlive, -⟩ := checkHandle_ok hcheck
    split at h
    · cases h
    · split at h
      · cases h
      · next hheld =>
        split at h
        · cases h
        · split at h
          · cases h
          · split at h
            · cases h
            · split at h
              · cases h
              · split at h
                · cases h
                · cases h
                  exact (acts_joinShare _ hlive (by simpa using hheld)).notify _ _

/-- A record with a member in its share set is HELD (R1). -/
theorem isHeld_of_share {l : Live} {q : Port} (h : perGet (shareOf l) q = true) :
    isHeld l = true := by
  unfold shareOf at h
  unfold isHeld
  cases hst : l.st <;> simp_all [noPorts]

theorem acts_unshareAnswer (h : unshareAnswer p s = .ok (t, area)) : Acts s₀ begins s t := by
  unfold unshareAnswer at h
  split at h
  · cases h
  · next b l hcheck =>
    obtain ⟨-, hlive, -⟩ := checkHandle_ok hcheck
    split at h
    · cases h
    · split at h
      · cases h
      · split at h
        · cases h
        · split at h
          · cases h
          · next hshare =>
            split at h
            · cases h
            · cases h
              exact ((Acts.refl s₀ s).leaveShare (fun _ => hlive) (.refl l) rfl
                (isHeld_of_share (by simpa using hshare)) (revocationFrom_of_eq rfl)).notify _ _

theorem acts_leaveAnswer (h : leaveAnswer p s = .ok (t, area)) : Acts s₀ begins s t := by
  unfold leaveAnswer at h
  split at h
  · cases h
  · next b l hcheck =>
    obtain ⟨-, hlive, -⟩ := checkHandle_ok hcheck
    split at h
    · cases h
    · next hshare =>
      split at h
      · cases h
      · cases h
        exact ((Acts.refl s₀ s).leaveShare (fun _ => hlive) (.refl l) rfl
          (isHeld_of_share (by simpa using hshare)) (revocationFrom_of_eq rfl)).notify _ _

theorem acts_offerAnswer {kind : OfferKind} (hadm : admitted s p = true)
    (h : offerAnswer kind p s = .ok (t, area)) : Acts s₀ begins s t := by
  unfold offerAnswer at h
  split at h
  · cases h
  · next b l hcheck =>
    obtain ⟨-, hlive, -⟩ := checkHandle_ok hcheck
    split at h
    · cases h
    · next howner =>
      obtain rfl : l.owner = p := not_not.1 howner
      split at h
      · cases h
      · next hheld =>
        split at h
        · cases h
        · next hshare =>
          split at h
          · cases h
          · split at h
            · cases h
            · split at h
              · cases h
              · next hdst =>
                split at h
                · cases h
                · split at h
                  · cases h
                  · next id hid =>
                    split at h
                    · cases h
                    · cases h
                      exact (Act.makeOffer s kind _ b l id hlive (by simpa using hheld)
                        (by simpa using hshare) (acting_of_admitted hadm) (by simpa using hdst)
                        (lowestFreeOffer_eq_some hid).1).acts.notify _ _

/-- An offer that a caller's handle and id match is the offer of that record (R121). -/
theorem offered_of_match {s : State} (hlaw : OfferLaw s) {id : OfferId} {o : Offer} {b : BufNo}
    {l : Live} (hoffer : offerAt s id = some o) (hbuf : o.handle.buf = b)
    (hlive : liveAt s b = some l) : l.st = .offered id := by
  obtain ⟨-, -, l', hlive', -, -, hst⟩ := hlaw.2.1 id o hoffer
  rw [hbuf, hlive] at hlive'
  cases hlive'
  exact hst

theorem acts_acceptAnswer (hlaw : OfferLaw s₀ → OfferLaw s)
    (h : acceptAnswer p s = .ok (t, area)) : Acts s₀ begins s t := by
  unfold acceptAnswer at h
  split at h
  · cases h
  · next b l hcheck =>
    obtain ⟨-, hlive, -⟩ := checkHandle_ok hcheck
    split at h
    · cases h
    · next id o hmatch =>
      obtain ⟨-, hoffer, hbuf, -⟩ := matchOffer_ok hmatch
      have hst : OfferLaw s₀ → l.st = .offered id := fun h₀ =>
        offered_of_match (hlaw h₀) hoffer hbuf hlive
      split at h
      · cases h
      · split at h
        · cases h
        · split at h
          · cases h
            exact (Act.acceptLend s p id o b l hoffer hbuf hlive hst).acts.notify _ _
          · split at h
            · cases h
            · cases h
              exact (Act.acceptGive s p id o b l hoffer hbuf hlive hst).acts.notify _ _

theorem acts_declineAnswer (h : declineAnswer p s = .ok (t, area)) : Acts s₀ begins s t := by
  unfold declineAnswer at h
  split at h
  · cases h
  · split at h
    · cases h
    · next hmatch =>
      cases h
      exact ((Acts.refl s₀ s).endOffer fun _ => (matchOffer_ok hmatch).2.1).notify _ _

theorem acts_withdrawAnswer (h : withdrawAnswer p s = .ok (t, area)) : Acts s₀ begins s t := by
  unfold withdrawAnswer at h
  split at h
  · cases h
  · split at h
    · cases h
    · split at h
      · cases h
      · split at h
        · cases h
        · next hoffer =>
          cases h
          exact ((Acts.refl s₀ s).endOffer fun _ => hoffer).notify _ _

/-- A record that goes on to be borrowed by the same port keeps every access. -/
theorem acts_recalling {b : BufNo} {l l' : Live} {q : Port} {n : Nat} (hlive : liveAt s b = some l)
    (hborrower : borrowerOf l = some q) (hbody : SameBody l l') (hst : l'.st = .recalling q n)
    (hrev : RevocationFrom s b l l') : Acts s₀ begins s (setLive b l' s) := by
  rw [borrowerOf_eq_some] at hborrower
  refine (Act.relive s b l l' (fun _ => hlive) hbody (fun r mode hmode => ?_) (fun id => ?_) hrev).acts
  · obtain hl | ⟨_, hl⟩ := hborrower <;> simpa [access, hl, hst] using hmode
  · obtain hl | ⟨_, hl⟩ := hborrower <;> simp [hl, hst]

theorem acts_recallAnswer (h : recallAnswer p s = .ok (t, area)) : Acts s₀ begins s t := by
  unfold recallAnswer at h
  split at h
  · cases h
  · next b l hcheck =>
    obtain ⟨-, hlive, -⟩ := checkHandle_ok hcheck
    split at h
    · cases h
    · split at h
      · next q hst =>
        cases h
        refine Acts.notify ?_ _ _
        exact acts_recalling hlive (borrowerOf_eq_some.2 (.inl hst)) ⟨rfl, rfl, rfl, rfl⟩ rfl
          (revocationFrom_of_eq rfl)
      · cases h

theorem acts_returnAnswer (h : returnAnswer p s = .ok (t, area)) : Acts s₀ begins s t := by
  unfold returnAnswer at h
  split at h
  · cases h
  · next b l hcheck =>
    obtain ⟨-, hlive, -⟩ := checkHandle_ok hcheck
    split at h
    · cases h
    · split at h
      · cases h
      · next hborrower =>
        split at h
        · cases h
        · cases h
          exact ((Acts.refl s₀ s).returnToOwner (fun _ => hlive) (.refl l) (not_not.1 hborrower)
            (revocationFrom_of_eq rfl)).notify _ _

/-! ### The handling of a posted command -/

theorem Acts.completeAnswer {a : Answer} (h : ∀ t area, a = .ok (t, area) → Acts s₀ begins s t) :
    Acts s₀ begins s (completeAnswer p s a) := by
  unfold Machine.completeAnswer
  split
  · exact (Acts.refl s₀ s).complete _ _ _
  · exact (h _ _ rfl).complete _ _ _

theorem Acts.fromAttached {body : State → Answer}
    (h : admitted s p = true → ∀ t area, body s = .ok (t, area) → Acts s₀ begins s t) :
    Acts s₀ begins s (fromAttached p body s) := by
  obtain ⟨hadm, h'⟩ | ⟨-, h'⟩ := fromAttached_eq p body s <;> rw [h']
  · exact .completeAnswer (h hadm)
  · exact (Acts.refl s₀ s).complete _ _ _

theorem acts_detachFrom (hbegins : begins ∨ (portAt s p).cmd.state ≠ .pending) :
    Acts s₀ begins s (detachFrom p s) := by
  unfold detachFrom
  split
  · refine ((Acts.refl s₀ s).complete _ _ _).teardownCause _ _ (hbegins.imp_right fun h => ?_)
    rw [portAt_complete, if_pos rfl, takeCompletion]
    split
    · simp
    · exact h
  · exact (Acts.refl s₀ s).complete _ _ _

theorem acts_createJob (j : Job) : Acts s₀ begins s (createJob p j s) := by
  unfold createJob
  dsimp only
  split
  · exact ((Acts.refl s₀ s).setJob _ _).stopJob _ _
  · exact (Acts.refl s₀ s).setJob _ _

theorem acts_jobCreated : Acts s₀ begins s (jobCreated p s) := by
  unfold jobCreated
  split
  · exact (Acts.refl s₀ s).stopJob _ _
  · split
    · exact ((Acts.refl s₀ s).stopJob _ _).clearCancel _
    · exact .refl s₀ s

theorem acts_copyFrom : Acts s₀ begins s (copyFrom p s) := by
  have hrefuse : ∀ r, Acts s₀ begins s (refuseCopy p r s) := fun r =>
    ((Acts.refl s₀ s).complete _ _ _).clearCancel _
  unfold copyFrom
  split
  · split
    · exact hrefuse _
    · exact ((((Acts.refl s₀ s).mark _ _).mark _ _).trans (acts_createJob _)).trans acts_jobCreated
  · exact hrefuse _

/-- The range law without the fields that a tick handling changes. -/
theorem rangeLaw_ticks (h : RangeLaw s) {n : Nat} {u : Option Underway} (hn : n ≤ 255)
    (hu : ∀ k, u = some (.ticks k) → k ≤ 255) :
    RangeLaw { s with pendingTicks := n, underway := u } := by
  obtain ⟨hquota, hoffer, hrecall, hdiv, -, -, hrest⟩ := h
  refine ⟨hquota, hoffer, hrecall, hdiv, hn, fun k hk => hu k ?_, hrest⟩
  cases u with
  | none => cases hk
  | some w => cases w <;> cases hk; rfl

theorem Acts.notUnderway (hs : Acts s₀ True s t) : Acts s₀ True s { t with underway := none } :=
  hs.act (.clock t t.prescaler t.period t.pendingTicks none (.inr ⟨trivial, .inl rfl⟩)
    fun h => rangeLaw_ticks h h.2.2.2.2.1 fun _ hk => nomatch hk)

theorem underway_addWalk (p : Port) (s : State) : (addWalk p s).underway = s.underway := by
  rw [addWalk_eq]

/-- In a chain where no handling begins, the one in progress stays (R77). -/
theorem underway_of_acts (h : Acts s₀ False s t) : t.underway = s.underway := by
  induction h with
  | refl => rfl
  | tail _ hlast ih =>
    rw [← ih]
    cases hlast with
    | clock _ _ _ _ hunder => exact hunder.resolve_right fun h => h.1
    | startTaken _ _ _ _ hbegins => exact hbegins.elim
    | reset hbegins => exact hbegins.elim
    | start => exact underway_addWalk _ _
    | serve _ h =>
      obtain rfl | ⟨_, -, rfl⟩ | ⟨_, _, -, -, rfl⟩ | ⟨_, _, _, -, -, rfl⟩ := serveMover_cases h <;> rfl
    | startScrub => unfold Machine.startScrub; split <;> rfl
    | endOffer id o => obtain h | ⟨_, -, -, h⟩ := endOffer_cases id o _ <;> rw [h] <;> rfl
    | _ => rfl

/-! ### How a step ends -/

/-- What the end of a requester's handling leaves of the handling in progress (R77). -/
def Ended (s : State) (u : State) : Requester → Prop
  | .tick => u.underway = none
  | .port p => u.underway = none ∨ slotTaken s p = none ∧ u.underway = s.underway
  | _ => True

/-- The end of a step from `s`: nothing was taken; the step was taken during reset; or after a chain of
actions the arbiter has granted (R76), a granted handling having ended (R77) or not. -/
inductive EndsAs (s : State) : State → Prop
  | same : EndsAs s s
  | inReset (u : State) (h : Acts s True s u) (hrst : u.rst = true) : EndsAs s u
  | done (u : State) (h : Acts s True s u) : EndsAs s (arbitrate u)
  | handled (r : Requester) (u : State) (hgrant : granted s r = true) (h : Acts s True s u)
      (hend : Ended s u r) : EndsAs s (endHandling r u)

/-- The handling of a posted command, taken now or in progress, is a chain when its body is one. -/
theorem endsAs_portHandling {c : Option Command} {f : State → State}
    (hf : ∀ begins u, (OfferLaw s → OfferLaw u) → (begins ∨ (portAt u p).cmd.state ≠ .pending) →
      Acts s begins u (f u))
    (h : portHandling p c s f = .next t) : EndsAs s t := by
  obtain ⟨⟨hgrant, -, hnone⟩, rfl⟩ | ⟨slot, -, hgrant, -, rfl⟩ | ⟨-, -, rfl⟩ :=
    (portHandling_next p c s f t).1 h
  · refine .handled _ _ hgrant (((Acts.refl s s).take p).trans (hf True _ id (.inl trivial)))
      (.inr ⟨hnone, underway_of_acts (s := updPort p takeCommand s) (hf False (updPort p takeCommand s) id (.inr ?_))⟩)
    rw [portAt_updPort, if_pos rfl, takeCommand]
    simp
  · have hslot : Acts s True s (updPort p (fun hp => { hp with cmd := slot }) s) :=
      (Acts.refl s s).updPort fun hp => calm_cmd hp _
    exact .handled _ (runOn p slot f s) hgrant
      ((hslot.trans (hf True _ id (.inl trivial))).notUnderway.updPort fun hp => calm_cmd hp _)
      (.inl rfl)
  · exact .same

/-! ### Ticks -/

theorem acts_expireOffer {id : OfferId} {o : Offer} (h : TableLaw s₀ → offerAt s id = some o) :
    Acts s₀ begins s (expireOffer id o s) :=
  (((Acts.refl s₀ s).endOffer h).notify _ _).notify _ _

theorem acts_expireRecall {b : BufNo} {l : Live} {q : Port} (hlive : liveAt s b = some l)
    (hborrower : borrowerOf l = some q) : Acts s₀ begins s (expireRecall b l q s) := by
  unfold expireRecall
  split
  · refine Acts.stopJob ?_ _ _
    exact acts_recalling hlive hborrower ⟨rfl, rfl, rfl, rfl⟩ rfl fun _ hr => by simp at hr
  · refine Acts.notify (Acts.notify ?_ _ _) _ _
    exact (Acts.refl s₀ s).returnToOwner (fun _ => hlive) ⟨rfl, rfl, rfl, rfl⟩ hborrower
      (revocationFrom_of_eq rfl)

theorem Acts.tickOffer (hs : Acts s₀ begins s t) (k : Nat) (id : OfferId) : Acts s₀ begins s (tickOffer k t id) := by
  unfold Machine.tickOffer
  split
  · exact hs
  · next o ho =>
    split
    · exact hs.act (.countOffer t id o _ ho (by omega) (by omega))
    · exact hs.trans (acts_expireOffer fun _ => ho)

theorem Acts.tickRecall (hs : Acts s₀ begins s t) (k : Nat) (b : BufNo) : Acts s₀ begins s (tickRecall k t b) := by
  unfold Machine.tickRecall
  split
  · exact hs
  · next l hl =>
    split
    · next q n hst =>
      have hborrower : borrowerOf l = some q := borrowerOf_eq_some.2 (.inr ⟨n, hst⟩)
      split
      · exact hs
      · split
        · exact hs.trans (acts_recalling hl hborrower ⟨rfl, rfl, rfl, rfl⟩ rfl
            (revocationFrom_of_eq rfl))
        · exact hs.trans (acts_expireRecall hl hborrower)
    · exact hs

theorem acts_takeTicks (hgrant : granted s .tick = true) : Acts s₀ True s (takeTicks s) := by
  obtain ⟨-, -, -, h⟩ | ⟨hnone, -, h⟩ := takeTicks_cases s <;> rw [h]
  · exact .refl s₀ s
  · obtain ⟨hrst, hg, hpresents, hhold⟩ := granted_iff.1 hgrant
    refine (Act.clock s s.prescaler s.period 0 _ (.inr ⟨trivial, .inr ⟨s.pendingTicks, rfl, hg, hrst,
      hhold.resolve_right (by simp), ?_⟩⟩) fun hr =>
      rangeLaw_ticks hr (by omega) fun k hk => by cases hk; exact hr.2.2.2.2.1).acts
    simpa [presents, hnone, Nat.succ_le_iff] using hpresents

theorem acts_handleTicks (hgrant : granted s .tick = true) : Acts s₀ True s (handleTicks s) :=
  Acts.foldl _ (fun b h => h.tickRecall _ b) _
    (Acts.foldl _ (fun id h => h.tickOffer _ id) _ (acts_takeTicks hgrant).notUnderway)

/-! ### The teardown walk -/

theorem acts_settleOffer {id : OfferId} {o : Offer} (h : TableLaw s₀ → offerAt s id = some o) :
    Acts s₀ begins s (settleOffer p id o s) := by
  unfold settleOffer
  dsimp only
  split <;> exact ((Acts.refl s₀ s).endOffer h).notify _ _

theorem acts_settleOwned {b : BufNo} {l : Live} (hlive : TableLaw s₀ → liveAt s b = some l)
    (howner : l.owner = p) (hwalk : AtWalk s b p) : Acts s₀ begins s (settleOwned p b l s) := by
  unfold settleOwned
  split
  · exact (Acts.refl s₀ s).retire _ _ hlive (.refl l)
      fun h₀ => not_offered_of_atWalk (hlive h₀) fun _ => ⟨howner ▸ hwalk.1, hwalk.2.1⟩
  · split
    · exact .refl s₀ s
    · exact (Acts.refl s₀ s).awaitRetirement hlive fun q hq => by cases hq; exact hwalk

theorem acts_settleBorrowed {b : BufNo} {l : Live} (hlive : TableLaw s₀ → liveAt s b = some l)
    (hborrower : borrowerOf l = some p) (hwalk : AtWalk s b p) :
    Acts s₀ begins s (settleBorrowed p b l s) := by
  unfold settleBorrowed
  split
  · exact .refl s₀ s
  · split
    · refine Acts.stopJob ?_ _ _
      exact (Acts.refl s₀ s).relive hlive ⟨rfl, rfl, rfl, rfl⟩ rfl
        fun q hq => .inr (by cases hq; exact hwalk)
    · refine Acts.notify ?_ _ _
      exact (Acts.refl s₀ s).returnToOwner hlive ⟨rfl, rfl, rfl, rfl⟩ hborrower
        (revocationFrom_of_eq rfl)

theorem acts_settleShared {b : BufNo} {l : Live} (hlive : TableLaw s₀ → liveAt s b = some l)
    (hheld : isHeld l = true) (hwalk : AtWalk s b p) : Acts s₀ begins s (settleShared p b l s) := by
  unfold settleShared
  split
  · exact .refl s₀ s
  · split
    · refine Acts.stopJob ?_ _ _
      exact (Acts.refl s₀ s).relive hlive ⟨rfl, rfl, rfl, rfl⟩ rfl
        fun q hq => .inr (by cases hq; exact hwalk)
    · exact ((Acts.refl s₀ s).leaveShare hlive (.refl l) rfl hheld
        (revocationFrom_of_eq rfl)).notify _ _

theorem acts_settleBuffer {b : BufNo} {l : Live} (hlive : TableLaw s₀ → liveAt s b = some l)
    (hrel : bufferRelated p l = true) (hwalk : AtWalk s b p) : Acts s₀ begins s (settleBuffer p b l s) := by
  unfold settleBuffer
  split
  · next ho => exact acts_settleOwned hlive ho hwalk
  · next ho =>
    split
    · next hb => exact acts_settleBorrowed hlive hb hwalk
    · next hb =>
      refine acts_settleShared hlive (isHeld_of_share (q := p) ?_) hwalk
      simpa [bufferRelated, ho, hb] using hrel
end

end Sys2Proof.Proofs

/-! Every step is a chain of actions, after which the arbiter's two fields may change. -/

namespace Sys2Proof.Proofs

open Sys2Proof Sys2Proof.Machine Sys2Proof.Safety

section
variable {s₀ s t u : State} {begins : Prop} {p : Port}

theorem endsAs_done (h : Acts s True s u) (ht : Machine.done u = .next t) : EndsAs s t := by
  rw [(done_next u t).1 ht]
  exact .done u h

theorem endsAs_doneOrStuck {o : Option State} (h : ∀ u, o = some u → Acts s True s u)
    (ht : doneOrStuck o = .next t) : EndsAs s t := by
  obtain ⟨u, hu, rfl⟩ := (doneOrStuck_next o t).1 ht
  exact .done u (h u hu)

theorem endsAs_next (ht : Host.Outcome.next (φ := Fault) (ρ := Refusal) s = .next t) : EndsAs s t := by
  cases ht
  exact .same

theorem endsAs_hostStep {f : State → State} (h : Acts s True s (f s)) (ht : hostStep s f = .next t) :
    EndsAs s t := by
  obtain ⟨-, rfl⟩ | ⟨-, rfl⟩ := (hostStep_next s f t).1 ht
  · exact .same
  · exact .done _ h

/-! ### The walk -/

theorem mem_of_nextRelatedBuffer {start : Nat} {b : BufNo} {l : Live}
    (h : nextRelatedBuffer s p start = some (b, l)) :
    ∃ e ∈ s.buffers, e.1 = b.val ∧ e.2.live = some l ∧ bufferRelated p l = true := by
  obtain ⟨e, he, hb⟩ := List.exists_of_findSome?_eq_some h
  split at hb
  · next b' l' hb' hl' =>
    split at hb
    · next hrel =>
      cases hb
      exact ⟨e, he, bufNoOf_eq_some.1 hb', hl', by simp at hrel; exact hrel.2⟩
    · cases hb
  · cases hb

theorem liveAt_of_nextRelatedBuffer (hlaw : TableLaw s) {start : Nat} {b : BufNo} {l : Live}
    (h : nextRelatedBuffer s p start = some (b, l)) : liveAt s b = some l := by
  obtain ⟨⟨n, r⟩, he, rfl, hl, -⟩ := mem_of_nextRelatedBuffer h
  rw [liveAt, recAt, tabGet_of_mem hlaw.1 he]
  exact hl

theorem mem_of_nextRelatedOffer {start : Nat} {id : OfferId} {o : Offer}
    (h : nextRelatedOffer s p start = some (id, o)) :
    (id.val, some o) ∈ s.offers ∧ start ≤ id.val ∧ offerRelated p o = true := by
  obtain ⟨⟨n, e⟩, he, hb⟩ := List.exists_of_findSome?_eq_some h
  split at hb
  · next id' o' hid ho =>
    split at hb
    · next hrel =>
      cases hb
      obtain rfl := offerNoOf_eq_some.1 hid
      dsimp only at ho
      subst ho
      simp at hrel
      exact ⟨he, hrel⟩
    · cases hb
  · cases hb

theorem offerAt_of_nextRelatedOffer (hlaw : TableLaw s) {start : Nat} {id : OfferId} {o : Offer}
    (h : nextRelatedOffer s p start = some (id, o)) : offerAt s id = some o :=
  tabGet_of_mem hlaw.2.2 (mem_of_nextRelatedOffer h).1

theorem acts_walkBuffers {start : Nat} (hgrant : s.tcGrant = some .teardown)
    (hwait : walkWaits s = false) (hhead : s.walkList.head? = some p)
    (hoffers : s.walkPhase = .offers → nextRelatedOffer s p s.walkPos = none) :
    Acts s begins s (walkBuffers p start s) := by
  unfold walkBuffers
  split
  · next b l hnext =>
    obtain ⟨-, -, -, -, hrel⟩ := mem_of_nextRelatedBuffer hnext
    exact (Act.walkBuffer s p b hgrant hwait hhead hoffers).acts.trans
      (acts_settleBuffer (fun hlaw => liveAt_of_nextRelatedBuffer hlaw hnext) hrel
        ⟨hhead, rfl, rfl⟩)
  · exact (Act.endWalk s p hgrant hwait hhead).acts

theorem acts_stepWalk (hgrant : s.tcGrant = some .teardown) (hwait : walkWaits s = false) :
    Acts s begins s (stepWalk s) := by
  unfold stepWalk
  split
  · exact .refl s s
  · next p rest hlist =>
    have hhead : s.walkList.head? = some p := by rw [hlist]; rfl
    split
    · next hphase =>
      split
      · next id o hnext =>
        exact (Act.walkOffer s p id o hgrant hhead hphase hnext).acts.trans
          (acts_settleOffer fun hlaw => offerAt_of_nextRelatedOffer hlaw hnext)
      · next hnext => exact acts_walkBuffers hgrant hwait hhead fun _ => hnext
    · next hphase => exact acts_walkBuffers hgrant hwait hhead fun h => by simp [hphase] at h

theorem endsAs_walkStep (ht : exec .walkStep s = .next t) : EndsAs s t := by
  obtain ⟨hg, rfl⟩ | ⟨-, rfl⟩ := (handling_next .teardown s stepWalk t).1 ht
  · obtain ⟨-, hgrant, hpresents, -⟩ := granted_iff.1 hg
    refine .handled .teardown _ hg (acts_stepWalk hgrant ?_) trivial
    simp [presents] at hpresents
    exact hpresents.2
  · exact .same

/-! ### Job ends -/

theorem acts_takeReport : Acts s₀ begins s (takeReport s) := by
  unfold takeReport
  split
  · exact .refl s₀ s
  · exact Acts.foldl _ (fun b h => h.settleRevocation b) _
      (Acts.foldl _ (fun b h => h.unmark b _) _ (((Acts.refl s₀ s).jobs s.jobs _).complete _ _ _))

/-! ### The Page Memory -/

/-- A page that a page index resolves to is chained: neither free nor in scrubbing (R22). -/
theorem not_free_of_chained {pg : PageNo} {b : BufNo} {n : Option PageNo} (hlaw : PageLaw s)
    (h : entryAt s pg = .chained b n) : pg ∉ s.freeList ∧ s.page ≠ some (.scrub pg true) := by
  obtain ⟨-, -, hfree, hscrub, -, -, hwork⟩ := hlaw
  refine ⟨fun hmem => ?_, fun hpage => ?_⟩
  · rw [(hfree pg).1 hmem] at h; cases h
  · rw [(hscrub pg).1 (List.mem_of_mem_head? (hwork pg true hpage))] at h; cases h

theorem chained_of_resolveIndex {pg : PageNo} {b : BufNo} {i : Nat} (hlaw : PageLaw s)
    (h : resolveIndex s b i = some pg) : ∃ n, entryAt s pg = .chained b n := by
  unfold resolveIndex at h
  split at h
  · cases h
  · next l hl =>
    obtain ⟨-, -, -, -, hchain, -⟩ := hlaw
    obtain ⟨-, -, -, -, -, -, hmem⟩ := hchain b l hl
    exact (hmem pg).1 (List.mem_of_getElem? h)

/-- The law of pages speaks of lists, Page Map, records and the scrub page in progress alone. -/
theorem pageLaw_of_page (hlaw : PageLaw s) (hfree : t.freeList = s.freeList)
    (hqueue : t.scrubQueue = s.scrubQueue) (hmap : t.pageMap = s.pageMap)
    (hbuf : t.buffers = s.buffers)
    (hpage : ∀ pg served, t.page = some (.scrub pg served) → ∃ v, s.page = some (.scrub pg v)) :
    PageLaw t := by
  obtain ⟨hf, hq, hisFree, hisScrub, hchain, hown, hwork⟩ := hlaw
  have hentry : ∀ pg, entryAt t pg = entryAt s pg := fun pg => by rw [entryAt, hmap]; rfl
  have hlive : ∀ b, liveAt t b = liveAt s b := fun b => by rw [liveAt, recAt, hbuf]; rfl
  have hchainOf : ∀ l, chainOf t l = chainOf s l := fun l => by rw [chainOf, hmap]; rfl
  refine ⟨hfree ▸ hf, hqueue ▸ hq, fun pg => ?_, fun pg => ?_, fun b l hl => ?_, fun pg b n h => ?_,
    fun pg served h => ?_⟩
  · rw [hfree, hentry]; exact hisFree pg
  · rw [hqueue, hentry]; exact hisScrub pg
  · simp only [hchainOf, hmap, hentry]
    exact hchain b l ((hlive b).symm.trans hl)
  · rw [hlive]; exact hown pg b n ((hentry pg).symm.trans h)
  · obtain ⟨v, hv⟩ := hpage pg served h
    rw [hqueue]; exact hwork pg v hv

theorem serveMover_keeps_pageLaw (hlaw : PageLaw s) (h : serveMover s = some t) : PageLaw t := by
  obtain rfl | ⟨pg, hpage, rfl⟩ | ⟨q, pg, -, -, rfl⟩ | ⟨q, bytes, pg, -, -, rfl⟩ := serveMover_cases h
  · exact hlaw
  · refine pageLaw_of_page hlaw rfl rfl rfl rfl fun pg' served h => ?_
    obtain ⟨rfl, rfl⟩ : pg = pg' ∧ true = served := by simpa using h
    exact ⟨_, hpage⟩
  · exact pageLaw_of_page hlaw rfl rfl rfl rfl fun _ _ h => by simp at h
  · exact pageLaw_of_page hlaw rfl rfl rfl rfl fun _ _ h => by simp at h

theorem copyDest_eq_some {pg : PageNo} (h : copyDest s p = some pg) :
    ∃ j, jobAt s p = some j ∧ resolveIndex s j.dst.buf (j.dstStart + j.done) = some pg := by
  unfold copyDest at h
  split at h
  · cases h
  · next j hj => exact ⟨j, hj, h⟩

/-- The Data Mover's transfer, served under the law of pages (R31). -/
theorem Acts.serve (hs : Acts s₀ begins s t) (hlaw : PageLaw s₀ → PageLaw t) (h : serveMover t = some u) :
    Acts s₀ begins s u ∧ (PageLaw s₀ → PageLaw u) := by
  refine ⟨hs.act (.serve t u h fun h₀ q bytes pg _ hdest => ?_),
    fun h₀ => serveMover_keeps_pageLaw (hlaw h₀) h⟩
  obtain ⟨j, -, hres⟩ := copyDest_eq_some hdest
  obtain ⟨n, hn⟩ := chained_of_resolveIndex (hlaw h₀) hres
  exact (not_free_of_chained (hlaw h₀) hn).1

theorem acts_memGrant {r : MemRequester} (h : memGrant r s = some t) :
    Acts s begins s t ∧ (PageLaw s → PageLaw t) := by
  obtain ⟨-, rfl⟩ | ⟨-, rfl⟩ | ⟨-, u, hu, rfl⟩ := memGrant_cases h
  · exact ⟨(Acts.refl s s).memLast r s.freeCount, id⟩
  · exact ⟨(Acts.refl s s).memLast r _, id⟩
  · obtain ⟨hacts, hpage⟩ := ((Acts.refl s s).memLast s.memLast (s.freeCount + 1)).serve id hu
    exact ⟨hacts.memLast r u.freeCount, hpage⟩

theorem acts_serveByte {acc : Access} {b : BufNo} {i : Nat} {k : Fin 64}
    (h : serveByte p acc b i k s = some t) : Acts s begins s t := by
  obtain ⟨u, pg, hu, hres, ⟨-, rfl⟩ | ⟨v, -, rfl⟩⟩ := serveByte_cases h
  · exact (acts_memGrant hu).1.answer _ _ _
  · obtain ⟨hacts, hpage⟩ := acts_memGrant hu
    refine (hacts.act (.hostStore u pg k.val v k.isLt fun h₀ => ?_)).answer _ _ _
    obtain ⟨n, hn⟩ := chained_of_resolveIndex (hpage h₀) hres
    exact not_free_of_chained (hpage h₀) hn

/-! ### Host accesses -/

theorem endsAs_fault (k : FaultKind) (off : Nat) (acc : Access)
    (ht : done (s |> answerZero p acc |> raiseFault p k off acc) = .next t) : EndsAs s t :=
  endsAs_done (((Acts.refl s s).answer _ _ _).raiseFault _ _ _ _) ht

theorem endsAs_directViewAccess {k : Fin 64} {acc : Access}
    (ht : directViewAccess p k acc s = .next t) : EndsAs s t := by
  unfold directViewAccess at ht
  split at ht
  · exact endsAs_fault _ _ _ ht
  · exact endsAs_done ((Acts.refl s s).answer _ _ _) ht
  · split at ht
    · exact endsAs_fault _ _ _ ht
    · exact endsAs_doneOrStuck (fun u hu => acts_serveByte hu) ht

/-- What stands in the window slots is not touched by a served transfer. -/
theorem ports_memGrant {r : MemRequester} (h : memGrant r s = some t) : t.ports = s.ports := by
  obtain ⟨-, rfl⟩ | ⟨-, rfl⟩ | ⟨-, u, hu, rfl⟩ := memGrant_cases h
  · rfl
  · rfl
  · obtain rfl | ⟨_, -, rfl⟩ | ⟨_, _, -, -, rfl⟩ | ⟨_, _, _, -, -, rfl⟩ := serveMover_cases hu <;> rfl

theorem slotAt_serveByte {acc : Access} {b : BufNo} {i : Nat} {k : Fin 64} {w : Window}
    (h : serveByte p acc b i k s = some t) :
    slotAt w (portAt t p) = slotAt w (portAt s p) := by
  obtain ⟨u, pg, hu, -, hcase⟩ := serveByte_cases h
  have hports : portAt u p = portAt s p := by rw [portAt, ports_memGrant hu]; rfl
  obtain ⟨-, rfl⟩ | ⟨v, -, rfl⟩ := hcase
  · cases w <;> simp [Machine.answer, slotAt, hports]
  · have hmem : portAt { u with mem := memWrite u.mem (pageAddr pg k.val) v } p = portAt u p := rfl
    cases w <;> simp [Machine.answer, slotAt, hports, hmem]

theorem endsAs_dataPortAccess {w : Window} {acc : Access}
    (ht : dataPortAccess p w acc s = .next t) : EndsAs s t := by
  unfold dataPortAccess at ht
  split at ht
  · exact endsAs_fault _ _ _ ht
  · exact endsAs_done ((Acts.refl s s).answer _ _ _) ht
  · next m hm =>
    split at ht
    · exact endsAs_fault _ _ _ ht
    · split at ht
      · refine endsAs_done (((Acts.refl s s).answer _ _ _).trans (acts_updPort (calm_putSlot ?_))) ht
        have hslot : slotAt w (portAt (answer p acc 0 s) p) = .mapped m := by
          rw [← hm]; cases w <;> simp [Machine.answer, slotAt]
        rw [hslot]
        exact slotCalm_mapped ⟨rfl, rfl, rfl, .inl rfl⟩
      · refine endsAs_doneOrStuck (fun u hu => ?_) ht
        obtain ⟨v, hv, rfl⟩ := Option.map_eq_some_iff.1 hu
        refine (acts_serveByte hv).trans (acts_updPort (calm_putSlot ?_))
        rw [slotAt_serveByte hv, hm]
        exact slotCalm_mapped (movedTo_advance m)

theorem acts_writeCursor {w : Window} {v : Byte} : Acts s₀ True s (writeCursor p w v s) := by
  have hanswer : Acts s₀ True s (answerZero p (.write v) s) := (Acts.refl s₀ s).answer _ _ _
  unfold writeCursor
  dsimp only
  split
  · exact hanswer.raiseFault _ _ _ _
  · exact hanswer
  · next m hm =>
    split
    · refine hanswer.trans (acts_updPort (calm_putSlot ?_))
      rw [hm]
      exact slotCalm_mapped ⟨rfl, rfl, rfl, .inl rfl⟩
    · exact hanswer.raiseFault _ _ _ _

theorem acts_writePageIndex {w : Window} {v : Byte} : Acts s₀ True s (writePageIndex p w v s) := by
  have hanswer : Acts s₀ True s (answerZero p (.write v) s) := (Acts.refl s₀ s).answer _ _ _
  unfold writePageIndex
  dsimp only
  split
  · exact hanswer.raiseFault _ _ _ _
  · exact hanswer
  · next m hm =>
    split
    · next hlt =>
      refine hanswer.trans (acts_updPort (calm_putSlot ?_))
      rw [hm]
      exact slotCalm_mapped ⟨rfl, rfl, rfl, .inr hlt⟩
    · exact hanswer.raiseFault _ _ _ _

theorem acts_unmapWindow {w : Window} : Acts s₀ True s (unmapWindow p w s) :=
  ((Acts.refl s₀ s).answer _ _ _).updPort fun _ => calm_putSlot (slotCalm_empty _)

theorem acts_swapWindows : Acts s₀ True s (swapWindows p s) :=
  ((Acts.refl s₀ s).answer _ _ _).updPort calm_swap

theorem acts_clearOvrWindows : Acts s₀ True s (clearOvrWindows p s) :=
  ((Acts.refl s₀ s).answer _ _ _).updPort fun _ =>
    calm_slots (slotCalm_clearOvrSlot _) (slotCalm_clearOvrSlot _) (.refl _)

theorem acts_postAt {code : Byte} : Acts s₀ True s (postAt p code s) := by
  unfold postAt
  dsimp only
  split
  · exact ((Acts.refl s₀ s).answer _ _ _).updPort fun hp => calm_cmd hp _
  · exact ((Acts.refl s₀ s).answer _ _ _).raiseFault _ _ _ _

theorem acts_acknowledgeAt {v : Byte} : Acts s₀ True s (acknowledgeAt p v s) := by
  refine ((Acts.refl s₀ s).answer _ _ _).updPort fun hp => ?_
  split
  · exact calm_cmd hp _
  · exact .refl hp

theorem acts_cancelAt {v : Byte} : Acts s₀ True s (cancelAt p v s) := by
  have hanswer : Acts s₀ True s (answerZero p (.write v) s) := (Acts.refl s₀ s).answer _ _ _
  unfold cancelAt
  dsimp only
  split
  · exact hanswer.updPort fun hp => calm_cmd hp _
  · split
    · split
      · exact hanswer.stopJob _ _
      · exact hanswer.updPort fun hp => calm_cmd hp _
    · exact hanswer
  · exact hanswer

theorem acts_popAt {v : Byte} : Acts s₀ True s (popAt p v s) :=
  ((Acts.refl s₀ s).answer _ _ _).updPort calm_pop

theorem acts_enablesAt {v : Byte} : Acts s₀ True s (enablesAt p v s) :=
  ((Acts.refl s₀ s).answer _ _ _).updPort fun hp => calm_enables hp _

theorem acts_clearRecordAt {v : Byte} : Acts s₀ True s (clearRecordAt p v s) :=
  ((Acts.refl s₀ s).answer _ _ _).updPort calm_fault_none

theorem acts_windowControlWrite {v : Byte} : Acts s₀ True s (windowControlWrite p v s) := by
  unfold windowControlWrite
  split_ifs
  · exact acts_unmapWindow
  · exact acts_unmapWindow
  · exact acts_swapWindows
  · exact acts_clearOvrWindows
  · exact (Acts.refl s₀ s).answer _ _ _

theorem acts_ite {c : Prop} [Decidable c] {u v : State} (hu : Acts s₀ True s u) (hv : Acts s₀ True s v) :
    Acts s₀ True s (if c then u else v) := by
  split <;> assumption

theorem acts_storeParam {i : Nat} {v : Byte} : Acts s₀ True s (storeParam p i v s) :=
  ((Acts.refl s₀ s).answer _ _ _).updPort fun hp => calm_cmd hp _

theorem acts_readOnlyWrite {off : Nat} {v : Byte} : Acts s₀ True s (readOnlyWrite p off v s) :=
  ((Acts.refl s₀ s).answer _ _ _).raiseFault _ _ _ _

theorem acts_writeLocation {off : Nat} {v : Byte} : Acts s₀ True s (writeLocation p off v s) :=
  acts_ite acts_writeCursor <| acts_ite acts_writePageIndex <| acts_ite acts_writeCursor <|
    acts_ite acts_writePageIndex <| acts_ite acts_windowControlWrite <| acts_ite acts_storeParam <|
    acts_ite acts_postAt <| acts_ite acts_acknowledgeAt <| acts_ite acts_cancelAt <|
    acts_ite acts_popAt <| acts_ite acts_enablesAt <| acts_ite acts_clearRecordAt acts_readOnlyWrite

theorem endsAs_locationWrite {off : Fin 128} {v : Byte} (ht : locationWrite p off v s = .next t) :
    EndsAs s t := by
  unfold locationWrite at ht
  split_ifs at ht
  · exact endsAs_directViewAccess ht
  · exact endsAs_dataPortAccess ht
  · exact endsAs_dataPortAccess ht
  · exact endsAs_done acts_writeLocation ht

/-! ### Ticks and pins -/

theorem rangeLaw_clock (h : RangeLaw s) {pre per n : Nat} (hlt : pre < per) (hmin : 256 ≤ per)
    (hmax : per ≤ 65536) (hn : n ≤ 255) :
    RangeLaw { s with prescaler := pre, period := per, pendingTicks := n } := by
  obtain ⟨hquota, hoffer, hrecall, hdiv, -, htaken, -⟩ := h
  exact ⟨hquota, hoffer, hrecall, hdiv, hn, htaken, hlt, hmin, hmax⟩

theorem tickPeriod_bounds {n : Nat} (h : n ≤ 255) : 256 ≤ tickPeriod n ∧ tickPeriod n ≤ 65536 := by
  unfold tickPeriod
  omega

/-- An action of the Deadline Unit. -/
theorem Acts.clock (hs : Acts s₀ begins s t) {pre per n : Nat}
    (h : RangeLaw t → pre < per ∧ 256 ≤ per ∧ per ≤ 65536 ∧ n ≤ 255) :
    Acts s₀ begins s { t with prescaler := pre, period := per, pendingTicks := n } :=
  hs.act (.clock t pre per n t.underway (.inl rfl) fun hr => by
    obtain ⟨h1, h2, h3, h4⟩ := h hr
    exact rangeLaw_clock hr h1 h2 h3 h4)

end

end Sys2Proof.Proofs

/-! The pins, the Data Mover, the frames and the services of the Maintenance Port as chains of
actions; and with them every command. -/

namespace Sys2Proof.Proofs

open Sys2Proof Sys2Proof.Machine Sys2Proof.Safety

section
variable {s₀ s t u : State} {begins : Prop} {p : Port}

/-! ### Ticks and pins -/

theorem Acts.restartPrescaler (hs : Acts s₀ begins s t) : Acts s₀ begins s (restartPrescaler t) :=
  hs.clock fun hr => by
    have := tickPeriod_bounds hr.2.2.2.1
    exact ⟨by omega, this.1, this.2, hr.2.2.2.2.1⟩

theorem acts_arriveTick : Acts s₀ begins s (arriveTick s) := by
  unfold arriveTick
  split
  · exact .refl s₀ s
  · split
    · exact (Acts.refl s₀ s).clock fun hr => ⟨hr.2.2.2.2.2.2.1, hr.2.2.2.2.2.2.2.1,
        hr.2.2.2.2.2.2.2.2, by omega⟩
    · exact .refl s₀ s

theorem acts_produceTick : Acts s₀ begins s (produceTick s) :=
  (Acts.refl s₀ s).restartPrescaler.trans acts_arriveTick

theorem acts_clkPeriod : Acts s₀ begins s (clkPeriod s) := by
  unfold clkPeriod
  split
  · next hlt =>
    exact (Acts.refl s₀ s).clock fun hr => ⟨hlt, hr.2.2.2.2.2.2.2.1, hr.2.2.2.2.2.2.2.2,
      hr.2.2.2.2.1⟩
  · exact acts_produceTick

theorem acts_setPrst (v : Bool) : Acts s₀ begins s (setPrst p v s) :=
  (Acts.refl s₀ s).updPort fun hp => calm_prst hp v

theorem acts_assertPrst : Acts s₀ True s (assertPrst p s) := by
  unfold assertPrst
  split
  · exact .refl s₀ s
  · exact (acts_setPrst true).teardownCause _ _ (.inl trivial)

theorem acts_releaseRst (hrst : s.rst = true) : Acts s₀ begins s (releaseRst s) :=
  (Act.released s hrst).acts.restartPrescaler

/-! ### The Data Mover -/

theorem acts_startCopyPage : Acts s₀ begins s (startCopyPage s) := by
  unfold startCopyPage
  split
  · exact .refl s₀ s
  · next q _ =>
    refine ((Acts.refl s₀ s).act (.copyWork s (some (.copyRead q none)) (by simp) ?_)).mover
      .scrub q
    rintro ⟨hmem, -, -⟩
    exact ⟨hmem, by simp, by simp⟩

theorem Acts.endRead (hs : Acts s₀ begins s t) : Acts s₀ begins s (endRead t) := by
  unfold Machine.endRead
  split
  · next q bytes hpage =>
    refine hs.act (.copyWork t (some (.copyWrite q bytes false)) (by simp) ?_)
    rintro ⟨hmem, hread, -⟩
    refine ⟨hmem, by simp, fun q' bytes' v h => ?_⟩
    obtain ⟨rfl, rfl, rfl⟩ : q = q' ∧ bytes = bytes' ∧ false = v := by simpa using h
    exact hread q bytes hpage
  · exact hs

theorem Acts.judgeJob (hs : Acts s₀ begins s t) (p : Port) : Acts s₀ begins s (judgeJob p t) := by
  unfold Machine.judgeJob
  split
  · exact hs
  · dsimp only
    split
    · exact hs.endJob _ _ _
    · split
      · exact hs.endJob _ _ _
      · exact hs.setJob _ _

theorem Acts.endWrite (hs : Acts s₀ begins s t) : Acts s₀ begins s (endWrite t) := by
  unfold Machine.endWrite
  split
  · refine (hs.act (.copyWork t none (by simp) ?_)).judgeJob _
    rintro ⟨hmem, -, -⟩
    exact ⟨hmem, by simp, by simp⟩
  · exact hs

theorem endRead_keeps_pageLaw (hlaw : PageLaw s) : PageLaw (endRead s) := by
  unfold endRead
  split
  · exact pageLaw_of_page hlaw rfl rfl rfl rfl fun _ _ h => by simp at h
  · exact hlaw

/-- After its service a scrub step holds a served zero-fill. -/
theorem page_serveMover_scrub {pg : PageNo} {v : Bool} (hpage : s.page = some (.scrub pg v))
    (h : serveMover s = some t) : t.page = some (.scrub pg true) := by
  cases v <;> simp only [serveMover, hpage, Option.some.injEq] at h <;> rw [← h]
  exact hpage

theorem Acts.scrubStepEnd (hs : Acts s₀ begins s t) (hlaw : PageLaw s₀ → PageLaw t)
    (h : scrubStepEnd t = some u) : Acts s₀ begins s u := by
  unfold Machine.scrubStepEnd at h
  split at h
  · next pg v hpage =>
    obtain ⟨w, hw, rfl⟩ := Option.map_eq_some_iff.1 h
    exact (hs.serve hlaw hw).1.act (.endScrub w pg (page_serveMover_scrub hpage hw))
  · cases h; exact hs

theorem Acts.copyReadEnd (hs : Acts s₀ begins s t) (hlaw : PageLaw s₀ → PageLaw t)
    (h : copyReadEnd t = some u) : Acts s₀ begins s u ∧ (PageLaw s₀ → PageLaw u) := by
  unfold Machine.copyReadEnd at h
  split at h
  · obtain ⟨w, hw, rfl⟩ := Option.map_eq_some_iff.1 h
    obtain ⟨hacts, hpage⟩ := hs.serve hlaw hw
    exact ⟨hacts.endRead, fun h₀ => endRead_keeps_pageLaw (hpage h₀)⟩
  · cases h; exact ⟨hs, hlaw⟩

theorem Acts.copyWriteEnd (hs : Acts s₀ begins s t) (hlaw : PageLaw s₀ → PageLaw t)
    (h : copyWriteEnd t = some u) : Acts s₀ begins s u := by
  unfold Machine.copyWriteEnd at h
  split at h
  · obtain ⟨w, hw, rfl⟩ := Option.map_eq_some_iff.1 h
    exact (hs.serve hlaw hw).1.endWrite
  · cases h; exact hs

theorem Acts.finishPage (hs : Acts s₀ begins s t) (hlaw : PageLaw s₀ → PageLaw t)
    (h : finishPage t = some u) : Acts s₀ begins s u := by
  unfold Machine.finishPage at h
  split at h
  · cases h; exact hs
  · exact hs.scrubStepEnd hlaw h
  · split at h
    · cases h
    · next w hw =>
      obtain ⟨hacts, hpage⟩ := hs.copyReadEnd hlaw hw
      exact hacts.copyWriteEnd hpage h
  · exact hs.copyWriteEnd hlaw h

/-- The mover begins work only with no page in progress (R162). -/
theorem page_of_chosenKind {k : WorkKind} (h : chosenKind s = some k) : s.page = none := by
  unfold chosenKind at h
  split at h
  · cases h
  · next hidle =>
    cases hp : s.page with
    | none => rfl
    | some w => simp [hp] at hidle

theorem endsAs_scrubStepStart (ht : exec .scrubStepStart s = .next t) : EndsAs s t := by
  change execScrubStepStart s = .next t at ht
  unfold execScrubStepStart at ht
  split at ht
  · next hk => exact endsAs_done (Act.startScrub s (page_of_chosenKind hk)).acts ht
  · exact endsAs_next ht

theorem endsAs_copyPageStart (ht : exec .copyPageStart s = .next t) : EndsAs s t := by
  change execCopyPageStart s = .next t at ht
  unfold execCopyPageStart at ht
  split at ht
  · exact endsAs_done acts_startCopyPage ht
  · exact endsAs_next ht

/-! ### Frames -/

theorem rangeLaw_cfgSet {v : Nat} {it : CfgItem} (hin : cfgInRange v it = true) (h : RangeLaw s) :
    RangeLaw { s with cfg := cfgSet s.cfg v it } := by
  obtain ⟨hquota, hoffer, hrecall, hdiv, hrest⟩ := h
  cases it with
  | bufQuota q =>
    refine ⟨fun p => ⟨?_, (hquota p).2⟩, hoffer, hrecall, hdiv, hrest⟩
    simp only [cfgInRange, decide_eq_true_eq] at hin
    simp only [cfgSet, perGet_perSet]
    split
    · exact hin
    · exact (hquota p).1
  | pageQuota q =>
    refine ⟨fun p => ⟨(hquota p).1, ?_⟩, hoffer, hrecall, hdiv, hrest⟩
    simp only [cfgInRange, decide_eq_true_eq] at hin
    simp only [cfgSet, perGet_perSet]
    split
    · exact hin
    · exact (hquota p).2
  | policy q => exact ⟨hquota, hoffer, hrecall, hdiv, hrest⟩
  | offerTicks =>
    exact ⟨hquota, by simpa [cfgInRange, cfgSet] using hin, hrecall, hdiv, hrest⟩
  | recallTicks =>
    exact ⟨hquota, hoffer, by simpa [cfgInRange, cfgSet] using hin, hdiv, hrest⟩
  | tickDiv => exact ⟨hquota, hoffer, hrecall, by simpa [cfgInRange, cfgSet] using hin, hrest⟩

theorem offerTicks_cfgSet {c : Cfg} {v : Nat} {it : CfgItem} (hin : cfgInRange v it = true)
    (h : 1 ≤ c.offerTicks ∧ c.offerTicks ≤ 65535) :
    1 ≤ (cfgSet c v it).offerTicks ∧ (cfgSet c v it).offerTicks ≤ 65535 := by
  cases it with
  | offerTicks => simpa [cfgInRange, cfgSet] using hin
  | _ => exact h

theorem Acts.writeConfig (hs : Acts s₀ begins s t) (ps : List Byte) : Acts s₀ begins s (writeConfig ps t) := by
  unfold Machine.writeConfig
  split
  · exact hs.maint _
  · next it _ =>
    split
    · next hin =>
      exact (hs.act (.config t (cfgSet t.cfg (numAt ps 2) it) (rangeLaw_cfgSet hin)
        (offerTicks_cfgSet hin))).maint (.ready .ok (bytes16 (cfgGet t.cfg it)))
    · exact hs.maint _

theorem Acts.readConfig (hs : Acts s₀ begins s t) (ps : List Byte) : Acts s₀ begins s (readConfig ps t) := by
  unfold Machine.readConfig
  split <;> exact hs.maint _

theorem Acts.takeRequest (hs : Acts s₀ begins s t) (code : Byte) (ps : List Byte) :
    Acts s₀ begins s (takeRequest code ps t) := by
  unfold Machine.takeRequest
  split
  · exact hs.maint _
  · split
    · exact hs
    · split
      · exact hs.readConfig ps
      · exact hs.writeConfig ps
      · exact hs.maint _

theorem Acts.shiftStatus (hs : Acts s₀ begins s t) (n : Nat) : Acts s₀ begins s (shiftStatus n t) :=
  hs.sdo _ t.maint

theorem acts_requestFrameStep {bytes : List Byte} : Acts s₀ begins s (requestFrameStep bytes s) := by
  unfold requestFrameStep
  dsimp only
  split
  · exact ((Acts.refl s₀ s).shiftStatus _).takeRequest _ _
  · exact (Acts.refl s₀ s).shiftStatus _

theorem acts_fetchFrameStep {n : Nat} : Acts s₀ begins s (fetchFrameStep n s) := by
  unfold fetchFrameStep
  split
  · exact (Acts.refl s₀ s).sdo _ _
  · exact (Acts.refl s₀ s).shiftStatus n

/-- A step of the Maintenance Port's or the Data Mover's that is taken outside reset. -/
theorem endsAs_outsideReset {f : State} (h : Acts s True s f)
    (ht : (if s.rst then Host.Outcome.next s else done f) = .next t) : EndsAs s t := by
  split at ht
  · exact endsAs_next ht
  · exact endsAs_done h ht

theorem endsAs_outsideReset_stuck {o : Option State} (h : ∀ u, o = some u → Acts s True s u)
    (ht : (if s.rst then Host.Outcome.next s else doneOrStuck o) = .next t) : EndsAs s t := by
  split at ht
  · exact endsAs_next ht
  · exact endsAs_doneOrStuck h ht

/-! ### Maintenance -/

theorem Acts.respond {a : MaintAnswer}
    (h : ∀ u data, a = .ok (u, data) → Acts s₀ begins s u) :
    Acts s₀ begins s (respond s a) := by
  unfold Machine.respond
  split
  · exact (Acts.refl s₀ s).maint _
  · exact (h _ _ rfl).maint _

theorem endsAs_maintHandling {r : Request} {f : List Byte → Option MaintAnswer}
    (h : s.tcGrant = some .maintenance → ∀ ps u data, f ps = some (.ok (u, data)) → Acts s True s u)
    (ht : maintHandling r s f = .next t) : EndsAs s t := by
  obtain ⟨ps, a, -, hgrant, ha, rfl⟩ | ⟨-, rfl⟩ := (maintHandling_next r s f t).1 ht
  · exact .handled _ _ hgrant
      (.respond fun u data hok => h (granted_iff.1 hgrant).2.1 ps u data (hok ▸ ha)) trivial
  · exact .same

theorem endsAs_maintService {r : Request} {f : List Byte → Option MaintAnswer}
    (h : ∀ ps u data, f ps = some (.ok (u, data)) → Acts s True s u)
    (ht : maintService r s f = .next t) : EndsAs s t := by
  obtain ⟨ps, a, -, -, ha, rfl⟩ | ⟨-, rfl⟩ := (maintService_next r s f t).1 ht
  · exact .done _ (.respond fun u data hok => h ps u data (hok ▸ ha))
  · exact .same

/-- A request that changes nothing but the response. -/
theorem acts_inspection {a : MaintAnswer} (hread : ∀ u data, a = .ok (u, data) → u = s) {data : List Byte}
    (h : some a = some (.ok (u, data))) : Acts s₀ begins s u := by
  obtain rfl := hread u data (Option.some.inj h)
  exact .refl s₀ u

theorem acts_holdAnswer {data : List Byte} (hgrant : s.tcGrant = some .maintenance)
    (h : holdAnswer s = some (.ok (u, data))) :
    Acts s begins s u := by
  unfold holdAnswer at h
  split at h
  · cases h; exact .refl s s
  · obtain ⟨w, hw, hu⟩ := Option.map_eq_some_iff.1 h
    cases hu
    have hpaused : Acts s begins s { s with paused := true } := (Act.held s true s.hold hgrant).acts
    exact (hpaused.finishPage
      (fun hlaw => pageLaw_of_page hlaw rfl rfl rfl rfl fun _ v h => ⟨v, h⟩) hw).act
      (.held w w.paused true hgrant)

theorem acts_releaseAnswer {data : List Byte} (hgrant : s₀.tcGrant = some .maintenance)
    (h : some (releaseAnswer s) = some (.ok (u, data))) :
    Acts s₀ begins s u := by
  unfold releaseAnswer at h
  split at h <;> cases h
  · exact (Act.held s false false hgrant).acts
  · exact .refl s₀ s

theorem acts_readMemAnswer {ps data : List Byte} (h : readMemAnswer ps s = some (.ok (u, data))) :
    Acts s begins s u := by
  unfold readMemAnswer at h
  split at h
  · cases h
  · obtain ⟨w, hw, hu⟩ := Option.map_eq_some_iff.1 h
    cases hu
    exact (acts_memGrant hw).1

theorem memoryParams_ok {ps : List Byte} {pg : PageNo} {offset count : Nat}
    (h : memoryParams ps = .ok (pg, offset, count)) :
    pageNoOf (numAt ps 0) = some pg ∧ offset = (byteAt ps 2).toNat ∧ count = (byteAt ps 3).toNat ∧
      offset ≤ 63 ∧ 1 ≤ count ∧ count ≤ 64 ∧ offset + count ≤ 64 := by
  unfold memoryParams at h
  split at h
  · cases h
  · next pg' hpg =>
    dsimp only at h
    split_ifs at h with h1 h2 h3
    cases h
    exact ⟨hpg, rfl, rfl, by omega, by omega, by omega, by omega⟩

theorem pageMap_memGrant {r : MemRequester} (h : memGrant r s = some t) : t.pageMap = s.pageMap := by
  obtain ⟨-, rfl⟩ | ⟨-, rfl⟩ | ⟨-, u, hu, rfl⟩ := memGrant_cases h
  · rfl
  · rfl
  · obtain rfl | ⟨_, -, rfl⟩ | ⟨_, _, -, -, rfl⟩ | ⟨_, _, _, -, -, rfl⟩ := serveMover_cases hu <;> rfl

theorem chainedTo_eq_some {pg : PageNo} {b : BufNo} :
    chainedTo s pg = some b ↔ ∃ n, entryAt s pg = .chained b n := by
  unfold chainedTo
  cases entryAt s pg <;> simp

theorem acts_writeMemAnswer {ps data : List Byte} (h : writeMemAnswer ps s = some (.ok (u, data))) :
    Acts s begins s u := by
  unfold writeMemAnswer at h
  split at h
  · cases h
  · next pg offset count hparams =>
    obtain ⟨-, -, -, -, -, -, hend⟩ := memoryParams_ok hparams
    split at h
    · cases h
    · next b hb =>
      obtain ⟨w, hw, hu⟩ := Option.map_eq_some_iff.1 h
      cases hu
      obtain ⟨hacts, hpage⟩ := acts_memGrant hw
      obtain ⟨n, hn⟩ := chainedTo_eq_some.1 hb
      refine hacts.act (.maintStore w pg offset _ ?_ fun h₀ =>
        not_free_of_chained (b := b) (n := n) (hpage h₀) ?_)
      · simp only [writeData, List.length_take]; omega
      · rw [← hn, entryAt, pageMap_memGrant hw]; rfl

/-! ### FORCE_FREE -/

/-- No offer comes into use and no record becomes OFFERED. -/
structure Fewer (s t : State) : Prop where
  offers : ∀ id, offerAt s id = none → offerAt t id = none
  records : ∀ b l' id, liveAt t b = some l' → l'.st = .offered id →
    ∃ l, liveAt s b = some l ∧ l.st = .offered id

theorem Fewer.refl (s : State) : Fewer s s := ⟨fun _ h => h, fun _ l _ h k => ⟨l, h, k⟩⟩

theorem Fewer.trans (h : Fewer s t) (k : Fewer t u) : Fewer s u :=
  ⟨fun id hid => k.offers id (h.offers id hid), fun b l' id hl hst =>
    let ⟨l, hl, hst⟩ := k.records b l' id hl hst
    h.records b l id hl hst⟩

theorem Fewer.of_eq (hoffer : ∀ id, offerAt t id = offerAt s id) (hlive : ∀ b, liveAt t b = liveAt s b) :
    Fewer s t :=
  ⟨fun id h => (hoffer id).trans h, fun b l' _ hl hst => ⟨l', hlive b ▸ hl, hst⟩⟩

theorem Fewer.setLive (b : BufNo) {l : Live}
    (h : ∀ id, l.st = .offered id → ∃ l₁, liveAt s b = some l₁ ∧ l₁.st = .offered id) :
    Fewer s (setLive b l s) := by
  refine ⟨fun _ h => h, fun c l' id hl hst => ?_⟩
  rw [liveAt_setLive] at hl
  split at hl
  · next hc => cases hl; exact hc ▸ h id hst
  · exact ⟨l', hl, hst⟩

theorem Fewer.retire (b : BufNo) (l : Live) (cause : Cause) (caller : Option Port) :
    Fewer s (Machine.retire b l cause caller s) := by
  refine ⟨fun id h => by simpa using h, fun c l' id hl hst => ?_⟩
  simp only [Machine.retire, liveAt_setRec, liveAt_lowerCounts, liveAt_scrubPages,
    liveAt_unpublishAll, liveAt_revokeAll] at hl
  split at hl
  · cases hl
  · exact ⟨l', hl, hst⟩

theorem Fewer.endOffer (id : OfferId) (o : Offer) : Fewer s (Machine.endOffer id o s) := by
  have hfree : Fewer s (setOffer id none s) :=
    ⟨fun i h => by rw [offerAt_setOffer]; split <;> [rfl; exact h], fun _ l _ h k => ⟨l, h, k⟩⟩
  obtain h | ⟨l, -, -, h⟩ := endOffer_cases id o s <;> rw [h]
  · exact hfree
  · exact hfree.trans (.setLive _ fun _ h => nomatch h)

theorem Fewer.removeOffer (b : BufNo) (l : Live) : Fewer s (removeOffer b l s) := by
  unfold Machine.removeOffer
  split
  · exact .refl s
  · split
    · exact .refl s
    · exact (Fewer.endOffer _ _).trans (.of_eq (fun _ => rfl) fun _ => rfl)

theorem Fewer.notify (h : Fewer s t) (p : Port) (n : Notice) : Fewer s (notify p n t) :=
  h.trans (.of_eq (fun _ => rfl) fun _ => rfl)

theorem Fewer.returnToOwner (b : BufNo) (l : Live) (q : Port) : Fewer s (returnToOwner b l q s) :=
  (Fewer.setLive (s := s) b (l := { l with st := .held noPorts }) (by simp)).trans
    (.of_eq (fun _ => rfl) fun _ => rfl)

theorem Fewer.leaveShare (b : BufNo) (l : Live) (q : Port) : Fewer s (leaveShare b l q s) :=
  (Fewer.setLive (s := s) b (l := { l with st := .held (perSet (shareOf l) q false) }) (by simp)).trans
    (.of_eq (fun _ => rfl) fun _ => rfl)

theorem Fewer.completeRevocation (b : BufNo) : Fewer s (completeRevocation b s) := by
  unfold Machine.completeRevocation
  split
  · exact .refl s
  · next l hl =>
    have hkeep : Fewer s (Machine.setLive b { l with pendingRev := none } s) :=
      .setLive b fun id h => ⟨l, hl, h⟩
    split
    · exact .refl s
    · dsimp only
      split
      · exact (Fewer.removeOffer b _).trans (.retire _ _ _ _)
      · split
        · exact hkeep
        · exact ((Fewer.returnToOwner b _ _).notify _ _).notify _ _
      · split
        · exact .retire _ _ _ _
        · split
          · exact (Fewer.returnToOwner b _ _).notify _ _
          · split
            · exact (Fewer.leaveShare b _ _).notify _ _
            · exact hkeep

theorem Fewer.settleRevocation (b : BufNo) : Fewer s (settleRevocation b s) := by
  unfold Machine.settleRevocation
  split
  · exact .refl s
  · split
    · exact .completeRevocation b
    · exact .refl s

theorem Fewer.unmark (b : BufNo) (p : Port) : Fewer s (unmark b p s) := by
  unfold Machine.unmark
  split
  · exact .refl s
  · next l hl => exact .setLive b fun id h => ⟨l, hl, h⟩

theorem Fewer.endCopyNow (b : BufNo) (p : Port) : Fewer s (endCopyNow b s p) := by
  unfold Machine.endCopyNow
  split
  · exact .unmark b p
  · next src dst n _ =>
    have h : Fewer s (s |> dropCopy p |> complete p .aborted [byteOf n] |> Machine.unmark src p
        |> Machine.unmark dst p) :=
      ((Fewer.of_eq (s := s) (t := s |> dropCopy p |> complete p .aborted [byteOf n])
        (fun _ => rfl) (fun _ => rfl)).trans (.unmark src p)).trans (.unmark dst p)
    dsimp only
    generalize (if src = b then dst else src) = other
    split
    · exact h
    · exact h.trans (.settleRevocation _)

theorem Fewer.endCopiesNow (b : BufNo) (l : Live) : Fewer s (endCopiesNow b l s) := by
  unfold Machine.endCopiesNow
  induction portsIn l.marks generalizing s with
  | nil => exact .refl s
  | cons p ps ih => exact (Fewer.endCopyNow b p).trans ih

/-- After the removal of its offer a record is not OFFERED under an offer in use. -/
theorem removeOffer_leaves {b : BufNo} {l l' : Live} {id : OfferId} (hlive : liveAt s b = some l)
    (hlive' : liveAt (removeOffer b l s) b = some l') (hst : l'.st = .offered id) :
    offerAt (removeOffer b l s) id = none := by
  obtain ⟨l₁, hl₁, hst₁⟩ := (Fewer.removeOffer b l).records b l' id hlive' hst
  obtain rfl : l₁ = l := Option.some.inj (hl₁.symm.trans hlive)
  have hid : offerRefOf l₁ = some id := by simp [offerRefOf, hst₁]
  unfold removeOffer
  simp only [hid]
  split
  · next h => exact h
  · next o _ =>
    rw [offerAt_notify]
    obtain h | ⟨_, -, -, h⟩ := endOffer_cases id o s <;> rw [h] <;> simp

theorem Acts.endCopyNow (hs : Acts s₀ begins s t) (b : BufNo) (p : Port) : Acts s₀ begins s (endCopyNow b t p) := by
  unfold Machine.endCopyNow
  split
  · exact hs.unmark b p
  · next src dst n _ =>
    dsimp only
    generalize (if src = b then dst else src) = other
    split
    · exact (((hs.dropCopy p).complete _ _ _).unmark _ p).unmark _ p
    · exact ((((hs.dropCopy p).complete _ _ _).unmark _ p).unmark _ p).settleRevocation _

theorem Acts.forceFreeNow (hs : Acts s₀ begins s t) {b : BufNo} {l : Live} (hlive : liveAt t b = some l) :
    Acts s₀ begins s (forceFreeNow b l t) := by
  have hcopies : Acts s₀ begins s (t |> Machine.removeOffer b l |> endCopiesNow b l) :=
    Acts.foldl _ (fun p h => h.endCopyNow b p) _ (hs.removeOffer b l)
  unfold Machine.forceFreeNow
  dsimp only
  split
  · exact hcopies
  · next l' hl' =>
    refine hcopies.retire _ _ (fun _ => hl') ⟨rfl, rfl, rfl, rfl⟩ fun _ hoffer _ id hst => ?_
    obtain ⟨l₁, hl₁, hst₁⟩ := (Fewer.endCopiesNow b l).records b l' id hl' hst
    have hnone := (Fewer.endCopiesNow b l).offers id (removeOffer_leaves hlive hl₁ hst₁)
    obtain ⟨o, ho, -⟩ := hoffer.2.2 b l' id hl' hst
    rw [hnone] at ho
    cases ho

theorem acts_forceFreeAnswer {ps data : List Byte}
    (h : some (forceFreeAnswer ps s) = some (.ok (u, data))) : Acts s₀ begins s u := by
  unfold forceFreeAnswer at h
  split at h
  · cases h
  · split at h
    · cases h
    · next b _ l hl =>
      dsimp only at h
      split at h <;> cases h
      · exact (Acts.refl s₀ s).awaitRetirement (fun _ => hl) fun q hq => by cases hq
      · exact (Acts.refl s₀ s).forceFreeNow hl

theorem acts_forceDetachAnswer {ps data : List Byte}
    (h : some (forceDetachAnswer ps s) = some (.ok (u, data))) : Acts s₀ True s u := by
  unfold forceDetachAnswer at h
  split at h <;> cases h
  exact (Acts.refl s₀ s).teardownCause _ _ (.inl trivial)

theorem acts_clearAllAnswer {data : List Byte} (hgrant : s₀.tcGrant = some .maintenance)
    (h : some (clearAllAnswer s) = some (.ok (u, data))) : Acts s₀ begins s u := by
  unfold clearAllAnswer at h
  split at h <;> cases h
  exact (Act.clearAll s hgrant).acts

theorem read_readBufferAnswer {ps : List Byte} (u : State) (data : List Byte)
    (h : readBufferAnswer ps s = .ok (u, data)) : u = s := by
  unfold readBufferAnswer at h
  split at h <;> cases h
  rfl

theorem read_readPageEntryAnswer {ps : List Byte} (u : State) (data : List Byte)
    (h : readPageEntryAnswer ps s = .ok (u, data)) : u = s := by
  unfold readPageEntryAnswer at h
  split at h <;> cases h
  rfl

theorem read_readOfferAnswer {ps : List Byte} (u : State) (data : List Byte)
    (h : readOfferAnswer ps s = .ok (u, data)) : u = s := by
  unfold readOfferAnswer at h
  split at h <;> cases h
  rfl

theorem read_readDirAnswer {ps : List Byte} (u : State) (data : List Byte)
    (h : readDirAnswer ps s = .ok (u, data)) : u = s := by
  unfold readDirAnswer at h
  dsimp only at h
  split at h <;> cases h
  rfl

theorem read_readPortAnswer {ps : List Byte} (u : State) (data : List Byte)
    (h : readPortAnswer ps s = .ok (u, data)) : u = s := by
  unfold readPortAnswer at h
  split at h <;> cases h
  rfl

/-! ### Every command -/

theorem endsAs_fromAttached {c : Option Command} {body : State → Answer}
    (h : ∀ begins u t area, admitted u p = true → (OfferLaw s → OfferLaw u) →
      body u = .ok (t, area) → Acts s begins u t)
    (ht : portHandling p c s (fromAttached p body) = .next t) : EndsAs s t :=
  endsAs_portHandling (fun begins u hlaw _ =>
    .fromAttached fun hadm t area hok => h begins u t area hadm hlaw hok) ht

theorem endsAs_offerExpiry {id : Fin 16} (ht : exec (.offerExpiry id) s = .next t) : EndsAs s t := by
  change execOfferExpiry id s = .next t at ht
  unfold execOfferExpiry at ht
  split at ht
  · next hcond =>
    obtain ⟨hgrant, -⟩ := Bool.and_eq_true_iff.1 hcond
    split at ht
    · exact endsAs_next ht
    · next o ho =>
      refine endsAs_done ((acts_takeTicks hgrant).trans (acts_expireOffer fun _ => ?_)) ht
      obtain ⟨-, -, -, h⟩ | ⟨-, -, h⟩ := takeTicks_cases s <;> rw [h] <;> exact ho
  · exact endsAs_next ht

theorem endsAs_recallExpiry {b : Fin 1024} (ht : exec (.recallExpiry b) s = .next t) :
    EndsAs s t := by
  change execRecallExpiry b s = .next t at ht
  unfold execRecallExpiry at ht
  split at ht
  · next hcond =>
    obtain ⟨hgrant, -⟩ := Bool.and_eq_true_iff.1 (Bool.and_eq_true_iff.1 hcond).1
    split at ht
    · exact endsAs_next ht
    · next l hl =>
      split at ht
      · exact endsAs_next ht
      · next q hq =>
        refine endsAs_done ((acts_takeTicks hgrant).trans (acts_expireRecall ?_ hq)) ht
        obtain ⟨-, -, -, h⟩ | ⟨-, -, h⟩ := takeTicks_cases s <;> rw [h] <;> exact hl
  · exact endsAs_next ht

theorem endsAs_prstAssertion (ht : exec (.prstAssertion p) s = .next t) : EndsAs s t := by
  change execPrstAssertion p s = .next t at ht
  unfold execPrstAssertion at ht
  split at ht
  · next hrst => cases ht; exact .inReset _ (acts_setPrst true) hrst
  · exact endsAs_done acts_assertPrst ht

theorem endsAs_prstDeassertion (ht : exec (.prstDeassertion p) s = .next t) : EndsAs s t := by
  change execPrstDeassertion p s = .next t at ht
  unfold execPrstDeassertion at ht
  split at ht
  · next hrst => cases ht; exact .inReset _ (acts_setPrst false) hrst
  · exact endsAs_done (acts_setPrst false) ht

theorem endsAs_deviceReset (ht : exec .deviceReset s = .next t) : EndsAs s t := by
  change execDeviceReset s = .next t at ht
  unfold execDeviceReset at ht
  split at ht
  · exact endsAs_next ht
  · cases ht; exact .inReset _ (Act.reset s trivial).acts rfl

theorem endsAs_rstRelease (ht : exec .rstRelease s = .next t) : EndsAs s t := by
  change execRstRelease s = .next t at ht
  unfold execRstRelease at ht
  split at ht
  · next hrst => exact endsAs_done (acts_releaseRst hrst) ht
  · exact endsAs_next ht

theorem endsAs_windowAccess {o : Host.Outcome State Fault Refusal} (h : o = .next t → EndsAs s t)
    (ht : (if s.rst then Host.Outcome.next s else o) = .next t) : EndsAs s t := by
  split at ht
  · exact endsAs_next ht
  · exact h ht

theorem underway_handleTicks (s : State) : (handleTicks s).underway = none :=
  underway_of_acts (s₀ := s) (s := { takeTicks s with underway := none })
    (Acts.foldl _ (fun b h => h.tickRecall _ b) _
      (Acts.foldl _ (fun id h => h.tickOffer _ id) _ (.refl _ _)))

theorem endsAs_tickHandling (ht : exec .tickHandling s = .next t) : EndsAs s t := by
  obtain ⟨hgrant, rfl⟩ | ⟨-, rfl⟩ := (handling_next .tick s handleTicks t).1 ht
  · exact .handled .tick _ hgrant (acts_handleTicks hgrant) (underway_handleTicks s)
  · exact .same

theorem endsAs_jobEndReport (ht : exec .jobEndReport s = .next t) : EndsAs s t := by
  obtain ⟨hgrant, rfl⟩ | ⟨-, rfl⟩ := (handling_next .jobEnd s takeReport t).1 ht
  · exact .handled .jobEnd _ hgrant acts_takeReport trivial
  · exact .same

/-- Every command is a chain of actions, after which the arbiter may grant. -/
theorem exec_endsAs (c : Instr) (ht : exec c s = .next t) : EndsAs s t := by
  cases c with
  | w0DirectViewAccess p k acc => exact endsAs_windowAccess endsAs_directViewAccess ht
  | cursorDataPortAccess p w acc => exact endsAs_windowAccess endsAs_dataPortAccess ht
  | hostLocationWrite p off v => exact endsAs_windowAccess endsAs_locationWrite ht
  | cursorWrite p w v => exact endsAs_hostStep acts_writeCursor ht
  | pageIndexWrite p w v => exact endsAs_hostStep acts_writePageIndex ht
  | unmap p w => exact endsAs_hostStep acts_unmapWindow ht
  | swap p => exact endsAs_hostStep acts_swapWindows ht
  | clearOvr p => exact endsAs_hostStep acts_clearOvrWindows ht
  | postCommand p code => exact endsAs_hostStep acts_postAt ht
  | acknowledge p v => exact endsAs_hostStep acts_acknowledgeAt ht
  | cancel p v => exact endsAs_hostStep acts_cancelAt ht
  | pop p v => exact endsAs_hostStep acts_popAt ht
  | attentionEnablesWrite p v => exact endsAs_hostStep acts_enablesAt ht
  | clearFaultRecord p v => exact endsAs_hostStep acts_clearRecordAt ht
  | bothStrobesCycle p =>
    exact endsAs_hostStep ((Acts.refl s s).updPort fun hp => calm_dataOut hp none) ht
  | prstAssertion p => exact endsAs_prstAssertion ht
  | prstDeassertion p => exact endsAs_prstDeassertion ht
  | deviceReset => exact endsAs_deviceReset ht
  | rstRelease => exact endsAs_rstRelease ht
  | badCommand p => exact endsAs_portHandling (fun _ u _ _ => (Acts.refl s u).complete _ _ _) ht
  | attach p =>
    exact endsAs_portHandling (fun _ _ _ _ => .completeAnswer fun _ _ h => acts_attachAnswer h) ht
  | detach p => exact endsAs_portHandling (fun _ _ _ h => acts_detachFrom h) ht
  | clearFault p => exact endsAs_fromAttached (fun _ _ _ _ _ _ h => acts_clearFaultAnswer h) ht
  | clearLost p => exact endsAs_fromAttached (fun _ _ _ _ _ _ h => acts_clearLostAnswer h) ht
  | alloc p => exact endsAs_fromAttached (fun _ _ _ _ _ _ h => acts_allocAnswer h) ht
  | extend p => exact endsAs_fromAttached (fun _ _ _ _ _ _ h => acts_extendAnswer h) ht
  | trim p => exact endsAs_fromAttached (fun _ _ _ _ _ _ h => acts_trimAnswer h) ht
  | free p => exact endsAs_fromAttached (fun _ _ _ _ _ _ h => acts_freeAnswer h) ht
  | info p => exact endsAs_fromAttached (fun _ _ _ _ _ _ h => acts_infoAnswer h) ht
  | map p => exact endsAs_fromAttached (fun _ _ _ _ _ _ h => acts_mapAnswer h) ht
  | share p => exact endsAs_fromAttached (fun _ _ _ _ _ _ h => acts_shareAnswer h) ht
  | unshare p => exact endsAs_fromAttached (fun _ _ _ _ _ _ h => acts_unshareAnswer h) ht
  | leave p => exact endsAs_fromAttached (fun _ _ _ _ _ _ h => acts_leaveAnswer h) ht
  | publish p => exact endsAs_fromAttached (fun _ _ _ _ _ _ h => acts_publishAnswer h) ht
  | unpublish p => exact endsAs_fromAttached (fun _ _ _ _ _ _ h => acts_unpublishAnswer h) ht
  | lookup p => exact endsAs_fromAttached (fun _ _ _ _ _ _ h => acts_lookupAnswer h) ht
  | nextName p => exact endsAs_fromAttached (fun _ _ _ _ _ _ h => acts_nextAnswer h) ht
  | subscribe p => exact endsAs_fromAttached (fun _ _ _ _ _ _ h => acts_subscribeAnswer h) ht
  | lend p => exact endsAs_fromAttached (fun _ _ _ _ hadm _ h => acts_offerAnswer hadm h) ht
  | give p => exact endsAs_fromAttached (fun _ _ _ _ hadm _ h => acts_offerAnswer hadm h) ht
  | accept p => exact endsAs_fromAttached (fun _ _ _ _ _ hlaw h => acts_acceptAnswer hlaw h) ht
  | decline p => exact endsAs_fromAttached (fun _ _ _ _ _ _ h => acts_declineAnswer h) ht
  | withdraw p => exact endsAs_fromAttached (fun _ _ _ _ _ _ h => acts_withdrawAnswer h) ht
  | returnBuffer p => exact endsAs_fromAttached (fun _ _ _ _ _ _ h => acts_returnAnswer h) ht
  | copy p => exact endsAs_portHandling (fun _ _ _ _ => acts_copyFrom) ht
  | deadlineTick => exact endsAs_outsideReset acts_produceTick ht
  | tickHandling => exact endsAs_tickHandling ht
  | offerExpiry id => exact endsAs_offerExpiry ht
  | recallExpiry b => exact endsAs_recallExpiry ht
  | walkStep => exact endsAs_walkStep ht
  | jobEndReport => exact endsAs_jobEndReport ht
  | scrubStepStart => exact endsAs_scrubStepStart ht
  | scrubStepEnd =>
    exact endsAs_outsideReset_stuck (fun _ h => (Acts.refl s s).scrubStepEnd id h) ht
  | copyPageStart => exact endsAs_copyPageStart ht
  | copyPageReadEnd =>
    exact endsAs_outsideReset_stuck (fun _ h => ((Acts.refl s s).copyReadEnd id h).1) ht
  | copyPageWriteEnd =>
    exact endsAs_outsideReset_stuck (fun _ h => (Acts.refl s s).copyWriteEnd id h) ht
  | requestFrame bytes => exact endsAs_outsideReset acts_requestFrameStep ht
  | fetchFrame n => exact endsAs_outsideReset acts_fetchFrameStep ht
  | unknownFrame first n => exact endsAs_outsideReset ((Acts.refl s s).shiftStatus n) ht
  | hold => exact endsAs_maintHandling (fun hg _ _ _ h => acts_holdAnswer hg h) ht
  | release => exact endsAs_maintHandling (fun hg _ _ _ h => acts_releaseAnswer hg h) ht
  | readBuffer => exact endsAs_maintHandling (fun _ _ _ _ h => acts_inspection read_readBufferAnswer h) ht
  | readPageEntry =>
    exact endsAs_maintHandling (fun _ _ _ _ h => acts_inspection read_readPageEntryAnswer h) ht
  | readOffer => exact endsAs_maintHandling (fun _ _ _ _ h => acts_inspection read_readOfferAnswer h) ht
  | readDir => exact endsAs_maintHandling (fun _ _ _ _ h => acts_inspection read_readDirAnswer h) ht
  | readPort => exact endsAs_maintHandling (fun _ _ _ _ h => acts_inspection read_readPortAnswer h) ht
  | readPool =>
    exact endsAs_maintService (fun _ _ _ h => acts_inspection (fun _ _ h => by cases h; rfl) h) ht
  | readMem => exact endsAs_maintService (fun _ _ _ h => acts_readMemAnswer h) ht
  | writeMem => exact endsAs_maintHandling (fun _ _ _ _ h => acts_writeMemAnswer h) ht
  | forceFree => exact endsAs_maintHandling (fun _ _ _ _ h => acts_forceFreeAnswer h) ht
  | forceDetach => exact endsAs_maintHandling (fun _ _ _ _ h => acts_forceDetachAnswer h) ht
  | clearAll => exact endsAs_maintHandling (fun hg _ _ _ h => acts_clearAllAnswer hg h) ht
  -- RECALL alone is left: its constructor's name is a Lean keyword.
  | _ => exact endsAs_fromAttached (fun _ _ _ _ _ _ h => acts_recallAnswer h) ht

/-- Every step is a chain of actions from its state or from its state with the front of the queue
taken, after which the arbiter may grant. -/
theorem step_endsAs (ht : step s = .next t) : ∃ rest, EndsAs { s with pending := rest } t := by
  cases hq : s.pending with
  | nil =>
    rw [step_nil s hq] at ht
    exact ⟨s.pending, endsAs_outsideReset acts_clkPeriod ht⟩
  | cons c rest =>
    rw [step_cons s c rest hq] at ht
    exact ⟨rest, exec_endsAs c ht⟩

/-- The end of a step keeps a law that does not speak of the arbiter's fields, if the chain does. -/
theorem EndsAs.keep {L : State → Prop}
    (hframe : ∀ s last grant, L s → L { s with tcLast := last, tcGrant := grant })
    (hact : ∀ u v, Act s True u v → L u → L v) (hs : L s) (h : EndsAs s t) : L t := by
  cases h with
  | same => exact hs
  | inReset _ h => exact h.keep hact hs
  | done u h =>
    rw [arbitrate_eq]
    exact hframe u u.tcLast _ (h.keep hact hs)
  | handled r u _ h =>
    rw [endHandling_eq]
    exact hframe u _ _ (h.keep hact hs)

/-- A law that does not speak of the queue and of the arbiter, and that every action of a step from a
state under another law keeps, every step from such a state keeps. -/
theorem step_keeps_under {P L : State → Prop}
    (hbegin : ∀ s pending, P s → P { s with pending := pending })
    (hframe : ∀ s last grant pending, L s →
      L { s with tcLast := last, tcGrant := grant, pending := pending })
    (hact : ∀ s₀ u v, P s₀ → Act s₀ True u v → L u → L v) (hp : P s) (hs : L s)
    (ht : step s = .next t) : L t := by
  obtain ⟨rest, hends⟩ := step_endsAs ht
  exact hends.keep (fun u last grant => hframe u last grant u.pending)
    (fun u v => hact _ u v (hbegin s rest hp)) (hframe s s.tcLast s.tcGrant rest hs)

/-- A law that does not speak of the queue and of the arbiter, and that every action of a step keeps,
every step keeps. -/
theorem step_keeps {L : State → Prop}
    (hframe : ∀ s last grant pending, L s →
      L { s with tcLast := last, tcGrant := grant, pending := pending })
    (hact : ∀ s₀ u v, L s₀ → Act s₀ True u v → L u → L v) (hs : L s) (ht : step s = .next t) : L t :=
  step_keeps_under (fun s pending => hframe s s.tcLast s.tcGrant pending) hframe hact hs hs ht

end

end Sys2Proof.Proofs

/-! What every action keeps of the Host Ports, the ranges, the Page Memory and the walk list; and the
laws of them that every step keeps. -/

namespace Sys2Proof.Proofs

open Sys2Proof Sys2Proof.Machine Sys2Proof.Safety

section
variable {s₀ s t u : State} {begins : Prop} {p : Port}

/-! ### Still changes of a Host Port -/

theorem still_voidAt (q : Port) (h : Handle) (p : Port) :
    Still (portAt s p) (portAt (voidAt q h s) p) := by
  rw [portAt_voidAt]
  split
  · next hp => subst hp; exact (calm_onSlots_void h _).toStill
  · exact .refl _

theorem calm_retire (b : BufNo) (l : Live) (cause : Cause) (caller : Option Port) (p : Port) :
    Calm (portAt s p) (portAt (retire b l cause caller s) p) := by
  simp only [retire, revokeAll, portAt_setRec, portAt_lowerCounts, portAt_scrubPages,
    portAt_unpublishAll, portAt_updPorts]
  split
  · exact (calm_onSlots_void _ _).trans (calm_takeAppend _ _)
  · exact calm_onSlots_void _ _

theorem still_takeInstall (w : Window) (m : Mapping) (hp : HostPort) :
    Still hp (takeInstall w m hp) := by
  unfold takeInstall
  split
  · next hatt => cases w <;> exact ⟨rfl, id, fun h => absurd hatt h⟩
  · exact .refl hp

/-- A change of the three slots that keeps an EMPTY slot EMPTY. -/
theorem still_onSlots {f : WindowSlot → WindowSlot} (hf : f .empty = .empty) (hp : HostPort) :
    Still hp (onSlots f hp) := by
  refine ⟨rfl, id, fun _ hbare => ?_⟩
  obtain ⟨h0, h1, hs, hrest⟩ := hbare
  exact ⟨by simp [onSlots, h0, hf], by simp [onSlots, h1, hf], by simp [onSlots, hs, hf], hrest⟩

theorem still_trimPort (caller : Port) (h : Handle) (n : Nat) (q : Port) (hp : HostPort) :
    Still hp (trimPort caller h n q hp) := by
  unfold trimPort
  dsimp only
  split
  · exact (still_onSlots rfl hp).trans (calm_takeAppend _ _).toStill
  · exact still_onSlots rfl hp

theorem bare_startStepPort (c : TeardownCause) (hp : HostPort) : Bare (startStepPort c hp) :=
  ⟨rfl, rfl, rfl, rfl, rfl, rfl⟩

theorem ports_endOffer (id : OfferId) (o : Offer) (s : State) : (endOffer id o s).ports = s.ports := by
  obtain h | ⟨_, -, -, h⟩ := endOffer_cases id o s <;> rw [h] <;> rfl

theorem walkList_endOffer (id : OfferId) (o : Offer) (s : State) :
    (endOffer id o s).walkList = s.walkList := by
  obtain h | ⟨_, -, -, h⟩ := endOffer_cases id o s <;> rw [h] <;> rfl

theorem ports_serveMover (h : serveMover s = some t) : t.ports = s.ports := by
  obtain rfl | ⟨_, -, rfl⟩ | ⟨_, _, -, -, rfl⟩ | ⟨_, _, _, -, -, rfl⟩ := serveMover_cases h <;> rfl

theorem walkList_serveMover (h : serveMover s = some t) : t.walkList = s.walkList := by
  obtain rfl | ⟨_, -, rfl⟩ | ⟨_, _, -, -, rfl⟩ | ⟨_, _, _, -, -, rfl⟩ := serveMover_cases h <;> rfl

theorem still_of_ports_eq (h : t.ports = s.ports) (p : Port) : Still (portAt s p) (portAt t p) := by
  rw [portAt, portAt, h]; exact .refl _

theorem startScrub_eq (s : State) :
    startScrub s = { s with page := (startScrub s).page, nextKind := (startScrub s).nextKind } := by
  unfold startScrub
  split <;> rfl

/-- What an action does to the Host Ports and the walk list (R171, R180). -/
theorem Act.walkCases (h : Act s₀ begins s t) :
    (t.walkList = s.walkList ∧ ∀ p, Still (portAt s p) (portAt t p)) ∨
    (∃ p, (portAt s p).state = .detached ∧ t = updPort p takeAttach s) ∨
    (∃ p c u, attached s p = true ∧
      t = addWalk p (updPort p (startStepPort c) { s with underway := u })) ∨
    (∃ p, s.walkList.head? = some p ∧ t = Machine.endWalk p s) ∨
    (t.walkList = [] ∧ ∀ p, (portAt t p).state = .detached ∧ Bare (portAt t p)) := by
  cases h with
  | attach p h => exact .inr (.inl ⟨p, h, rfl⟩)
  | start p c h => exact .inr (.inr (.inl ⟨p, c, s.underway, h, rfl⟩))
  | startTaken p c slot h => exact .inr (.inr (.inl ⟨p, c, _, h, rfl⟩))
  | endWalk p _ _ h => exact .inr (.inr (.inr (.inl ⟨p, h, rfl⟩)))
  | clearAll | reset =>
    refine .inr (.inr (.inr (.inr ⟨rfl, fun p => ?_⟩)))
    cases p <;> exact ⟨rfl, rfl, rfl, rfl, rfl, rfl, rfl⟩
  | calm ports h => exact .inl ⟨rfl, fun p => (h p).toStill⟩
  | serve _ h => exact .inl ⟨walkList_serveMover h, still_of_ports_eq (ports_serveMover h)⟩
  | endOffer => exact .inl ⟨walkList_endOffer _ _ _, still_of_ports_eq (ports_endOffer _ _ _)⟩
  | startScrub => rw [startScrub_eq]; exact .inl ⟨rfl, fun p => .refl _⟩
  | extend =>
    refine .inl ⟨rfl, fun p => ?_⟩
    rw [portAt_updPorts]
    exact still_onSlots rfl _
  | trim =>
    refine .inl ⟨rfl, fun p => ?_⟩
    rw [portAt_updPorts]
    exact still_trimPort _ _ _ _ _
  | retire => exact .inl ⟨rfl, fun p => (calm_retire _ _ _ _ p).toStill⟩
  | install q w m =>
    refine .inl ⟨rfl, fun p => ?_⟩
    rw [portAt_updPort]
    split
    · next hq => subst hq; exact still_takeInstall w m _
    · exact .refl _
  | handOver => exact .inl ⟨rfl, fun p => still_voidAt (s := setLive _ _ s) _ _ p⟩
  | acceptLend => exact .inl ⟨rfl, fun p => still_voidAt (s := setLive _ _ (setOffer _ none s)) _ _ p⟩
  | acceptGive =>
    exact .inl ⟨rfl, fun p => still_voidAt (s := unpublishAll _ (raiseCounts _ _ _ (lowerCounts _ _ _
      (setLive _ _ (setOffer _ none s))))) _ _ p⟩
  | _ => exact .inl ⟨rfl, fun p => .refl _⟩

/-! ### Host Ports and walk list -/

theorem walkList_addWalk (p : Port) (s : State) : (addWalk p s).walkList = s.walkList ++ [p] := by
  unfold addWalk
  split
  · next h => rw [h]; rfl
  · rfl

theorem portAt_addWalk (p q : Port) (s : State) : portAt (addWalk p s) q = portAt s q := by
  unfold addWalk
  split <;> rfl

theorem portAt_underway (w : Option Underway) (p : Port) :
    portAt { s with underway := w } p = portAt s p := rfl

theorem queueLaw_act (h : Act s₀ begins s t) (hs : QueueLaw s) : QueueLaw t := by
  obtain ⟨-, hstill⟩ | ⟨q, -, rfl⟩ | ⟨q, c, w, -, rfl⟩ | ⟨q, -, rfl⟩ | ⟨-, hbare⟩ := h.walkCases
  · exact fun p => (hstill p).queue (hs p)
  · intro p
    rw [portAt_updPort]
    split
    · exact hs q
    · exact hs p
  · intro p
    rw [portAt_addWalk, portAt_updPort, portAt_underway]
    split
    · exact Nat.zero_le _
    · exact hs p
  · intro p
    rw [Machine.endWalk, portAt_updPort]
    split
    · exact hs q
    · exact hs p
  · intro p
    obtain ⟨-, -, -, -, hqueue, -⟩ := hbare p
    rw [hqueue]
    exact Nat.zero_le _

theorem walkLaw_act (h : Act s₀ begins s t) (hs : WalkLaw s) : WalkLaw t := by
  obtain ⟨hnodup, hmem⟩ := hs
  obtain ⟨hlist, hstill⟩ | ⟨q, hq, rfl⟩ | ⟨q, c, w, hq, rfl⟩ | ⟨q, hq, rfl⟩ | ⟨hlist, hbare⟩ := h.walkCases
  · rw [WalkLaw, hlist]
    exact ⟨hnodup, fun p => by rw [(hstill p).state]; exact hmem p⟩
  · refine ⟨hnodup, fun p => ?_⟩
    rw [portAt_updPort]
    split
    · next hp =>
      subst hp
      exact (hmem p).trans (by simp [hq, takeAttach])
    · exact hmem p
  · have hatt : (portAt s q).state = .attached := by simpa [attached] using hq
    have hnew : q ∉ s.walkList := fun h => by rw [(hmem q).1 h] at hatt; cases hatt
    rw [WalkLaw, walkList_addWalk]
    refine ⟨List.nodup_append.2 ⟨hnodup, by simp, fun x hx y hy => ?_⟩, fun p => ?_⟩
    · obtain rfl := List.mem_singleton.1 hy
      rintro rfl; exact hnew hx
    · rw [portAt_addWalk, portAt_updPort, portAt_underway, updPort_walkList]
      split
      · next hp => simp [hp, startStepPort]
      · next hp =>
        rw [portAt_underway, List.mem_append, or_iff_left (fun h => hp (List.mem_singleton.1 h))]
        exact hmem p
  · obtain ⟨rest, hlist⟩ := List.head?_eq_some_iff.1 hq
    rw [hlist, List.nodup_cons] at hnodup
    refine ⟨by simpa [Machine.endWalk, hlist] using hnodup.2, fun p => ?_⟩
    simp only [Machine.endWalk, updPort_walkList, hlist, List.tail_cons, portAt_updPort]
    split
    · next hp => simp [hp, hnodup.1]
    · next hp =>
      have := hmem p
      rw [hlist, List.mem_cons, or_iff_right hp] at this
      exact this
  · rw [WalkLaw, hlist]
    exact ⟨List.nodup_nil, fun p => by simp [(hbare p).1]⟩

/-- A port that is not ATTACHED is bare (R44, R145, R152, R175): the law by its ports. -/
theorem detachedLaw_iff : DetachedLaw s ↔ ∀ p, (portAt s p).state ≠ .attached → Bare (portAt s p) :=
  Iff.rfl

theorem detachedLaw_act (h : Act s₀ begins s t) (hwalk : WalkLaw s) (hs : DetachedLaw s) :
    DetachedLaw t := by
  rw [detachedLaw_iff] at hs ⊢
  obtain ⟨-, hstill⟩ | ⟨q, -, rfl⟩ | ⟨q, c, w, -, rfl⟩ | ⟨q, hq, rfl⟩ | ⟨-, hbare⟩ := h.walkCases
  · intro p hp
    have hp' := (hstill p).state ▸ hp
    exact (hstill p).bare hp' (hs p hp')
  · intro p hp
    rw [portAt_updPort] at hp ⊢
    split at hp
    · simp [takeAttach] at hp
    · next hne => rw [if_neg hne]; exact hs p hp
  · intro p hp
    rw [portAt_addWalk, portAt_updPort, portAt_underway] at hp ⊢
    split at hp
    · next he => rw [if_pos he]; exact bare_startStepPort c _
    · next hne => rw [if_neg hne]; exact hs p hp
  · intro p hp
    rw [Machine.endWalk, portAt_updPort] at hp ⊢
    split at hp
    · next he =>
      rw [if_pos he]
      have hstate := (hwalk.2 q).1 (List.mem_of_mem_head? hq)
      exact hs q (by simp [hstate])
    · next hne => rw [if_neg hne]; exact hs p hp
  · exact fun p _ => (hbare p).2

/-! ### Ranges -/

/-- The law of ranges speaks of the configuration and the Deadline Unit alone. -/
theorem rangeLaw_congr (h : RangeLaw s) (hcfg : t.cfg = s.cfg) (hpending : t.pendingTicks = s.pendingTicks)
    (hunderway : t.underway = s.underway) (hprescaler : t.prescaler = s.prescaler)
    (hperiod : t.period = s.period) : RangeLaw t := by
  simpa only [RangeLaw, ticksTaken, hcfg, hpending, hunderway, hprescaler, hperiod] using h

theorem rangeLaw_reset : RangeLaw State.reset := by
  refine ⟨fun p => ?_, by decide, by decide, by decide, by decide, fun k hk => (nomatch hk), by decide,
    by decide, by decide⟩
  cases p <;> decide

theorem rangeLaw_clearAll (h : RangeLaw s) : RangeLaw (clearAllState s) := by
  obtain ⟨hquota, hoffer, hrecall, hdiv, -, htaken, -⟩ := h
  have hperiod := tickPeriod_bounds hdiv
  exact ⟨hquota, hoffer, hrecall, hdiv, Nat.zero_le _, htaken, by
    change 0 < tickPeriod s.cfg.tickDiv; omega, hperiod.1, hperiod.2⟩

theorem rangeLaw_act (h : Act s₀ begins s t) (hs : RangeLaw s) : RangeLaw t := by
  cases h with
  | clock _ _ _ _ _ hrange => exact hrange hs
  | config _ hrange => exact hrange hs
  | startTaken =>
    rw [addWalk_eq]
    obtain ⟨hquota, hoffer, hrecall, hdiv, hpending, -, hrest⟩ := hs
    exact ⟨hquota, hoffer, hrecall, hdiv, hpending, fun k hk => (nomatch hk), hrest⟩
  | serve _ h =>
    obtain rfl | ⟨_, -, rfl⟩ | ⟨_, _, -, -, rfl⟩ | ⟨_, _, _, -, -, rfl⟩ := serveMover_cases h <;>
      exact rangeLaw_congr hs rfl rfl rfl rfl rfl
  | startScrub => rw [startScrub_eq]; exact rangeLaw_congr hs rfl rfl rfl rfl rfl
  | start p c => rw [addWalk_eq]; exact rangeLaw_congr hs rfl rfl rfl rfl rfl
  | endOffer id o =>
    obtain h | ⟨_, -, -, h⟩ := endOffer_cases id o s <;> rw [h] <;> exact rangeLaw_congr hs rfl rfl rfl rfl rfl
  | clearAll => exact rangeLaw_clearAll hs
  | reset => exact rangeLaw_congr rangeLaw_reset rfl rfl rfl rfl rfl
  | _ => exact rangeLaw_congr hs rfl rfl rfl rfl rfl

end

/-- Settles O50, by the actions of a step. -/
theorem queuesAndRangesKept : Obligations.QueuesAndRangesKept := by
  unfold Obligations.QueuesAndRangesKept
  exact ⟨fun _ _ hs => step_keeps (fun _ _ _ _ h => h) (fun _ _ _ _ h => queueLaw_act h) hs,
    fun _ _ hs => step_keeps (fun _ _ _ _ h => h) (fun _ _ _ _ h => rangeLaw_act h) hs⟩

/-- Settles O54, by the actions of a step. -/
theorem detachedPortsKept : Obligations.DetachedPortsKept := by
  unfold Obligations.DetachedPortsKept
  intro s t hwalk hs ht
  exact (step_keeps (L := fun u => WalkLaw u ∧ DetachedLaw u) (fun _ _ _ _ h => h)
    (fun _ _ _ _ h hu => ⟨walkLaw_act h hu.1, detachedLaw_act h hu.1 hu.2⟩) ⟨hwalk, hs⟩ ht).2

end Sys2Proof.Proofs

/-! The Page Memory: its canonical form and its cleared pages, which every step keeps. -/

namespace Sys2Proof.Proofs

open Sys2Proof Sys2Proof.Machine Sys2Proof.Safety

section
variable {s₀ s t u : State} {begins : Prop}

/-! ### The canonical form -/

/-- The law of the memory's form speaks of the memory and the page in progress alone. -/
theorem memoryLaw_congr (h : MemoryLaw s) (hmem : t.mem = s.mem) (hpage : t.page = s.page) :
    MemoryLaw t := by
  simpa only [MemoryLaw, hmem, hpage] using h

theorem memoryLaw_of_page (hmem : Memory.wf t.mem = true)
    (hread : ∀ p bytes, t.page ≠ some (.copyRead p (some bytes)))
    (hwrite : ∀ p bytes v, t.page ≠ some (.copyWrite p bytes v)) : MemoryLaw t :=
  ⟨hmem, fun p bytes h => absurd h (hread p bytes), fun p bytes v h => absurd h (hwrite p bytes v)⟩

/-- A whole page stored keeps the form. -/
theorem wf_pageStored {m : Memory} (hm : Memory.wf m = true) (pg : PageNo) {bytes : List Byte}
    (hlen : bytes.length = 64) : Memory.wf (memWriteRun m (pageAddr pg 0) bytes) = true := by
  refine wf_memWriteRun bytes hm ?_
  have := pageAddr_lt pg (le_refl 64)
  simp only [pageAddr] at this ⊢
  omega

theorem wf_runStored {m : Memory} (hm : Memory.wf m = true) (pg : PageNo) {k : Nat}
    {bytes : List Byte} (hk : k + bytes.length ≤ 64) :
    Memory.wf (memWriteRun m (pageAddr pg k) bytes) = true := by
  refine wf_memWriteRun bytes hm ?_
  have := pageAddr_lt pg (le_refl 64)
  simp only [pageAddr] at this ⊢
  omega

theorem wf_runAbandoned {m : Memory} (hm : Memory.wf m = true) (stored : Nat → Bool) (pg : PageNo)
    {k : Nat} {bytes : List Byte} (hk : k + bytes.length ≤ 64) :
    Memory.wf (memAbandonRun stored m (pageAddr pg k) bytes) = true := by
  refine wf_memAbandonRun stored bytes hm ?_
  have := pageAddr_lt pg (le_refl 64)
  simp only [pageAddr] at this ⊢
  omega

theorem length_zeroPage : zeroPage.length = 64 := List.length_replicate

/-- What the Memory Arbiter serves (R31, R33), the bytes of a zero-fill under a name. -/
theorem serveMover_bytes (h : serveMover s = some t) :
    t = s ∨
    (∃ pg zeros, zeros = zeroPage ∧ s.page = some (.scrub pg false) ∧
      t = { s with mem := memWriteRun s.mem (pageAddr pg 0) zeros,
                   page := some (.scrub pg true), memLast := .mover }) ∨
    (∃ p pg, s.page = some (.copyRead p none) ∧ copySource s p = some pg ∧
      t = { s with page := some (.copyRead p (some (memReadRun s.mem (pageAddr pg 0) 64))),
                   memLast := .mover }) ∨
    (∃ p bytes pg, s.page = some (.copyWrite p bytes false) ∧ copyDest s p = some pg ∧
      t = { s with mem := memWriteRun s.mem (pageAddr pg 0) bytes,
                   page := some (.copyWrite p bytes true), memLast := .mover }) :=
  (serveMover_cases h).imp_right (.imp_left fun ⟨pg, h⟩ => ⟨pg, zeroPage, rfl, h⟩)

theorem memoryLaw_serveMover (hs : MemoryLaw s) (h : serveMover s = some t) : MemoryLaw t := by
  obtain ⟨hmem, -, hwrite⟩ := id hs
  obtain rfl | ⟨pg, zeros, hz, -, rfl⟩ | ⟨p, pg, -, -, rfl⟩ | ⟨p, bytes, pg, hpage, -, rfl⟩ :=
    serveMover_bytes h
  · exact hs
  · exact memoryLaw_of_page (wf_pageStored hmem pg (hz ▸ length_zeroPage)) (by simp) (by simp)
  · refine ⟨hmem, fun q bytes h => ?_, fun _ _ _ h => by simp at h⟩
    simp only [Option.some.injEq, PageWork.copyRead.injEq] at h
    rw [← h.2, length_memReadRun]
  · have hlen := hwrite p bytes _ hpage
    refine ⟨wf_pageStored hmem pg hlen, fun _ _ h => by simp at h, fun q bytes' v h => ?_⟩
    simp only [Option.some.injEq, PageWork.copyWrite.injEq] at h
    rw [← h.2.1, hlen]

theorem wf_abandonPageWork (hs : MemoryLaw s) : Memory.wf (abandonPageWork s) = true := by
  obtain ⟨hmem, -, hwrite⟩ := hs
  unfold abandonPageWork
  split
  · next pg _ => exact wf_runAbandoned hmem _ pg (by rw [length_zeroPage])
  · next p bytes hpage =>
    split
    · exact hmem
    · next pg _ => exact wf_runAbandoned hmem _ pg (by rw [hwrite p bytes _ hpage])
  · exact hmem

theorem wf_abandonWriteMem {m : Memory} (hm : Memory.wf m = true) :
    Memory.wf (abandonWriteMem s m) = true := by
  unfold abandonWriteMem
  split
  · split
    · split
      · exact hm
      · next pg offset count hparams =>
        split
        · obtain ⟨-, -, -, -, -, -, hend⟩ := memoryParams_ok hparams
          refine wf_runAbandoned hm _ pg ?_
          simp only [writeData, List.length_take]
          omega
        · exact hm
    · exact hm
  · exact hm

theorem memoryLaw_act (h : Act s₀ begins s t) (hs : MemoryLaw s) : MemoryLaw t := by
  obtain ⟨hmem, hread, hwrite⟩ := id hs
  cases h with
  | serve _ h => exact memoryLaw_serveMover hs h
  | hostStore pg k v hk =>
    refine ⟨wf_memWrite v hmem ?_, hread, hwrite⟩
    have := pageAddr_lt pg (le_refl 64)
    simp only [pageAddr] at this ⊢
    omega
  | maintStore pg k vs hk => exact ⟨wf_runStored hmem pg hk, hread, hwrite⟩
  | copyWork _ _ hbytes => exact hbytes hs
  | startScrub hpage =>
    unfold Machine.startScrub
    split
    · exact hs
    · exact memoryLaw_of_page hmem (by simp) (by simp)
  | endScrub => exact memoryLaw_of_page hmem (by simp [endScrub]) (by simp [endScrub])
  | clearAll => exact memoryLaw_of_page hmem (fun _ _ h => nomatch h) (fun _ _ _ h => nomatch h)
  | reset =>
    exact memoryLaw_of_page (wf_abandonWriteMem (wf_abandonPageWork hs)) (fun _ _ h => nomatch h)
      (fun _ _ _ h => nomatch h)
  | start | startTaken => rw [addWalk_eq]; exact memoryLaw_congr hs rfl rfl
  | endOffer id o =>
    obtain h | ⟨_, -, -, h⟩ := endOffer_cases id o s <;> rw [h] <;> exact memoryLaw_congr hs rfl rfl
  | _ => exact memoryLaw_congr hs rfl rfl

/-! ### Cleared pages -/

/-- A page that the law of cleared pages speaks of (R40). -/
def Clear (s : State) (pg : PageNo) : Prop := pg ∈ s.freeList ∨ s.page = some (.scrub pg true)

theorem clearedLaw_iff : ClearedLaw s ↔
    ∀ pg, Clear s pg → ∀ k, k < 64 → memRead s.mem (pg.val * 64 + k) = 0 := Iff.rfl

theorem clearedLaw_of_sub (hs : ClearedLaw s) (hmem : t.mem = s.mem)
    (hsub : ∀ pg, Clear t pg → Clear s pg) : ClearedLaw t := by
  rw [clearedLaw_iff] at hs ⊢
  rw [hmem]
  exact fun pg h => hs pg (hsub pg h)

/-- A run stored in a page that need not be clear. -/
theorem clearedLaw_of_store (hs : ClearedLaw s) {pg : PageNo} {k : Nat} {bytes : List Byte}
    (hk : k + bytes.length ≤ 64) (hmem : t.mem = memWriteRun s.mem (pageAddr pg k) bytes)
    (hsub : ∀ pg', Clear t pg' → Clear s pg' ∧ pg' ≠ pg) : ClearedLaw t := by
  rw [clearedLaw_iff] at hs ⊢
  intro pg' h i hi
  obtain ⟨hclear, hne⟩ := hsub pg' h
  have hne' : pg'.val ≠ pg.val := fun h => hne (Fin.ext h)
  rw [hmem, memRead_memWriteRun_outside]
  · exact hs pg' hclear i hi
  · simp only [pageAddr]
    omega

/-- A page after its zero-fill. -/
theorem memRead_zeroFilled (m : Memory) (pg : PageNo) {zeros : List Byte} (hz : zeros = zeroPage)
    {k : Nat} (hk : k < 64) : memRead (memWriteRun m (pageAddr pg 0) zeros) (pg.val * 64 + k) = 0 := by
  have hlen : zeros.length = 64 := hz ▸ length_zeroPage
  have h := memRead_memWriteRun_inside zeros m (pageAddr pg 0) k (by omega)
  rw [pageAddr, Nat.add_zero] at h ⊢
  rw [h, hz, zeroPage, List.getD_replicate _ hk]

theorem clearedLaw_serveMover (hs : ClearedLaw s) (h : serveMover s = some t)
    (hlen : ∀ p bytes v, s.page = some (.copyWrite p bytes v) → bytes.length = 64)
    (hsafe : ∀ p bytes pg, s.page = some (.copyWrite p bytes false) → copyDest s p = some pg →
      pg ∉ s.freeList) : ClearedLaw t := by
  obtain rfl | ⟨pg, zeros, hz, -, rfl⟩ | ⟨p, pg, -, -, rfl⟩ | ⟨p, bytes, pg, hpage, hdest, rfl⟩ :=
    serveMover_bytes h
  · exact hs
  · rw [clearedLaw_iff] at hs ⊢
    intro pg' hpg' k hk
    have hlen : zeros.length = 64 := hz ▸ length_zeroPage
    by_cases hne : pg' = pg
    · rw [hne]; exact memRead_zeroFilled s.mem pg hz hk
    · have hne' : pg'.val ≠ pg.val := fun h => hne (Fin.ext h)
      have hfree : pg' ∈ s.freeList := hpg'.resolve_right fun h => hne (by simpa using h.symm)
      dsimp only
      rw [memRead_memWriteRun_outside _ _ _ _ (by simp only [pageAddr]; omega)]
      exact hs pg' (.inl hfree) k hk
  · exact clearedLaw_of_sub hs rfl fun pg' h => h.imp_right fun h => by simp at h
  · refine clearedLaw_of_store hs (k := 0) (by rw [hlen p bytes _ hpage]) rfl fun pg' h => ?_
    have hfree : pg' ∈ s.freeList := h.resolve_right (by simp)
    exact ⟨.inl hfree, fun he => hsafe p bytes pg hpage hdest (he ▸ hfree)⟩

theorem clearedLaw_act (h : Act s₀ begins s t) (h₀ : PageLaw s₀) (hmem : MemoryLaw s) (hs : ClearedLaw s) :
    ClearedLaw t := by
  have hstay : ∀ {u : State}, u.mem = s.mem → u.freeList = s.freeList → u.page = s.page →
      ClearedLaw u := fun hm hf hp => clearedLaw_of_sub hs hm fun pg h => by rwa [Clear, hf, hp] at h
  have htake : ∀ {u : State} (n : Nat), u.mem = s.mem → u.freeList = s.freeList.drop n →
      u.page = s.page → ClearedLaw u := fun n hm hf hp => clearedLaw_of_sub hs hm fun pg h => by
    rw [Clear, hf, hp] at h
    exact h.imp_left List.mem_of_mem_drop
  cases h with
  | serve _ h hsafe => exact clearedLaw_serveMover hs h hmem.2.2 fun p bytes pg => hsafe h₀ p bytes pg
  | hostStore pg k v hk hsafe =>
    obtain ⟨hfree, hpage⟩ := hsafe h₀
    refine clearedLaw_of_store hs (pg := pg) (k := k) (bytes := [v]) hk rfl fun pg' h => ⟨h, ?_⟩
    rintro rfl
    exact h.elim hfree hpage
  | maintStore pg k vs hk hsafe =>
    obtain ⟨hfree, hpage⟩ := hsafe h₀
    refine clearedLaw_of_store hs hk rfl fun pg' h => ⟨h, ?_⟩
    rintro rfl
    exact h.elim hfree hpage
  | startScrub hpage =>
    refine clearedLaw_of_sub hs (by rw [startScrub_eq]) fun pg h => ?_
    rw [startScrub_eq] at h
    refine h.imp_right fun h => ?_
    unfold Machine.startScrub at h
    split at h
    · exact h
    · simp at h
  | endScrub pg hpage =>
    refine clearedLaw_of_sub hs rfl fun pg' h => ?_
    obtain h | h := h
    · obtain h | h := List.mem_append.1 h
      · exact .inl h
      · exact .inr (List.mem_singleton.1 h ▸ hpage)
    · cases h
  | copyWork page hcopy =>
    exact clearedLaw_of_sub hs rfl fun pg h => .inl (h.resolve_right (hcopy pg true))
  | alloc p b n => exact htake n rfl rfl rfl
  | extend b l n => exact htake n rfl rfl rfl
  | clearAll | reset =>
    rw [clearedLaw_iff]
    intro pg h
    obtain h | h := h <;> cases h
  | start | startTaken => rw [addWalk_eq]; exact hstay rfl rfl rfl
  | endOffer id o => obtain h | ⟨_, -, -, h⟩ := endOffer_cases id o s <;> rw [h] <;> exact hstay rfl rfl rfl
  | _ => exact hstay rfl rfl rfl

theorem memoryLaw_step (hs : MemoryLaw s) (ht : step s = .next t) : MemoryLaw t :=
  step_keeps (fun _ _ _ _ h => h) (fun _ _ _ _ h => memoryLaw_act h) hs ht

/-- What holds of cleared pages: with the law of the memory's form (the bytes of a copy page in
progress are 64, R159) every step keeps them. -/
theorem clearedLaw_step (hpage : PageLaw s) (hmem : MemoryLaw s) (hs : ClearedLaw s)
    (ht : step s = .next t) : ClearedLaw t :=
  (step_keeps_under (P := PageLaw) (L := fun u => MemoryLaw u ∧ ClearedLaw u) (fun _ _ h => h)
    (fun _ _ _ _ h => h)
    (fun _ _ _ h₀ h hu => ⟨memoryLaw_act h hu.1, clearedLaw_act h h₀ hu.1 hu.2⟩) hpage
    ⟨hmem, hs⟩ ht).2

end

/-! ### A copy page that carries more than 64 bytes -/

/-- A run of pages without the pages before it and behind it. -/
theorem mem_pagesFrom {pg : PageNo} {k n : Nat} (h : k + n ≤ 8192) :
    pg ∈ pagesFrom k n ↔ k ≤ pg.val ∧ pg.val < k + n := by
  induction n generalizing k with
  | zero => simp [pagesFrom]
  | succ n ih =>
    rw [pagesFrom, List.mem_cons, ih (by omega), Fin.ext_iff, Fin.val_ofNat, Nat.mod_eq_of_lt (by omega)]
    omega

theorem nodup_pagesFrom {k n : Nat} (h : k + n ≤ 8192) : (pagesFrom k n).Nodup := by
  induction n generalizing k with
  | zero => exact List.nodup_nil
  | succ n ih =>
    rw [pagesFrom, List.nodup_cons, mem_pagesFrom (by omega), Fin.val_ofNat, Nat.mod_eq_of_lt (by omega)]
    exact ⟨by omega, ih (by omega)⟩

/-- The record of a buffer of one page, page 0. -/
def onePage : Live := ⟨.a, .held noPorts, 1, 0, 0, noPorts, none, none⟩

/-- A state that obeys the laws of pages and of cleared pages, its copy page of port A about to store
65 bytes in page 0, behind which page 1 is free and clear. -/
def overlongCopy : State :=
  { State.reset with
    buffers := [(0, ⟨0, some onePage⟩)]
    pageMap := [(0, .chained 0 none), (1, .free)]
    freeList := [1]
    scrubQueue := pagesFrom 2 8190
    mem := memWriteRun [] (pageAddr 1 0) zeroPage
    jobs := ⟨some ⟨⟨0, 0⟩, 0, ⟨0, 0⟩, 0, 1, 0, .running⟩, none, none, none⟩
    page := some (.copyWrite .a (List.replicate 65 1) false)
    pending := [.copyPageWriteEnd] }

theorem entryAt_overlongCopy (pg : PageNo) :
    entryAt overlongCopy pg =
      if pg.val = 0 then .chained 0 none else if pg.val = 1 then .free else .scrub := rfl

theorem liveAt_overlongCopy (b : BufNo) :
    liveAt overlongCopy b = if b = 0 then some onePage else none := by
  simp only [liveAt, recAt, overlongCopy, tabGet, Fin.ext_iff, Fin.val_zero]
  split <;> rfl

theorem pageLaw_overlongCopy : PageLaw overlongCopy := by
  refine ⟨by decide, nodup_pagesFrom (by decide), fun pg => ?_, fun pg => ?_, fun b l hl => ?_,
    fun pg b n h => ?_, fun pg served h => by cases h⟩
  · have hfree : pg ∈ overlongCopy.freeList ↔ pg.val = 1 := by
      simp [overlongCopy, Fin.ext_iff]
    rw [hfree, entryAt_overlongCopy]
    split_ifs <;> simp_all
  · have hqueue : pg ∈ overlongCopy.scrubQueue ↔ 2 ≤ pg.val ∧ pg.val < 2 + 8190 :=
      mem_pagesFrom (by decide)
    have := pg.isLt
    rw [hqueue, entryAt_overlongCopy]
    split_ifs <;> simp <;> omega
  · rw [liveAt_overlongCopy] at hl
    split at hl
    · next hb =>
      cases hl
      have hchain : chainOf overlongCopy onePage = [0] := rfl
      refine ⟨by decide, by decide, by rw [hchain]; rfl, by rw [hchain]; simp, by rw [hchain]; rfl, rfl,
        fun pg => ?_⟩
      rw [hchain, entryAt_overlongCopy, hb, List.mem_singleton, Fin.ext_iff]
      split_ifs <;> simp_all
    · cases hl
  · rw [entryAt_overlongCopy] at h
    split_ifs at h
    cases h
    rw [liveAt_overlongCopy]
    simp

theorem clearedLaw_overlongCopy : ClearedLaw overlongCopy := by
  rw [clearedLaw_iff]
  intro pg h k hk
  obtain rfl : pg = 1 := by
    obtain h | h := h
    · exact List.mem_singleton.1 h
    · cases h
  exact memRead_zeroFilled [] 1 rfl hk

theorem endWrite_keeps (s : State) : (endWrite s).mem = s.mem ∧ (endWrite s).freeList = s.freeList := by
  unfold endWrite judgeJob
  split
  · split
    · exact ⟨rfl, rfl⟩
    · dsimp only
      split
      · exact ⟨rfl, rfl⟩
      · split <;> exact ⟨rfl, rfl⟩
  · exact ⟨rfl, rfl⟩

theorem exec_copyPageWriteEnd {s : State} (h : s.rst = false) :
    exec .copyPageWriteEnd s = doneOrStuck (copyWriteEnd s) := by
  change execCopyPageWriteEnd s = _
  simp [execCopyPageWriteEnd, h]

/-- Its step stores the byte behind the page in the free page. -/
theorem step_overlongCopy : ∃ t, step overlongCopy = .next t ∧ 1 ∈ t.freeList ∧ memRead t.mem 64 = 1 := by
  obtain ⟨u, hserve, hmem, hfree⟩ : ∃ u, serveMover { overlongCopy with pending := [] } = some u ∧
      u.mem = memWriteRun overlongCopy.mem 0 (List.replicate 65 1) ∧ u.freeList = [1] :=
    ⟨_, rfl, rfl, rfl⟩
  have hend : copyWriteEnd { overlongCopy with pending := [] } = some (endWrite u) := by
    rw [copyWriteEnd]
    change Option.map endWrite _ = _
    rw [hserve]
    rfl
  obtain ⟨hmem', hfree'⟩ := endWrite_keeps u
  refine ⟨arbitrate (endWrite u), ?_, ?_, ?_⟩
  · rw [step_cons overlongCopy .copyPageWriteEnd [] rfl]
    rw [exec_copyPageWriteEnd rfl, hend]
    rfl
  · rw [arbitrate_freeList, hfree', hfree]
    exact List.mem_singleton.2 rfl
  · rw [arbitrate_mem, hmem', hmem]
    exact memRead_memWriteRun_inside (List.replicate 65 1) overlongCopy.mem 0 64 (by simp)

/-- Refutes O51: its second part has no premise on the bytes that a copy page in progress carries, and
65 of them reach into a free page (`overlongCopy`). With that premise it holds (`clearedLaw_step`). -/
theorem not_memoryKept : ¬ Obligations.MemoryKept := by
  unfold Obligations.MemoryKept
  rintro ⟨-, hcleared⟩
  obtain ⟨t, ht, hfree, hread⟩ := step_overlongCopy
  have h := hcleared overlongCopy t pageLaw_overlongCopy clearedLaw_overlongCopy ht 1 (.inl hfree) 0
    (by decide)
  exact absurd (hread.symm.trans h) (by decide)

end Sys2Proof.Proofs

/-! The arbiter, the walk list and the handling in progress between two steps, which every step keeps
where they belong. -/

namespace Sys2Proof.Proofs

open Sys2Proof Sys2Proof.Machine Sys2Proof.Safety

section
variable {s₀ s t u : State} {begins : Prop}

/-! ### The arbiter -/

theorem arbiterLaw_arbitrate (s : State) : ArbiterLaw (arbitrate s) := fun h =>
  arbitrate_grant s ((arbitrate_rst s).symm.trans h)

/-- The queue says nothing of what a requester presents. -/
theorem grantable_pending (s : State) (rest : List Instr) (r : Requester) :
    grantable { s with pending := rest } r = grantable s r := by
  cases r <;> rfl

theorem arbiterLaw_pending (rest : List Instr) (hs : ArbiterLaw s) :
    ArbiterLaw { s with pending := rest } := by
  simpa only [ArbiterLaw, grantable_pending] using hs

theorem EndsAs.arbiterLaw (hs : ArbiterLaw s) (h : EndsAs s t) : ArbiterLaw t := by
  cases h with
  | same => exact hs
  | inReset _ _ hrst => exact fun h => by rw [hrst] at h; cases h
  | done u => exact arbiterLaw_arbitrate u
  | handled r u => exact arbiterLaw_arbitrate _

theorem arbitrate_tcGrant_of_none (hrst : s.rst = false) (hnone : s.tcGrant = none) :
    (arbitrate s).tcGrant = nextGrant s := by
  simp [arbitrate, hrst, hnone]

theorem maintenance_of_hold {r : Requester} (hhold : s.hold = true) (h : grantable s r = true) :
    r = .maintenance := by
  simp [grantable, hhold] at h
  exact h.2

/-! ### The handling in progress -/

/-- The law of the handling in progress speaks of the grant, HOLD, reset, the states of the ports and
the active walk. -/
theorem underwayLaw_congr (hs : UnderwayLaw s) (hunder : t.underway = s.underway)
    (hrst : t.rst = s.rst) (hhold : t.hold = s.hold) (hgrant : t.tcGrant = s.tcGrant)
    (hlist : t.walkList = s.walkList) (hphase : t.walkPhase = s.walkPhase)
    (hpos : t.walkPos = s.walkPos) (hstate : ∀ p, (portAt t p).state = (portAt s p).state) :
    UnderwayLaw t := by
  simpa only [UnderwayLaw, hunder, hrst, hhold, hgrant, hlist, hphase, hpos, hstate] using hs

theorem underwayLaw_of_none (h : s.underway = none) : UnderwayLaw s := by
  rw [UnderwayLaw, h]; trivial

/-- The grant of a handling in progress is the tick requester's or its port's. -/
theorem grant_of_underway (hs : UnderwayLaw s) {w : Underway} (h : s.underway = some w) :
    s.rst = false ∧ s.hold = false ∧
      ((∃ k, w = .ticks k ∧ s.tcGrant = some .tick) ∨
        ∃ p slot, w = .command p slot ∧ s.tcGrant = some (.port p)) := by
  rw [UnderwayLaw, h] at hs
  cases w with
  | ticks k => exact ⟨hs.1, hs.2.1, .inl ⟨k, rfl, hs.2.2.1⟩⟩
  | command p slot => exact ⟨hs.1, hs.2.1, .inr ⟨p, slot, rfl, hs.2.2.1⟩⟩

theorem underway_none_of_grant (hs : UnderwayLaw s) {r : Requester} (hr : s.tcGrant = some r)
    (htick : r ≠ .tick) (hport : ∀ p, r ≠ .port p) : s.underway = none := by
  cases h : s.underway with
  | none => rfl
  | some w =>
    obtain ⟨-, -, ⟨_, -, hg⟩ | ⟨p, _, -, hg⟩⟩ := grant_of_underway hs h
    · exact absurd (Option.some.inj (hr.symm.trans hg)) htick
    · exact absurd (Option.some.inj (hr.symm.trans hg)) (hport p)

theorem addWalk_of_ne_nil (p : Port) (h : s.walkList ≠ []) :
    addWalk p s = { s with walkList := s.walkList ++ [p] } := if_neg h

theorem addWalk_of_nil (p : Port) (h : s.walkList = []) :
    addWalk p s = { s with walkList := [p], walkPhase := .offers, walkPos := 0 } := if_pos h

/-- The port of a command in progress stays where it is when another port's teardown starts. -/
theorem underwayLaw_start {p : Port} {c : TeardownCause} (hwalk : WalkLaw s) (hs : UnderwayLaw s)
    (hatt : attached s p = true) : UnderwayLaw (addWalk p (updPort p (startStepPort c) s)) := by
  cases hunder : s.underway with
  | none => exact underwayLaw_of_none (by rw [underway_addWalk]; exact hunder)
  | some w =>
    rw [UnderwayLaw, hunder] at hs
    rw [UnderwayLaw, underway_addWalk, updPort_underway, hunder]
    cases w with
    | ticks k => rw [addWalk_eq]; exact hs
    | command q slot =>
      obtain ⟨hrst, hhold, hgrant, hstate, hidle, hcancel, hhead⟩ := hs
      have hne : q ≠ p := by
        rintro rfl
        rw [attached, hstate] at hatt
        cases hatt
      have hlist : s.walkList ≠ [] := List.ne_nil_of_mem ((hwalk.2 q).2 hstate)
      have hport : (portAt (addWalk p (updPort p (startStepPort c) s)) q).state = .teardown := by
        rw [portAt_addWalk, portAt_updPort, if_neg hne]
        exact hstate
      have hadd := addWalk_of_ne_nil (s := updPort p (startStepPort c) s) p hlist
      rw [hadd] at hport ⊢
      refine ⟨hrst, hhold, hgrant, hport, hidle, hcancel, fun hq => hhead ?_⟩
      rwa [← List.head?_append_of_ne_nil _ hlist]

/-- A command that its port's teardown start finds taken: no walk step of the port has been made. -/
theorem underwayLaw_startTaken {p : Port} {c : TeardownCause} {slot : CmdSlot} (hwalk : WalkLaw s)
    (hatt : attached s p = true) (hgrant : s.tcGrant = some (.port p)) (hrst : s.rst = false)
    (hhold : s.hold = false) (hidle : slot.state = .idle) (hcancel : slot.cancelRequested = false) :
    UnderwayLaw (addWalk p (updPort p (startStepPort c)
      { s with underway := some (.command p slot) })) := by
  have hnew : p ∉ s.walkList := fun h => by
    rw [attached, (hwalk.2 p).1 h] at hatt
    cases hatt
  have hport : (portAt (addWalk p (updPort p (startStepPort c)
      { s with underway := some (.command p slot) })) p).state = .teardown := by
    rw [portAt_addWalk, portAt_updPort, if_pos rfl]; rfl
  by_cases hlist : s.walkList = []
  · have hadd := addWalk_of_nil (s := updPort p (startStepPort c)
      { s with underway := some (.command p slot) }) p hlist
    rw [hadd] at hport ⊢
    exact ⟨hrst, hhold, hgrant, hport, hidle, hcancel, fun _ => ⟨rfl, rfl⟩⟩
  · have hadd := addWalk_of_ne_nil (s := updPort p (startStepPort c)
      { s with underway := some (.command p slot) }) p hlist
    rw [hadd] at hport ⊢
    refine ⟨hrst, hhold, hgrant, hport, hidle, hcancel, fun hq => absurd ?_ hnew⟩
    refine List.mem_of_mem_head? ?_
    rwa [← List.head?_append_of_ne_nil _ hlist]

/-- The grant is that of the step's beginning, until a device reset. -/
def GrantKept (s₀ s : State) : Prop := s.tcGrant = s₀.tcGrant ∨ s.tcGrant = none

theorem tcGrant_act (h : Act s₀ begins s t) : t.tcGrant = s.tcGrant ∨ t.tcGrant = none := by
  cases h with
  | reset => exact .inr rfl
  | serve _ h =>
    obtain rfl | ⟨_, -, rfl⟩ | ⟨_, _, -, -, rfl⟩ | ⟨_, _, _, -, -, rfl⟩ := serveMover_cases h <;>
      exact .inl rfl
  | startScrub => rw [startScrub_eq]; exact .inl rfl
  | start | startTaken => rw [addWalk_eq]; exact .inl rfl
  | endOffer id o => obtain h | ⟨_, -, -, h⟩ := endOffer_cases id o s <;> rw [h] <;> exact .inl rfl
  | _ => exact .inl rfl

theorem grantKept_act (h : Act s₀ begins s t) (hs : GrantKept s₀ s) : GrantKept s₀ t := by
  obtain h | h := tcGrant_act h
  · rw [GrantKept, h]; exact hs
  · exact .inr h

theorem underwayLaw_act (h : Act s₀ begins s t) (hwalk : WalkLaw s) (hkept : GrantKept s₀ s)
    (hs : UnderwayLaw s) : UnderwayLaw t := by
  have hmaint : s₀.tcGrant = some .maintenance → s.underway = none := fun hg => by
    obtain hk | hk := hkept
    · exact underway_none_of_grant hs (hk.trans hg) (by simp) (by simp)
    · by_contra hne
      obtain ⟨w, hw⟩ := Option.ne_none_iff_exists'.1 hne
      obtain ⟨-, -, ⟨_, -, hg'⟩ | ⟨_, _, -, hg'⟩⟩ := grant_of_underway hs hw <;> rw [hk] at hg' <;>
        cases hg'
  have hwalkStep : s.tcGrant = some .teardown → s.underway = none := fun hg =>
    underway_none_of_grant hs hg (by simp) (by simp)
  have hkeep : ∀ {u : State}, u.underway = s.underway → u.rst = s.rst → u.hold = s.hold →
      u.tcGrant = s.tcGrant → u.walkList = s.walkList → u.walkPhase = s.walkPhase →
      u.walkPos = s.walkPos → (∀ p, Still (portAt s p) (portAt u p)) → UnderwayLaw u :=
    fun hu hr hh hg hl hp hpos hstill =>
      underwayLaw_congr hs hu hr hh hg hl hp hpos fun p => (hstill p).state
  cases h with
  | held _ _ hgrant => exact underwayLaw_of_none (hmaint hgrant)
  | clearAll hgrant => exact underwayLaw_of_none (hmaint hgrant)
  | reset => exact underwayLaw_of_none rfl
  | released hrst =>
    refine underwayLaw_of_none ?_
    by_contra hne
    obtain ⟨w, hw⟩ := Option.ne_none_iff_exists'.1 hne
    rw [(grant_of_underway hs hw).1] at hrst
    cases hrst
  | clock _ _ _ _ hunder =>
    obtain rfl | ⟨-, rfl | ⟨k, rfl, hgrant, hrst, hhold, hk⟩⟩ := hunder
    · exact hs
    · exact underwayLaw_of_none rfl
    · exact ⟨hrst, hhold, hgrant, hk⟩
  | start p c hatt => exact underwayLaw_start hwalk hs hatt
  | startTaken p c slot hatt _ hgrant hrst hhold hidle hcancel =>
    exact underwayLaw_startTaken hwalk hatt hgrant hrst hhold hidle hcancel
  | walkOffer _ _ _ hgrant => exact underwayLaw_of_none (hwalkStep hgrant)
  | walkBuffer _ _ hgrant => exact underwayLaw_of_none (hwalkStep hgrant)
  | endWalk _ hgrant => exact underwayLaw_of_none (hwalkStep hgrant)
  | attach p hp =>
    cases hunder : s.underway with
    | none => exact underwayLaw_of_none hunder
    | some w =>
      rw [UnderwayLaw, hunder] at hs
      rw [UnderwayLaw, updPort_underway, hunder]
      cases w with
      | ticks k => exact hs
      | command q slot =>
        obtain ⟨hrst, hhold, hgrant, hstate, hrest⟩ := hs
        refine ⟨hrst, hhold, hgrant, ?_, hrest⟩
        rw [portAt_updPort, if_neg]
        · exact hstate
        · rintro rfl
          rw [hp] at hstate
          cases hstate
  | calm ports h => exact hkeep rfl rfl rfl rfl rfl rfl rfl fun p => (h p).toStill
  | serve _ h =>
    have hports := still_of_ports_eq (ports_serveMover h)
    obtain rfl | ⟨_, -, rfl⟩ | ⟨_, _, -, -, rfl⟩ | ⟨_, _, _, -, -, rfl⟩ := serveMover_cases h
    · exact hs
    all_goals exact hkeep rfl rfl rfl rfl rfl rfl rfl hports
  | startScrub => rw [startScrub_eq]; exact hkeep rfl rfl rfl rfl rfl rfl rfl fun _ => .refl _
  | endOffer id o =>
    have hports := still_of_ports_eq (ports_endOffer id o s)
    obtain h | ⟨_, -, -, h⟩ := endOffer_cases id o s <;> rw [h] at hports ⊢ <;>
      exact hkeep rfl rfl rfl rfl rfl rfl rfl hports
  | extend =>
    refine hkeep rfl rfl rfl rfl rfl rfl rfl fun p => ?_
    rw [portAt_updPorts]
    exact still_onSlots rfl _
  | trim =>
    refine hkeep rfl rfl rfl rfl rfl rfl rfl fun p => ?_
    rw [portAt_updPorts]
    exact still_trimPort _ _ _ _ _
  | retire => exact hkeep rfl rfl rfl rfl rfl rfl rfl fun p => (calm_retire _ _ _ _ p).toStill
  | install q w m =>
    refine hkeep rfl rfl rfl rfl rfl rfl rfl fun p => ?_
    rw [portAt_updPort]
    split
    · next hq => subst hq; exact still_takeInstall w m _
    · exact .refl _
  | handOver b l l' q => 
    exact hkeep rfl rfl rfl rfl rfl rfl rfl (still_voidAt (s := setLive b l' s) _ _)
  | acceptLend | acceptGive =>
    refine hkeep rfl rfl rfl rfl rfl rfl rfl fun p => ?_
    rw [portAt_voidAt]
    split
    · next hp => subst hp; exact (calm_onSlots_void _ _).toStill
    · exact .refl _
  | _ => exact hkeep rfl rfl rfl rfl rfl rfl rfl fun _ => .refl _

/-- What a chain keeps of the walk list and the handling in progress. -/
theorem underwayLaw_acts (h : Acts s True s t) (hwalk : WalkLaw s) (hs : UnderwayLaw s) :
    GrantKept s t ∧ UnderwayLaw t := by
  have hall : WalkLaw t ∧ GrantKept s t ∧ UnderwayLaw t := by
    refine h.keep (L := fun u => WalkLaw u ∧ GrantKept s u ∧ UnderwayLaw u) (fun u v huv hu => ?_)
      ⟨hwalk, .inl rfl, hs⟩
    obtain ⟨hw, hkept, hunder⟩ := hu
    refine ⟨walkLaw_act huv hw, grantKept_act huv hkept, underwayLaw_act huv hw hkept hunder⟩
  exact hall.2

/-- The grant of a handling in progress stands, so the arbiter keeps it (R76, R77). -/
theorem underwayLaw_arbitrate (hs : UnderwayLaw s) : UnderwayLaw (arbitrate s) := by
  cases hunder : s.underway with
  | none => exact underwayLaw_of_none (by rw [arbitrate_underway]; exact hunder)
  | some w =>
    have hlaw := id hs
    obtain ⟨hrst, hhold, hgrant⟩ := grant_of_underway hs hunder
    obtain ⟨r, hr, hgrantable⟩ : ∃ r, s.tcGrant = some r ∧ grantable s r = true := by
      obtain ⟨k, rfl, hg⟩ | ⟨p, slot, rfl, hg⟩ := hgrant
      · exact ⟨_, hg, by simp [grantable, presents, ticksTaken, hunder, hhold]⟩
      · exact ⟨_, hg, by simp [grantable, presents, slotTaken, hunder, hhold]⟩
    rw [arbitrate, if_neg (by simp [hrst])]
    simpa [hr, hgrantable] using hlaw

/-- A handling that has ended is in progress no more. -/
theorem underway_none_of_ended {r : Requester} (hgrant : granted s r = true)
    (hacts : GrantKept s u ∧ UnderwayLaw u) (hend : Ended s u r) : u.underway = none := by
  obtain ⟨hkept, hu⟩ := hacts
  have hr := (granted_iff.1 hgrant).2.1
  cases hunder : u.underway with
  | none => rfl
  | some w =>
    exfalso
    obtain ⟨-, -, hg⟩ := grant_of_underway hu hunder
    have hur : u.tcGrant = some r := by
      obtain hk | hk := hkept
      · exact hk.trans hr
      · rw [hk] at hg; simp at hg
    obtain ⟨k, -, hg⟩ | ⟨p, slot, rfl, hg⟩ := hg
    · obtain rfl : r = .tick := Option.some.inj (hur.symm.trans hg)
      rw [Ended, hunder] at hend
      cases hend
    · obtain rfl : r = .port p := Option.some.inj (hur.symm.trans hg)
      obtain hnone | ⟨hnone, hsame⟩ := hend
      · rw [hunder] at hnone; cases hnone
      · rw [slotTaken, ← hsame, hunder] at hnone
        simp at hnone

theorem EndsAs.underwayLaw (hwalk : WalkLaw s) (hs : UnderwayLaw s) (h : EndsAs s t) :
    UnderwayLaw t := by
  cases h with
  | same => exact hs
  | inReset _ h => exact (underwayLaw_acts h hwalk hs).2
  | done u h => exact underwayLaw_arbitrate (underwayLaw_acts h hwalk hs).2
  | handled r u hgrant h hend =>
    refine underwayLaw_of_none ?_
    have hnone := underway_none_of_ended hgrant (underwayLaw_acts h hwalk hs) hend
    rwa [endHandling_eq]

end

/-- Settles O59: every step ends with the arbiter's choice, without a change, or in reset. -/
theorem arbiterKept : Obligations.ArbiterKept := by
  unfold Obligations.ArbiterKept
  refine ⟨fun s t hs ht => ?_, fun s hrst hnone => arbitrate_tcGrant_of_none hrst hnone,
    fun s hhold r => maintenance_of_hold hhold⟩
  obtain ⟨rest, hends⟩ := step_endsAs ht
  exact hends.arbiterLaw (arbiterLaw_pending rest hs)

/-- Settles O53: the walk list by the actions of a step; a handling in progress by the grant that it
holds, under which no other requester's handling runs. -/
theorem walkListKept : Obligations.WalkListKept := by
  unfold Obligations.WalkListKept
  refine ⟨fun _ _ hs => step_keeps (fun _ _ _ _ h => h) (fun _ _ _ _ h => walkLaw_act h) hs,
    fun s t hwalk hs ht => ?_⟩
  obtain ⟨rest, hends⟩ := step_endsAs ht
  exact hends.underwayLaw (s := { s with pending := rest }) hwalk
    (underwayLaw_congr hs rfl rfl rfl rfl rfl rfl rfl fun _ => rfl)

end Sys2Proof.Proofs

/-! Chains of pages in the Page Map: what linking, cutting and unchaining leave, and the law that one
record's chain obeys. -/

namespace Sys2Proof.Proofs

open Sys2Proof Sys2Proof.Machine Sys2Proof.Safety

section
variable {s t : State} {pm pm' : List (Nat × PageEntry)} {b : BufNo} {l : Live}

/-! ### Following next -/

/-- Each page of a list names the page after it as its next (R19). -/
def Linked (pm : List (Nat × PageEntry)) (pages : List PageNo) : Prop :=
  pages.IsChain (fun x y => nextOf pm x = some y)

theorem chainFrom_of_linked {hd : PageNo} {tl : List PageNo} (h : Linked pm (hd :: tl)) :
    chainFrom pm hd (tl.length + 1) = hd :: tl := by
  induction tl generalizing hd with
  | nil => simp only [chainFrom, List.length_nil]; split <;> rfl
  | cons q rest ih =>
    obtain ⟨hnext, hrest⟩ := List.isChain_cons_cons.1 h
    rw [chainFrom, hnext]
    exact congrArg _ (ih hrest)

theorem linked_chainFrom (pm : List (Nat × PageEntry)) (hd : PageNo) (n : Nat) :
    Linked pm (chainFrom pm hd n) := by
  induction n generalizing hd with
  | zero => exact .nil
  | succ n ih =>
    rw [chainFrom]
    cases hnext : nextOf pm hd with
    | none => exact .singleton _
    | some q =>
      cases n with
      | zero => exact .singleton _
      | succ n => exact List.isChain_cons_cons.2 ⟨hnext, ih q⟩

theorem head?_chainFrom (pm : List (Nat × PageEntry)) (hd : PageNo) {n : Nat} (h : 1 ≤ n) :
    (chainFrom pm hd n).head? = some hd := by
  obtain ⟨k, rfl⟩ : ∃ k, n = k + 1 := ⟨n - 1, by omega⟩
  rfl

/-- Pages whose entries stay keep their order. -/
theorem Linked.congr {pages : List PageNo} {last : PageNo} (h : Linked pm (pages ++ [last]))
    (hsame : ∀ pg ∈ pages, nextOf pm' pg = nextOf pm pg) : Linked pm' (pages ++ [last]) := by
  induction pages with
  | nil => exact .singleton _
  | cons x xs ih =>
    cases xs with
    | nil =>
      obtain ⟨hnext, -⟩ := List.isChain_cons_cons.1 h
      exact List.isChain_cons_cons.2 ⟨(hsame x (by simp)).trans hnext, .singleton _⟩
    | cons y ys =>
      obtain ⟨hnext, hrest⟩ := List.isChain_cons_cons.1 h
      exact List.isChain_cons_cons.2
        ⟨(hsame x (by simp)).trans hnext, ih hrest fun pg hpg => hsame pg (List.mem_cons_of_mem _ hpg)⟩

theorem chainFrom_congr {hd : PageNo} {n : Nat}
    (h : ∀ pg ∈ chainFrom pm hd n, nextOf pm' pg = nextOf pm pg) :
    chainFrom pm' hd n = chainFrom pm hd n := by
  induction n generalizing hd with
  | zero => rfl
  | succ n ih =>
    rw [chainFrom] at h
    rw [chainFrom, chainFrom, h hd (by simp)]
    cases hnext : nextOf pm hd with
    | none => rfl
    | some q =>
      simp only [hnext, List.mem_cons, forall_eq_or_imp] at h
      exact congrArg _ (ih h.2)

theorem nextOf_of_entry {x : PageNo} {n : Option PageNo} (h : tabGet .scrub pm x.val = .chained b n) :
    nextOf pm x = n := by
  rw [nextOf, h]

/-! ### Linking and unchaining -/

theorem linkChain_outside {pages : List PageNo} {pg : PageNo} (h : pg ∉ pages) :
    tabGet .scrub (linkChain b pages pm) pg.val = tabGet .scrub pm pg.val := by
  induction pages generalizing pm with
  | nil => rfl
  | cons x xs ih =>
    obtain ⟨hx, hxs⟩ := not_or.1 (mt List.mem_cons.2 h)
    cases xs with
    | nil => rw [linkChain, tabGet_tabSet, if_neg (fin_val_ne hx)]
    | cons y ys => rw [linkChain, ih hxs, tabGet_tabSet, if_neg (fin_val_ne hx)]

/-- The entry of the first of the pages linked: its next is the page after it. -/
theorem linkChain_head {x : PageNo} {xs : List PageNo} (h : x ∉ xs) :
    tabGet .scrub (linkChain b (x :: xs) pm) x.val = .chained b xs.head? := by
  cases xs with
  | nil => simp [linkChain]
  | cons y ys => rw [linkChain, linkChain_outside h, tabGet_tabSet, if_pos rfl]; rfl

theorem linkChain_cons (x : PageNo) (xs : List PageNo) :
    linkChain b (x :: xs) pm = linkChain b xs (tabSet .scrub pm x.val (.chained b xs.head?)) := by
  cases xs <;> rfl

theorem linkChain_inside {pages : List PageNo} {pg : PageNo} (hnodup : pages.Nodup) (h : pg ∈ pages) :
    ∃ n, tabGet .scrub (linkChain b pages pm) pg.val = .chained b n := by
  induction pages generalizing pm with
  | nil => cases h
  | cons x xs ih =>
    obtain ⟨hx, hxs⟩ := List.nodup_cons.1 hnodup
    obtain rfl | h := List.mem_cons.1 h
    · exact ⟨_, linkChain_head hx⟩
    · rw [linkChain_cons]; exact ih hxs h

theorem linked_linkChain {pages : List PageNo} (hnodup : pages.Nodup) :
    Linked (linkChain b pages pm) pages := by
  induction pages generalizing pm with
  | nil => exact .nil
  | cons x xs ih =>
    obtain ⟨hx, hxs⟩ := List.nodup_cons.1 hnodup
    have htail := ih (pm := tabSet .scrub pm x.val (.chained b xs.head?)) hxs
    cases xs with
    | nil => exact .singleton _
    | cons y ys =>
      refine List.isChain_cons_cons.2 ⟨nextOf_of_entry (linkChain_head hx), ?_⟩
      rwa [linkChain_cons]

theorem linkChain_last {pages : List PageNo} {last : PageNo} (hnodup : pages.Nodup)
    (h : pages.getLast? = some last) :
    tabGet .scrub (linkChain b pages pm) last.val = .chained b none := by
  induction pages generalizing pm with
  | nil => cases h
  | cons x xs ih =>
    obtain ⟨hx, hxs⟩ := List.nodup_cons.1 hnodup
    cases xs with
    | nil =>
      obtain rfl : x = last := by simpa using h
      exact linkChain_head hx
    | cons y ys =>
      rw [linkChain_cons]
      exact ih hxs (by simpa using h)

/-- Pages that leave a chain are in place SCRUB, and no other entry changes (R20). -/
theorem tabGet_unchain (pages : List PageNo) (pg : PageNo) :
    tabGet .scrub (unchain pages pm) pg.val =
      if pg ∈ pages then .scrub else tabGet .scrub pm pg.val := by
  induction pages generalizing pm with
  | nil => simp [unchain]
  | cons x xs ih =>
    rw [unchain, ih, tabGet_tabSet]
    by_cases hx : pg = x
    · simp [hx]
    · simp [hx, fin_val_ne hx]

/-! ### The law of one chain -/

/-- What the law of pages and chains says of one live record (R19, R22). -/
def ChainLaw (s : State) (b : BufNo) (l : Live) : Prop :=
  1 ≤ l.length ∧ l.length ≤ 32 ∧ (chainOf s l).length = l.length ∧ (chainOf s l).Nodup ∧
    (chainOf s l).getLast? = some l.tail ∧ nextOf s.pageMap l.tail = none ∧
    ∀ pg, pg ∈ chainOf s l ↔ ∃ n, entryAt s pg = .chained b n

/-- A list of pages, linked from the record's head to its tail, is its chain. -/
theorem chainLaw_of_pages {pages : List PageNo} (hlen : l.length = pages.length)
    (hpos : 1 ≤ l.length) (hmax : l.length ≤ 32) (hnodup : pages.Nodup)
    (hhead : pages.head? = some l.head) (hlast : pages.getLast? = some l.tail)
    (hlinked : Linked s.pageMap pages) (hend : nextOf s.pageMap l.tail = none)
    (hmem : ∀ pg, pg ∈ pages ↔ ∃ n, entryAt s pg = .chained b n) :
    ChainLaw s b l := by
  have hchain : chainOf s l = pages := by
    obtain ⟨tl, rfl⟩ := List.head?_eq_some_iff.1 hhead
    rw [chainOf, hlen]
    exact chainFrom_of_linked hlinked
  unfold ChainLaw
  rw [hchain]
  exact ⟨hpos, hmax, hlen.symm, hnodup, hlast, hend, hmem⟩

/-- A chain whose entries stay, with the body of its record, obeys the law still. -/
theorem chainLaw_congr {l' : Live} (h : ChainLaw s b l) (hlen : l'.length = l.length)
    (hhead : l'.head = l.head) (htail : l'.tail = l.tail)
    (hstay : ∀ pg n, entryAt s pg = .chained b n → entryAt t pg = .chained b n)
    (hback : ∀ pg n, entryAt t pg = .chained b n → ∃ n', entryAt s pg = .chained b n') :
    chainOf t l' = chainOf s l ∧ ChainLaw t b l' := by
  obtain ⟨hpos, hmax, hcount, hnodup, hlast, hend, hmem⟩ := h
  have hnext : ∀ pg ∈ chainOf s l, nextOf t.pageMap pg = nextOf s.pageMap pg := fun pg hpg => by
    obtain ⟨n, hn⟩ := (hmem pg).1 hpg
    rw [nextOf_of_entry hn, nextOf_of_entry (hstay pg n hn)]
  have hchain : chainOf t l' = chainOf s l := by
    rw [chainOf, hhead, hlen]
    exact chainFrom_congr hnext
  refine ⟨hchain, ?_⟩
  unfold ChainLaw
  rw [hchain, hlen, htail]
  refine ⟨hpos, hmax, hcount, hnodup, hlast, ?_, fun pg => (hmem pg).trans ⟨?_, ?_⟩⟩
  · rw [hnext l.tail (List.mem_of_getLast? hlast), hend]
  · rintro ⟨n, hn⟩; exact ⟨n, hstay pg n hn⟩
  · rintro ⟨n, hn⟩; exact hback pg n hn

end

/-- Settles O19, by induction on the pages. -/
theorem linkedChain : Obligations.LinkedChain := by
  unfold Obligations.LinkedChain
  intro b hd tl pm hnodup
  exact ⟨chainFrom_of_linked (linked_linkChain hnodup), fun pg hpg => linkChain_inside hnodup hpg,
    linkChain_last hnodup (List.getLast?_eq_some_getLast (by simp)), fun pg hpg => linkChain_outside hpg⟩

end Sys2Proof.Proofs

/-! The tables' canonical forms, and the law of pages and chains, which every step keeps. -/

namespace Sys2Proof.Proofs

open Sys2Proof Sys2Proof.Machine Sys2Proof.Safety

section
variable {s₀ s t u : State} {begins : Prop}

/-! ### Canonical tables -/

theorem tableLaw_congr (h : TableLaw s) (hbuf : t.buffers = s.buffers) (hmap : t.pageMap = s.pageMap)
    (hoffers : t.offers = s.offers) : TableLaw t := by
  simpa only [TableLaw, hbuf, hmap, hoffers] using h

theorem tableLaw_setRec (h : TableLaw s) (b : BufNo) (r : BufRec) : TableLaw (setRec b r s) :=
  ⟨tabWf_tabSet r h.1 b.isLt, h.2⟩

theorem tableLaw_setLive (h : TableLaw s) (b : BufNo) (l : Live) : TableLaw (setLive b l s) :=
  tableLaw_setRec h b _

theorem tableLaw_setOffer (h : TableLaw s) (id : OfferId) (o : Option Offer) :
    TableLaw (setOffer id o s) :=
  ⟨h.1, h.2.1, tabWf_tabSet o h.2.2 id.isLt⟩

theorem wf_linkChain {b : BufNo} {pages : List PageNo} {pm : List (Nat × PageEntry)}
    (h : tabWf .scrub 8192 pm = true) : tabWf .scrub 8192 (linkChain b pages pm) = true := by
  induction pages generalizing pm with
  | nil => exact h
  | cons x xs ih =>
    rw [linkChain_cons]
    exact ih (tabWf_tabSet _ h x.isLt)

theorem wf_unchain {pages : List PageNo} {pm : List (Nat × PageEntry)}
    (h : tabWf .scrub 8192 pm = true) : tabWf .scrub 8192 (unchain pages pm) = true := by
  induction pages generalizing pm with
  | nil => exact h
  | cons x xs ih => exact ih (tabWf_tabSet _ h x.isLt)

theorem wf_clearedTable {bufs : List (Nat × BufRec)} (h : tabWf vacantRec 1024 bufs = true) :
    tabWf vacantRec 1024 (clearedTable bufs) = true := by
  simp only [tabWf, Bool.and_eq_true, decide_eq_true_eq, List.all_eq_true, bne_iff_ne] at h ⊢
  obtain ⟨hp, hm⟩ := h
  refine ⟨List.Pairwise.filter _ (List.pairwise_map.2 hp), fun e he => ?_⟩
  obtain ⟨he, hne⟩ := List.mem_filter.1 he
  obtain ⟨e', he', rfl⟩ := List.mem_map.1 he
  exact ⟨(hm e' he').1, by simpa using hne⟩

theorem tableLaw_endOffer (h : TableLaw s) (id : OfferId) (o : Offer) :
    TableLaw (Machine.endOffer id o s) := by
  obtain h' | ⟨_, -, -, h'⟩ := endOffer_cases id o s <;> rw [h']
  · exact tableLaw_setOffer h id none
  · exact tableLaw_setLive (tableLaw_setOffer h id none) _ _

theorem tableLaw_act (h : Act s₀ begins s t) (hs : TableLaw s) : TableLaw t := by
  cases h with
  | endScrub pg =>
    have hmap := tabWf_tabSet PageEntry.free hs.2.1 pg.isLt
    exact ⟨hs.1, hmap, hs.2.2⟩
  | alloc p b n =>
    have hchained : TableLaw (takeAndChain b none n s) := ⟨hs.1, wf_linkChain hs.2.1, hs.2.2⟩
    exact tableLaw_congr (tableLaw_setLive hchained b _) rfl rfl rfl
  | extend b l n tl =>
    have hchained : TableLaw (takeAndChain b (some l.tail) n s) :=
      ⟨hs.1, wf_linkChain hs.2.1, hs.2.2⟩
    exact tableLaw_congr (tableLaw_setLive hchained b _) rfl rfl rfl
  | trim b l n =>
    have hmap := tabWf_tabSet (PageEntry.chained b none)
      (wf_unchain (pages := (chainOf s l).drop (l.length - n)) hs.2.1)
      (((((chainOf s l).take (l.length - n)).getLast?).getD l.head).isLt)
    have hcut : TableLaw (s |> scrubPages ((chainOf s l).drop (l.length - n))
        |> cutChain b ((((chainOf s l).take (l.length - n)).getLast?).getD l.head)) :=
      ⟨hs.1, hmap, hs.2.2⟩
    exact tableLaw_congr (tableLaw_setLive hcut b _) rfl rfl rfl
  | retire b l l' cause caller =>
    have hscrubbed : TableLaw (s |> revokeAll l' (handleAt s b) cause caller |> unpublishAll b
        |> scrubPages (chainOf s l') |> lowerCounts l'.owner 1 l'.length) :=
      ⟨hs.1, wf_unchain hs.2.1, hs.2.2⟩
    exact tableLaw_setRec hscrubbed b _
  | relive b l l' => exact tableLaw_setLive hs b l'
  | handOver b l l' => exact tableLaw_congr (tableLaw_setLive hs b l') rfl rfl rfl
  | makeOffer kind q b l id =>
    exact tableLaw_setLive (tableLaw_setOffer hs id _) b _
  | endOffer id o => exact tableLaw_endOffer hs id o
  | countOffer id o n => exact tableLaw_setOffer hs id _
  | acceptLend p id o b l =>
    exact tableLaw_congr (tableLaw_setLive (tableLaw_setOffer hs id none) b _) rfl rfl rfl
  | acceptGive p id o b l =>
    exact tableLaw_congr (tableLaw_setLive (tableLaw_setOffer hs id none) b _) rfl rfl rfl
  | clearAll => exact ⟨wf_clearedTable hs.1, rfl, rfl⟩
  | reset => exact ⟨rfl, rfl, rfl⟩
  | serve _ h =>
    obtain rfl | ⟨_, -, rfl⟩ | ⟨_, _, -, -, rfl⟩ | ⟨_, _, _, -, -, rfl⟩ := serveMover_cases h <;>
      exact tableLaw_congr hs rfl rfl rfl
  | startScrub => rw [startScrub_eq]; exact tableLaw_congr hs rfl rfl rfl
  | start | startTaken => rw [addWalk_eq]; exact tableLaw_congr hs rfl rfl rfl
  | _ => exact tableLaw_congr hs rfl rfl rfl

/-! ### Pages and chains -/

theorem pageLaw_chain (h : PageLaw s) {b : BufNo} {l : Live} (hl : liveAt s b = some l) :
    ChainLaw s b l := by
  obtain ⟨-, -, -, -, hchain, -⟩ := h
  exact hchain b l hl

/-- With the lists, the entries and the scrub page in progress, only the bodies of the records
matter. -/
theorem pageLaw_of_bodies (h : PageLaw s) (hfree : t.freeList = s.freeList)
    (hqueue : t.scrubQueue = s.scrubQueue) (hmap : t.pageMap = s.pageMap) (hpage : t.page = s.page)
    (hbody : ∀ b l', liveAt t b = some l' → ∃ l, liveAt s b = some l ∧ l'.length = l.length ∧
      l'.head = l.head ∧ l'.tail = l.tail)
    (hlive : ∀ b, liveAt s b ≠ none → liveAt t b ≠ none) : PageLaw t := by
  obtain ⟨hf, hq, hisFree, hisScrub, hchain, hown, hwork⟩ := h
  have hentry : ∀ pg, entryAt t pg = entryAt s pg := fun pg => by rw [entryAt, hmap]; rfl
  refine ⟨hfree ▸ hf, hqueue ▸ hq, fun pg => ?_, fun pg => ?_, fun b l' hl' => ?_, fun pg b n h => ?_,
    fun pg v h => ?_⟩
  · rw [hfree, hentry]; exact hisFree pg
  · rw [hqueue, hentry]; exact hisScrub pg
  · obtain ⟨l, hl, hlen, hhead, htail⟩ := hbody b l' hl'
    exact (chainLaw_congr (hchain b l hl) hlen hhead htail (fun pg n h => (hentry pg).trans h)
      fun pg n h => ⟨n, (hentry pg).symm.trans h⟩).2
  · exact hlive b (hown pg b n ((hentry pg).symm.trans h))
  · rw [hqueue]; exact hwork pg v (hpage ▸ h)

/-- A live record changes, its body apart. -/
theorem pageLaw_setLive (h : PageLaw s) {b : BufNo} {l l' : Live} (hl : liveAt s b = some l)
    (hlen : l'.length = l.length) (hhead : l'.head = l.head) (htail : l'.tail = l.tail) :
    PageLaw (setLive b l' s) := by
  refine pageLaw_of_bodies h rfl rfl rfl rfl (fun c k hk => ?_) fun c hc => ?_
  · rw [liveAt_setLive] at hk
    split at hk
    · next hcb => cases hk; subst hcb; exact ⟨l, hl, hlen, hhead, htail⟩
    · exact ⟨k, hk, rfl, rfl, rfl⟩
  · rw [liveAt_setLive]
    split
    · simp
    · exact hc

theorem pageLaw_frame (h : PageLaw s) (hfree : t.freeList = s.freeList)
    (hqueue : t.scrubQueue = s.scrubQueue) (hmap : t.pageMap = s.pageMap)
    (hbuf : t.buffers = s.buffers) (hpage : t.page = s.page) : PageLaw t :=
  pageLaw_of_page h hfree hqueue hmap hbuf fun _ v hp => ⟨v, hpage ▸ hp⟩

theorem liveAt_clearedTable (hbuf : t.buffers = clearedTable s.buffers) (b : BufNo) :
    liveAt t b = none := by
  by_contra hne
  have hne' : tabGet vacantRec t.buffers b.val ≠ vacantRec := fun h => hne (by rw [liveAt, recAt, h]; rfl)
  have hmem := mem_of_tabGet hne'
  rw [hbuf] at hmem
  obtain ⟨e, -, he⟩ := List.mem_map.1 (List.mem_filter.1 hmem).1
  have hrec : recAt t b = clearedRec e.2 := by
    rw [recAt, hbuf]
    exact (congrArg Prod.snd he).symm
  refine hne ?_
  rw [liveAt, hrec, clearedRec]
  split
  · next h => exact h
  · rfl

/-- Without a live record, with every page in place SCRUB on the Scrub Queue (R27, R42). -/
theorem pageLaw_empty (hfree : t.freeList = []) (hqueue : t.scrubQueue = allPages)
    (hmap : t.pageMap = []) (hpage : t.page = none) (hlive : ∀ b, liveAt t b = none) : PageLaw t := by
  have hentry : ∀ pg, entryAt t pg = .scrub := fun pg => by rw [entryAt, hmap]; rfl
  refine ⟨hfree ▸ List.nodup_nil, hqueue ▸ nodup_pagesFrom (by decide), fun pg => ?_, fun pg => ?_,
    fun b l hl => ?_, fun pg b n h => ?_, fun pg v h => ?_⟩
  · simp [hfree, hentry]
  · have hlt := pg.isLt
    rw [hqueue, hentry, allPages, mem_pagesFrom (by decide)]
    simp only [iff_true]
    omega
  · rw [hlive] at hl; cases hl
  · rw [hentry] at h; cases h
  · rw [hpage] at h; cases h

theorem pageLaw_endScrub (h : PageLaw s) {pg : PageNo} (hpage : s.page = some (.scrub pg true)) :
    PageLaw (Machine.endScrub pg s) := by
  obtain ⟨hf, hq, hisFree, hisScrub, hchain, hown, hwork⟩ := h
  obtain ⟨rest, hqueue⟩ := List.head?_eq_some_iff.1 (hwork pg true hpage)
  have hscrub : entryAt s pg = .scrub := (hisScrub pg).1 (by simp [hqueue])
  have hentry : ∀ x, entryAt (Machine.endScrub pg s) x = if x = pg then .free else entryAt s x := by
    intro x
    rw [entryAt, Machine.endScrub, tabGet_tabSet]
    by_cases hx : x = pg
    · simp [hx]
    · rw [if_neg (fin_val_ne hx), if_neg hx]; rfl
  rw [hqueue, List.nodup_cons] at hq
  have hchained : ∀ x b n, entryAt (Machine.endScrub pg s) x = .chained b n ↔ entryAt s x = .chained b n := by
    intro x b n
    rw [hentry]
    split
    · next hx => rw [hx, hscrub]; simp
    · exact Iff.rfl
  refine ⟨?_, ?_, fun x => ?_, fun x => ?_, fun b l hl => ?_, fun x b n hx => ?_, fun x v hx => by cases hx⟩
  · refine List.nodup_append.2 ⟨hf, by simp, fun x hx y hy => ?_⟩
    obtain rfl := List.mem_singleton.1 hy
    rintro rfl
    rw [(hisFree x).1 hx] at hscrub
    cases hscrub
  · change (s.scrubQueue.tail).Nodup
    rw [hqueue]; exact hq.2
  · change x ∈ s.freeList ++ [pg] ↔ _
    rw [hentry, List.mem_append, List.mem_singleton, hisFree]
    split
    · next hx => simp [hx]
    · next hx => simp [hx]
  · change x ∈ s.scrubQueue.tail ↔ _
    rw [hentry, hqueue, List.tail_cons]
    have hmem := hisScrub x
    rw [hqueue, List.mem_cons] at hmem
    split
    · next hx => rw [hx]; simp [hq.1]
    · next hx => rw [← hmem, or_iff_right hx]
  · exact (chainLaw_congr (hchain b l hl) rfl rfl rfl (fun x n hx => (hchained x b n).2 hx)
      fun x n hx => ⟨n, (hchained x b n).1 hx⟩).2
  · exact hown x b n ((hchained x b n).1 hx)

end

end Sys2Proof.Proofs

/-! The law of pages and chains through ALLOC, EXTEND, TRIM and retirement; and the count of all 8192
pages. -/

namespace Sys2Proof.Proofs

open Sys2Proof Sys2Proof.Machine Sys2Proof.Safety

section
variable {s₀ s t u : State} {begins : Prop} {b : BufNo} {l l' : Live}

theorem mem_drop_iff {α : Type} {xs : List α} (h : xs.Nodup) (n : Nat) (x : α) :
    x ∈ xs.drop n ↔ x ∈ xs ∧ x ∉ xs.take n := by
  have hsplit := h
  rw [← List.take_append_drop n xs, List.nodup_append] at hsplit
  obtain ⟨-, -, hdisj⟩ := hsplit
  constructor
  · exact fun hx => ⟨List.mem_of_mem_drop hx, fun hx' => hdisj x hx' x hx rfl⟩
  · rintro ⟨hx, hnot⟩
    rw [← List.take_append_drop n xs, List.mem_append] at hx
    exact hx.resolve_left hnot

/-- Pages leave the Free List for the chain of one record (R20, R34). -/
theorem pageLaw_grow {n : Nat} (h : PageLaw s) (hfree : t.freeList = s.freeList.drop n)
    (hqueue : t.scrubQueue = s.scrubQueue) (hpage : t.page = s.page)
    (hin : ∀ pg ∈ s.freeList.take n, ∃ m, entryAt t pg = .chained b m)
    (hown : ∀ pg m, entryAt s pg = .chained b m → ∃ m', entryAt t pg = .chained b m')
    (hout : ∀ pg, pg ∉ s.freeList.take n → (∀ m, entryAt s pg ≠ .chained b m) →
      entryAt t pg = entryAt s pg)
    (hlive : ∀ c, liveAt t c = if c = b then some l' else liveAt s c) (hchain : ChainLaw t b l') :
    PageLaw t := by
  obtain ⟨hf, hq, hisFree, hisScrub, hchains, howned, hwork⟩ := h
  have htaken : ∀ {pg}, pg ∈ s.freeList.take n → entryAt s pg = .free := fun hpg =>
    (hisFree _).1 (List.mem_of_mem_take hpg)
  have hplace : ∀ pg, (∃ m, entryAt t pg = .chained b m) ∨
      pg ∉ s.freeList.take n ∧ entryAt t pg = entryAt s pg := fun pg => by
    by_cases hpg : pg ∈ s.freeList.take n
    · exact .inl (hin pg hpg)
    · by_cases hb : ∃ m, entryAt s pg = .chained b m
      · obtain ⟨m, hm⟩ := hb
        exact .inl (hown pg m hm)
      · exact .inr ⟨hpg, hout pg hpg fun m hm => hb ⟨m, hm⟩⟩
  have hother : ∀ c, c ≠ b → ∀ pg m, entryAt t pg = .chained c m ↔ entryAt s pg = .chained c m := by
    intro c hc pg m
    obtain ⟨m', hm'⟩ | ⟨-, he⟩ := hplace pg
    · have hne : entryAt s pg ≠ .chained c m := fun hs => by
        by_cases hpg : pg ∈ s.freeList.take n
        · rw [htaken hpg] at hs; cases hs
        · rw [hout pg hpg (fun k hk => by rw [hs] at hk; cases hk; exact hc rfl), hs] at hm'
          cases hm'
          exact hc rfl
      rw [hm']
      constructor
      · intro h; cases h; exact absurd rfl hc
      · exact fun h => absurd h hne
    · rw [he]
  refine ⟨?_, hqueue ▸ hq, fun pg => ?_, fun pg => ?_, fun c k hk => ?_, fun pg c m hm => ?_,
    fun pg v hv => ?_⟩
  · rw [hfree]; exact hf.sublist (List.drop_sublist n _)
  · rw [hfree, mem_drop_iff hf, hisFree]
    obtain ⟨m, hm⟩ | ⟨hpg, he⟩ := hplace pg
    · rw [hm]
      refine ⟨fun ⟨hs, hnot⟩ => ?_, fun h => nomatch h⟩
      rw [hout pg hnot (fun k hk => by rw [hs] at hk; cases hk), hs] at hm
      cases hm
    · rw [he]; exact and_iff_left hpg
  · rw [hqueue, hisScrub]
    obtain ⟨m, hm⟩ | ⟨hpg, he⟩ := hplace pg
    · rw [hm]
      refine ⟨fun hs => ?_, fun h => nomatch h⟩
      have hnot : pg ∉ s.freeList.take n := fun hpg => by rw [htaken hpg] at hs; cases hs
      rw [hout pg hnot (fun k hk => by rw [hs] at hk; cases hk), hs] at hm
      cases hm
    · rw [he]
  · rw [hlive] at hk
    split at hk
    · next hc => cases hk; exact hc ▸ hchain
    · next hc =>
      exact (chainLaw_congr (hchains c k hk) rfl rfl rfl (fun pg m hm => (hother c hc pg m).2 hm)
        fun pg m hm => ⟨m, (hother c hc pg m).1 hm⟩).2
  · rw [hlive]
    split
    · simp
    · next hc => exact howned pg c m ((hother c hc pg m).1 hm)
  · rw [hqueue]; exact hwork pg v (hpage ▸ hv)

/-- Pages leave the chain of one record for the Scrub Queue (R20, R36). -/
theorem pageLaw_shrink {gone : List PageNo} (h : PageLaw s) (hfree : t.freeList = s.freeList)
    (hqueue : t.scrubQueue = s.scrubQueue ++ gone) (hpage : t.page = s.page) (hnodup : gone.Nodup)
    (hgone : ∀ pg ∈ gone, (∃ m, entryAt s pg = .chained b m) ∧ entryAt t pg = .scrub)
    (hown : ∀ pg m, pg ∉ gone → entryAt s pg = .chained b m → ∃ m', entryAt t pg = .chained b m')
    (hout : ∀ pg, (∀ m, entryAt s pg ≠ .chained b m) → entryAt t pg = entryAt s pg)
    (hlive : ∀ c, c ≠ b → liveAt t c = liveAt s c)
    (hchain : ∀ k, liveAt t b = some k → ChainLaw t b k)
    (hdead : liveAt t b = none → ∀ pg m, entryAt s pg = .chained b m → pg ∈ gone) : PageLaw t := by
  obtain ⟨hf, hq, hisFree, hisScrub, hchains, howned, hwork⟩ := h
  have hplace : ∀ pg, (∃ m, entryAt s pg = .chained b m) ∧
      (pg ∈ gone ∧ entryAt t pg = .scrub ∨ pg ∉ gone ∧ ∃ m, entryAt t pg = .chained b m) ∨
      (∀ m, entryAt s pg ≠ .chained b m) ∧ pg ∉ gone ∧ entryAt t pg = entryAt s pg := fun pg => by
    by_cases hb : ∃ m, entryAt s pg = .chained b m
    · refine .inl ⟨hb, ?_⟩
      by_cases hpg : pg ∈ gone
      · exact .inl ⟨hpg, (hgone pg hpg).2⟩
      · obtain ⟨m, hm⟩ := hb
        exact .inr ⟨hpg, hown pg m hpg hm⟩
    · have hb' : ∀ m, entryAt s pg ≠ .chained b m := fun m hm => hb ⟨m, hm⟩
      exact .inr ⟨hb', fun hpg => hb (hgone pg hpg).1, hout pg hb'⟩
  have hother : ∀ c, c ≠ b → ∀ pg m, entryAt t pg = .chained c m ↔ entryAt s pg = .chained c m := by
    intro c hc pg m
    obtain ⟨⟨k, hk⟩, ⟨-, he⟩ | ⟨-, j, hj⟩⟩ | ⟨-, -, he⟩ := hplace pg
    · rw [hk, he]
      simp [Ne.symm hc]
    · rw [hk, hj]
      simp [Ne.symm hc]
    · rw [he]
  refine ⟨hfree ▸ hf, ?_, fun pg => ?_, fun pg => ?_, fun c k hk => ?_, fun pg c m hm => ?_,
    fun pg v hv => ?_⟩
  · rw [hqueue]
    refine List.nodup_append.2 ⟨hq, hnodup, fun x hx y hy => ?_⟩
    rintro rfl
    obtain ⟨⟨m, hm⟩, -⟩ := hgone x hy
    rw [(hisScrub x).1 hx] at hm
    cases hm
  · rw [hfree, hisFree]
    obtain ⟨⟨k, hk⟩, ⟨-, he⟩ | ⟨-, j, hj⟩⟩ | ⟨-, -, he⟩ := hplace pg
    · rw [hk, he]; simp
    · rw [hk, hj]; simp
    · rw [he]
  · rw [hqueue, List.mem_append, hisScrub]
    obtain ⟨⟨k, hk⟩, ⟨hpg, he⟩ | ⟨hpg, j, hj⟩⟩ | ⟨-, hpg, he⟩ := hplace pg
    · rw [hk, he]; simp [hpg]
    · rw [hk, hj]; simp [hpg]
    · rw [he]; exact or_iff_left hpg
  · by_cases hc : c = b
    · subst hc; exact hchain k hk
    · rw [hlive c hc] at hk
      exact (chainLaw_congr (hchains c k hk) rfl rfl rfl (fun pg m hm => (hother c hc pg m).2 hm)
        fun pg m hm => ⟨m, (hother c hc pg m).1 hm⟩).2
  · by_cases hc : c = b
    · subst hc
      intro hnone
      obtain ⟨⟨k, hk⟩, ⟨-, he⟩ | ⟨hpg, -⟩⟩ | ⟨hb, -, he⟩ := hplace pg
      · rw [he] at hm; cases hm
      · exact hpg (hdead hnone pg k hk)
      · exact hb m (he.symm.trans hm)
    · rw [hlive c hc]
      exact howned pg c m ((hother c hc pg m).1 hm)
  · rw [hqueue]
    obtain ⟨rest, hrest⟩ := List.head?_eq_some_iff.1 (hwork pg v (hpage ▸ hv))
    rw [hrest]; rfl

/-! ### The four operations -/

theorem pageLaw_alloc {p : Port} {n : Nat} {hd tl : PageNo} (h : PageLaw s)
    (hvacant : liveAt s b = none) (hpos : 1 ≤ n) (hmax : n ≤ 32) (hfree : n ≤ s.freeList.length)
    (hhd : (s.freeList.take n).head? = some hd) (htl : (s.freeList.take n).getLast? = some tl) :
    PageLaw (s |> takeAndChain b none n |> setLive b (newLive p (s.freeList.take n) hd tl)
      |> raiseCounts p 1 n) := by
  obtain ⟨hf, -, -, -, -, howned, -⟩ := id h
  have hnodup : (s.freeList.take n).Nodup := hf.sublist (List.take_sublist n _)
  have hlen : (s.freeList.take n).length = n := by simp [hfree]
  have hnone : ∀ pg m, entryAt s pg ≠ .chained b m := fun pg m hm => howned pg b m hm hvacant
  have hinside : ∀ pg ∈ s.freeList.take n, ∃ m,
      tabGet .scrub (linkChain b (s.freeList.take n) s.pageMap) pg.val = .chained b m :=
    fun pg hpg => linkChain_inside hnodup hpg
  refine pageLaw_grow (n := n) (b := b) (l' := newLive p (s.freeList.take n) hd tl) h rfl rfl rfl
    hinside (fun pg m hm => absurd hm (hnone pg m)) (fun pg hpg _ => linkChain_outside hpg)
    (fun c => ?_) ?_
  · rw [liveAt_raiseCounts, liveAt_setLive]
    rfl
  · refine chainLaw_of_pages (pages := s.freeList.take n) rfl ?_ ?_ hnodup hhd htl
      (linked_linkChain hnodup) (nextOf_of_entry (linkChain_last hnodup htl)) fun pg =>
        ⟨hinside pg, fun ⟨m, hm⟩ => ?_⟩
    · change 1 ≤ (s.freeList.take n).length
      omega
    · change (s.freeList.take n).length ≤ 32
      omega
    · by_contra hpg
      exact hnone pg m ((linkChain_outside hpg).symm.trans hm)

/-- A chain as its pages before the tail, and the tail. -/
theorem chain_split (h : ChainLaw s b l) : ∃ init, chainOf s l = init ++ [l.tail] := by
  obtain ⟨-, -, -, -, hlast, -⟩ := h
  exact ⟨_, (List.dropLast_append_getLast? _ hlast).symm⟩

theorem head?_chainOf (h : ChainLaw s b l) : (chainOf s l).head? = some l.head :=
  head?_chainFrom _ _ h.1

theorem pageLaw_extend {n : Nat} {tl : PageNo} (h : PageLaw s) (hl : liveAt s b = some l)
    (hpos : 1 ≤ n) (hmax : l.length + n ≤ 32) (hfree : n ≤ s.freeList.length)
    (htl : (s.freeList.take n).getLast? = some tl) :
    PageLaw (s |> takeAndChain b (some l.tail) n
      |> setLive b { l with length := l.length + n, tail := tl } |> raiseCounts l.owner 0 n
      |> updPorts (fun _ => onSlots (lengthSlot (handleAt s b) (l.length + n)))) := by
  have hlaw := pageLaw_chain h hl
  obtain ⟨hf, -, hisFree, -, -, -, -⟩ := id h
  obtain ⟨hpos', -, hcount, hchainNodup, hlast, -, hmem⟩ := id hlaw
  obtain ⟨init, hinit⟩ := chain_split hlaw
  have hpages : (s.freeList.take n).Nodup := hf.sublist (List.take_sublist n _)
  have hfreePage : ∀ pg ∈ s.freeList.take n, pg ∉ chainOf s l := fun pg hpg hc => by
    obtain ⟨m, hm⟩ := (hmem pg).1 hc
    rw [(hisFree pg).1 (List.mem_of_mem_take hpg)] at hm
    cases hm
  have htail : l.tail ∈ chainOf s l := List.mem_of_getLast? hlast
  have hnodup : (l.tail :: s.freeList.take n).Nodup :=
    List.nodup_cons.2 ⟨fun hpg => hfreePage _ hpg htail, hpages⟩
  have hinside : ∀ pg ∈ l.tail :: s.freeList.take n, ∃ m,
      tabGet .scrub (linkChain b (l.tail :: s.freeList.take n) s.pageMap) pg.val = .chained b m :=
    fun pg hpg => linkChain_inside hnodup hpg
  have houtside : ∀ pg, pg ∉ l.tail :: s.freeList.take n →
      tabGet .scrub (linkChain b (l.tail :: s.freeList.take n) s.pageMap) pg.val = entryAt s pg :=
    fun pg hpg => linkChain_outside hpg
  have hown : ∀ pg m, entryAt s pg = .chained b m → ∃ m',
      tabGet .scrub (linkChain b (l.tail :: s.freeList.take n) s.pageMap) pg.val = .chained b m' := by
    intro pg m hm
    by_cases hpg : pg ∈ l.tail :: s.freeList.take n
    · exact hinside pg hpg
    · exact ⟨m, (houtside pg hpg).trans hm⟩
  have hlast' : (l.tail :: s.freeList.take n).getLast? = some tl := by
    rw [List.getLast?_cons, htl]; rfl
  have hlinked : Linked (linkChain b (l.tail :: s.freeList.take n) s.pageMap)
      (chainOf s l ++ s.freeList.take n) := by
    have hback := linked_linkChain (b := b) (pm := s.pageMap) hnodup
    have hfront : Linked (linkChain b (l.tail :: s.freeList.take n) s.pageMap) (init ++ [l.tail]) := by
      refine Linked.congr (pm := s.pageMap) (hinit ▸ linked_chainFrom _ _ _) fun pg hpg => ?_
      have hin : pg ∈ chainOf s l := by rw [hinit]; exact List.mem_append_left _ hpg
      rw [nextOf, nextOf, houtside pg fun hx => ?_]
      · rfl
      · obtain rfl | hx := List.mem_cons.1 hx
        · rw [hinit, List.nodup_append] at hchainNodup
          exact hchainNodup.2.2 _ hpg _ (by simp) rfl
        · exact hfreePage pg hx hin
    rw [hinit, List.append_assoc]
    exact List.isChain_split.2 ⟨hfront, hback⟩
  refine pageLaw_grow (n := n) (b := b) (l' := { l with length := l.length + n, tail := tl }) h rfl
    rfl rfl (fun pg hpg => hinside pg (List.mem_cons_of_mem _ hpg)) hown (fun pg hpg hb =>
      houtside pg fun hx => ?_) (fun c => ?_) ?_
  · obtain rfl | hx := List.mem_cons.1 hx
    · obtain ⟨m, hm⟩ := (hmem l.tail).1 htail
      exact hb m hm
    · exact hpg hx
  · rw [liveAt_updPorts, liveAt_raiseCounts, liveAt_setLive]
    rfl
  · refine chainLaw_of_pages (pages := chainOf s l ++ s.freeList.take n) ?_ ?_ hmax ?_ ?_ ?_ hlinked
      (nextOf_of_entry (linkChain_last hnodup hlast')) fun pg => ⟨fun hpg => ?_, fun ⟨m, hm⟩ => ?_⟩
    · simp [hcount, hfree]
    · change 1 ≤ l.length + n; omega
    · exact List.nodup_append.2 ⟨hchainNodup, hpages, fun x hx y hy he => hfreePage y hy (he ▸ hx)⟩
    · rw [List.head?_append, head?_chainOf hlaw]; rfl
    · rw [List.getLast?_append, htl]; rfl
    · obtain hpg | hpg := List.mem_append.1 hpg
      · obtain ⟨m, hm⟩ := (hmem pg).1 hpg
        exact hown pg m hm
      · exact hinside pg (List.mem_cons_of_mem _ hpg)
    · by_cases hpg : pg ∈ l.tail :: s.freeList.take n
      · obtain rfl | hpg := List.mem_cons.1 hpg
        · exact List.mem_append_left _ htail
        · exact List.mem_append_right _ hpg
      · exact List.mem_append_left _ ((hmem pg).2 ⟨m, (houtside pg hpg).symm.trans hm⟩)

theorem entryAt_trimmed {pages : List PageNo} {tl : PageNo} (pg : PageNo) :
    entryAt (s |> scrubPages pages |> cutChain b tl) pg =
      if pg = tl then .chained b none else if pg ∈ pages then .scrub else entryAt s pg := by
  rw [entryAt, cutChain, tabGet_tabSet]
  by_cases h : pg = tl
  · simp [h]
  · rw [if_neg (fin_val_ne h), if_neg h, scrubPages, tabGet_unchain]; rfl

theorem pageLaw_trim {n : Nat} (h : PageLaw s) (hl : liveAt s b = some l) (hpos : 1 ≤ n)
    (hlt : n < l.length) :
    PageLaw (s |> scrubPages ((chainOf s l).drop (l.length - n))
      |> cutChain b ((((chainOf s l).take (l.length - n)).getLast?).getD l.head)
      |> setLive b { l with
          length := l.length - n
          tail := (((chainOf s l).take (l.length - n)).getLast?).getD l.head }
      |> lowerCounts l.owner 0 n
      |> updPorts (trimPort l.owner (handleAt s b) (l.length - n))) := by
  have hlaw := pageLaw_chain h hl
  obtain ⟨-, hmax, hcount, hnodup, -, -, hmem⟩ := id hlaw
  obtain ⟨m, hm⟩ : ∃ m, m = l.length - n := ⟨_, rfl⟩
  obtain ⟨tl, htl⟩ : ∃ tl, ((chainOf s l).take m).getLast? = some tl := by
    refine Option.ne_none_iff_exists'.1 fun hnone => ?_
    rw [List.getLast?_eq_none_iff, List.take_eq_nil_iff] at hnone
    obtain h0 | h0 := hnone
    · omega
    · rw [h0] at hcount; simp at hcount; omega
  rw [← hm, htl, Option.getD_some]
  have hlen : ((chainOf s l).take m).length = m := by rw [List.length_take, hcount]; omega
  have htlKeep : tl ∈ (chainOf s l).take m := List.mem_of_getLast? htl
  have htlNot : tl ∉ (chainOf s l).drop m := fun hx => ((mem_drop_iff hnodup m tl).1 hx).2 htlKeep
  obtain ⟨init, hinit⟩ : ∃ init, (chainOf s l).take m = init ++ [tl] :=
    ⟨_, (List.dropLast_append_getLast? _ htl).symm⟩
  have hkeepNodup : ((chainOf s l).take m).Nodup := hnodup.sublist (List.take_sublist m _)
  have hlinked : Linked (cutChain b tl (scrubPages ((chainOf s l).drop m) s)).pageMap
      ((chainOf s l).take m) := by
    rw [hinit]
    refine Linked.congr (pm := s.pageMap) (hinit ▸ (linked_chainFrom _ _ _).take m) fun pg hpg => ?_
    have hne : pg ≠ tl := by
      rintro rfl
      rw [hinit, List.nodup_append] at hkeepNodup
      exact hkeepNodup.2.2 _ hpg _ (by simp) rfl
    have hkeep : pg ∈ (chainOf s l).take m := by rw [hinit]; exact List.mem_append_left _ hpg
    have hentry := entryAt_trimmed (s := s) (b := b) (pages := (chainOf s l).drop m) (tl := tl) pg
    rw [if_neg hne, if_neg fun hx => ((mem_drop_iff hnodup m pg).1 hx).2 hkeep] at hentry
    exact congrArg (fun e => match e with | .chained _ n => n | _ => none) hentry
  refine pageLaw_shrink (b := b) (gone := (chainOf s l).drop m) h rfl rfl rfl
    (hnodup.sublist (List.drop_sublist m _)) (fun pg hpg => ⟨(hmem pg).1 (List.mem_of_mem_drop hpg), ?_⟩)
    (fun pg k hpg hk => ?_) (fun pg hb => ?_) (fun c hc => ?_) (fun k hk => ?_) (fun hnone => ?_)
  · refine (entryAt_trimmed pg).trans ?_
    rw [if_neg, if_pos hpg]
    rintro rfl
    exact htlNot hpg
  · by_cases hx : pg = tl
    · exact ⟨none, (entryAt_trimmed pg).trans (if_pos hx)⟩
    · refine ⟨k, (entryAt_trimmed pg).trans ?_⟩
      rw [if_neg hx, if_neg hpg, hk]
  · refine (entryAt_trimmed pg).trans ?_
    rw [if_neg, if_neg]
    · intro hx
      obtain ⟨k, hk⟩ := (hmem pg).1 (List.mem_of_mem_drop hx)
      exact hb k hk
    · rintro rfl
      obtain ⟨k, hk⟩ := (hmem pg).1 (List.mem_of_mem_take htlKeep)
      exact hb k hk
  · rw [liveAt_updPorts, liveAt_lowerCounts, liveAt_setLive, if_neg hc]
    rfl
  · rw [liveAt_updPorts, liveAt_lowerCounts, liveAt_setLive, if_pos rfl] at hk
    cases hk
    refine chainLaw_of_pages (pages := (chainOf s l).take m) hlen.symm ?_ ?_ hkeepNodup ?_ htl hlinked
      (nextOf_of_entry (b := b) ?_) fun pg => ⟨fun hpg => ?_, fun ⟨k, hk⟩ => ?_⟩
    · change 1 ≤ m; omega
    · change m ≤ 32; omega
    · rw [List.head?_take, if_neg (by omega)]; exact head?_chainOf hlaw
    · exact (entryAt_trimmed (s := s) (pages := (chainOf s l).drop m) tl).trans (if_pos rfl)
    · by_cases hx : pg = tl
      · exact ⟨none, (entryAt_trimmed pg).trans (if_pos hx)⟩
      · obtain ⟨k, hk⟩ := (hmem pg).1 (List.mem_of_mem_take hpg)
        refine ⟨k, (entryAt_trimmed pg).trans ?_⟩
        rw [if_neg hx, if_neg fun hx => ((mem_drop_iff hnodup m pg).1 hx).2 hpg, hk]
    · by_contra hpg
      have hentry := (entryAt_trimmed (s := s) (b := b) (pages := (chainOf s l).drop m) (tl := tl) pg).symm.trans hk
      split_ifs at hentry with h1 h2
      · exact hpg (h1 ▸ htlKeep)
      · exact h2 ((mem_drop_iff hnodup m pg).2 ⟨(hmem pg).2 ⟨k, hentry⟩, hpg⟩)
  · rw [liveAt_updPorts, liveAt_lowerCounts, liveAt_setLive, if_pos rfl] at hnone
    cases hnone

theorem chainOf_sameBody (hbody : SameBody l l') : chainOf s l' = chainOf s l := by
  rw [chainOf, chainOf, hbody.head, hbody.length]

theorem pageLaw_retire (h : PageLaw s) (hl : liveAt s b = some l) (hbody : SameBody l l')
    (cause : Cause) (caller : Option Port) : PageLaw (Machine.retire b l' cause caller s) := by
  obtain ⟨-, -, -, hnodup, -, -, hmem⟩ := pageLaw_chain h hl
  have hentry : ∀ pg, entryAt (Machine.retire b l' cause caller s) pg =
      if pg ∈ chainOf s l then .scrub else entryAt s pg := fun pg => by
    rw [← chainOf_sameBody hbody]
    exact tabGet_unchain _ pg
  have hlive : ∀ c, liveAt (Machine.retire b l' cause caller s) c = if c = b then none else liveAt s c :=
    fun c => by rw [Machine.retire, liveAt_setRec]; rfl
  refine pageLaw_shrink (b := b) (gone := chainOf s l) h rfl ?_ rfl hnodup
    (fun pg hpg => ⟨(hmem pg).1 hpg, by rw [hentry, if_pos hpg]⟩)
    (fun pg k hpg hk => absurd ((hmem pg).2 ⟨k, hk⟩) hpg) (fun pg hb => ?_) (fun c hc => ?_)
    (fun k hk => ?_) (fun _ pg k hk => (hmem pg).2 ⟨k, hk⟩)
  · rw [← chainOf_sameBody hbody]; rfl
  · rw [hentry, if_neg fun hx => ?_]
    obtain ⟨k, hk⟩ := (hmem pg).1 hx
    exact hb k hk
  · rw [hlive, if_neg hc]
  · rw [hlive, if_pos rfl] at hk
    cases hk

theorem pageLaw_startScrub (h : PageLaw s) : PageLaw (Machine.startScrub s) := by
  unfold Machine.startScrub
  split
  · exact h
  · next pg rest hqueue =>
    obtain ⟨hf, hq, hisFree, hisScrub, hchains, howned, -⟩ := h
    refine ⟨hf, hq, hisFree, hisScrub, hchains, howned, fun x v hx => ?_⟩
    obtain ⟨rfl, -⟩ : pg = x ∧ false = v := by simpa using hx
    exact congrArg List.head? hqueue

theorem pageLaw_endOffer (h : PageLaw s) (id : OfferId) (o : Offer) :
    PageLaw (Machine.endOffer id o s) := by
  have hfree : PageLaw (setOffer id none s) := pageLaw_frame h rfl rfl rfl rfl rfl
  obtain h' | ⟨k, hk, -, h'⟩ := endOffer_cases id o s <;> rw [h']
  · exact hfree
  · exact pageLaw_setLive (l := k) hfree hk rfl rfl rfl

theorem pageLaw_act (h : Act s₀ begins s t) (h₀ : TableLaw s₀) (hs : PageLaw s) : PageLaw t := by
  have hfreed : ∀ id o, PageLaw (setOffer id o s) := fun id o => pageLaw_frame hs rfl rfl rfl rfl rfl
  cases h with
  | serve _ h => exact serveMover_keeps_pageLaw hs h
  | startScrub => exact pageLaw_startScrub hs
  | endScrub pg hpage => exact pageLaw_endScrub hs hpage
  | copyWork page hcopy =>
    exact pageLaw_of_page hs rfl rfl rfl rfl fun pg v hp => absurd hp (hcopy pg v)
  | alloc p b n hd tl hvacant hpos hmax hfree hhd htl =>
    exact pageLaw_alloc hs hvacant hpos hmax hfree hhd htl
  | extend b l n tl hl hpos hmax hfree htl => exact pageLaw_extend hs hl hpos hmax hfree htl
  | trim b l n hl hpos hlt => exact pageLaw_trim hs hl hpos hlt
  | retire b l l' cause caller hl hbody => exact pageLaw_retire hs (hl h₀) hbody cause caller
  | relive b l l' hl hbody => exact pageLaw_setLive hs (hl h₀) hbody.length hbody.head hbody.tail
  | handOver b l l' q hl hbody =>
    exact pageLaw_frame (pageLaw_setLive hs (hl h₀) hbody.length hbody.head hbody.tail) rfl rfl rfl rfl
      rfl
  | makeOffer kind q b l id hl => exact pageLaw_setLive (l := l) (hfreed id _) hl rfl rfl rfl
  | endOffer id o => exact pageLaw_endOffer hs id o
  | acceptLend p id o b l _ _ hl =>
    exact pageLaw_frame (pageLaw_setLive (l := l) (l' := { l with st := .lent p }) (hfreed id none) hl
      rfl rfl rfl) rfl rfl rfl rfl rfl
  | acceptGive p id o b l _ _ hl =>
    exact pageLaw_frame (pageLaw_setLive (l := l) (l' := { l with owner := p, st := .held noPorts })
      (hfreed id none) hl rfl rfl rfl) rfl rfl rfl rfl rfl
  | clearAll => exact pageLaw_empty rfl rfl rfl rfl (liveAt_clearedTable (s := s) rfl)
  | reset => exact pageLaw_empty rfl rfl rfl rfl fun _ => rfl
  | start | startTaken => rw [addWalk_eq]; exact pageLaw_frame hs rfl rfl rfl rfl rfl
  | _ => exact pageLaw_frame hs rfl rfl rfl rfl rfl

/-! ### All pages are accounted for -/

/-- Where a page is (R18): free, in scrubbing, or chained to a buffer. -/
def placeOf (s : State) (pg : PageNo) : Option (Option BufNo) :=
  match entryAt s pg with
  | .free => none
  | .scrub => some none
  | .chained b _ => some (some b)

theorem placeOf_eq_free {pg : PageNo} : placeOf s pg = none ↔ entryAt s pg = .free := by
  unfold placeOf
  split <;> simp_all

theorem placeOf_eq_scrub {pg : PageNo} : placeOf s pg = some none ↔ entryAt s pg = .scrub := by
  unfold placeOf
  split <;> simp_all

theorem placeOf_eq_chained {pg : PageNo} :
    placeOf s pg = some (some b) ↔ ∃ n, entryAt s pg = .chained b n := by
  unfold placeOf
  split <;> simp_all

/-- A list without repeats has as many members as there are pages in its place. -/
theorem length_eq_card {pages : List PageNo} {k : Option (Option BufNo)} (hnodup : pages.Nodup)
    (hmem : ∀ pg, pg ∈ pages ↔ placeOf s pg = k) :
    pages.length = (Finset.univ.filter fun pg => placeOf s pg = k).card := by
  rw [← List.toFinset_card_of_nodup hnodup]
  exact congrArg Finset.card (Finset.ext fun pg => by simp [hmem])

theorem lengthOf_eq_card (h : PageLaw s) (b : BufNo) :
    lengthOf s b = (Finset.univ.filter fun pg => placeOf s pg = some (some b)).card := by
  obtain ⟨-, -, -, -, -, howned, -⟩ := id h
  unfold lengthOf
  split
  · next hnone =>
    symm
    rw [Finset.card_eq_zero, Finset.filter_eq_empty_iff]
    intro pg _ hpg
    obtain ⟨n, hn⟩ := placeOf_eq_chained.1 hpg
    exact howned pg b n hn hnone
  · next l hl =>
    obtain ⟨-, -, hcount, hnodup, -, -, hmem⟩ := pageLaw_chain h hl
    rw [← hcount]
    exact length_eq_card hnodup fun pg => (hmem pg).trans placeOf_eq_chained.symm

theorem pages_accounted (h : PageLaw s) :
    s.freeList.length + s.scrubQueue.length + ∑ b : BufNo, lengthOf s b = 8192 := by
  obtain ⟨hf, hq, hisFree, hisScrub, -⟩ := id h
  have hcard : (Finset.univ : Finset PageNo).card = 8192 := by simp
  have hfibers := Finset.card_eq_sum_card_fiberwise (s := (Finset.univ : Finset PageNo))
    (t := Finset.univ) (f := placeOf s) fun pg _ => Finset.mem_coe.2 (Finset.mem_univ _)
  rw [hcard, Fintype.sum_option, Fintype.sum_option] at hfibers
  rw [length_eq_card hf fun pg => (hisFree pg).trans placeOf_eq_free.symm,
    length_eq_card hq fun pg => (hisScrub pg).trans placeOf_eq_scrub.symm,
    Finset.sum_congr rfl fun b _ => lengthOf_eq_card h b, Nat.add_assoc]
  exact hfibers.symm

end

/-- Settles O52, by the actions of a step; the count by the place of each page. -/
theorem tablesKept : Obligations.TablesKept := by
  unfold Obligations.TablesKept
  exact ⟨fun _ _ hs => step_keeps (fun _ _ _ _ h => h) (fun _ _ _ _ h => tableLaw_act h) hs,
    fun _ _ htab => step_keeps_under (P := TableLaw) (fun _ _ h => h) (fun _ _ _ _ h => h)
      (fun _ _ _ h₀ h => pageLaw_act h h₀) htab, fun _ => pages_accounted⟩

end Sys2Proof.Proofs

/-! The ownership counts and the Directory, which every step keeps true. -/

namespace Sys2Proof.Proofs

open Sys2Proof Sys2Proof.Machine Sys2Proof.Safety

section
variable {s₀ s t u : State} {begins : Prop} {b : BufNo} {l l' : Live}

/-! ### Counts -/

/-- A sum over the buffer numbers of which one summand changes. -/
theorem sum_of_change {f g : BufNo → ℕ} (b : BufNo) (h : ∀ c, c ≠ b → g c = f c) :
    (∑ c, g c) + f b = (∑ c, f c) + g b := by
  have hf : f b + ∑ c ∈ Finset.univ.erase b, f c = ∑ c, f c :=
    Finset.add_sum_erase _ f (Finset.mem_univ b)
  have hg : g b + ∑ c ∈ Finset.univ.erase b, g c = ∑ c, g c :=
    Finset.add_sum_erase _ g (Finset.mem_univ b)
  have hrest : ∑ c ∈ Finset.univ.erase b, g c = ∑ c ∈ Finset.univ.erase b, f c :=
    Finset.sum_congr rfl fun c hc => h c (Finset.ne_of_mem_erase hc)
  omega

theorem owned_of_live (hl : liveAt s b = some l) (p : Port) :
    owned s p b = if l.owner = p then (1, l.length) else (0, 0) := by
  rw [owned, hl]

theorem owned_of_vacant (hl : liveAt s b = none) (p : Port) : owned s p b = (0, 0) := by
  rw [owned, hl]

/-- What a record contributes is counted (R23). -/
theorem owned_le_counts (h : CountLaw s) (p : Port) (b : BufNo) :
    (owned s p b).1 ≤ (countsAt s p).buffers ∧ (owned s p b).2 ≤ (countsAt s p).pages := by
  rw [(h p).1, (h p).2]
  exact ⟨Finset.single_le_sum (f := fun c => (owned s p c).1) (fun _ _ => Nat.zero_le _)
      (Finset.mem_univ b),
    Finset.single_le_sum (f := fun c => (owned s p c).2) (fun _ _ => Nat.zero_le _)
      (Finset.mem_univ b)⟩

theorem owned_congr {p : Port} (h : liveAt t b = liveAt s b) : owned t p b = owned s p b := by
  rw [owned, owned, h]

/-- One record changes, and each port's counts change by what it contributes. -/
theorem countLaw_of_change (h : CountLaw s) (b : BufNo)
    (hlive : ∀ c, c ≠ b → liveAt t c = liveAt s c)
    (hcounts : ∀ p, (countsAt t p).buffers + (owned s p b).1 = (countsAt s p).buffers + (owned t p b).1 ∧
      (countsAt t p).pages + (owned s p b).2 = (countsAt s p).pages + (owned t p b).2) :
    CountLaw t := by
  intro p
  have hbufs := sum_of_change (f := fun c => (owned s p c).1) (g := fun c => (owned t p c).1) b
    fun c hc => by rw [owned_congr (hlive c hc)]
  have hpages := sum_of_change (f := fun c => (owned s p c).2) (g := fun c => (owned t p c).2) b
    fun c hc => by rw [owned_congr (hlive c hc)]
  obtain ⟨hb, hp⟩ := hcounts p
  rw [(h p).1] at hb
  rw [(h p).2] at hp
  constructor <;> omega

/-- A record changes that keeps owner and length. -/
theorem countLaw_setLive (h : CountLaw s) (hl : liveAt s b = some l) (howner : l'.owner = l.owner)
    (hlen : l'.length = l.length) : CountLaw (setLive b l' s) := by
  refine countLaw_of_change h b (fun c hc => by rw [liveAt_setLive, if_neg hc]) fun p => ?_
  have hnew : liveAt (setLive b l' s) b = some l' := by rw [liveAt_setLive, if_pos rfl]
  rw [owned_of_live hl, owned_of_live hnew, howner, hlen, countsAt_setLive]
  exact ⟨rfl, rfl⟩

theorem countLaw_frame (h : CountLaw s) (hcounts : t.counts = s.counts)
    (hbuf : t.buffers = s.buffers) : CountLaw t := by
  simpa only [CountLaw, countsAt, owned, liveAt, recAt, hcounts, hbuf] using h

theorem countLaw_endOffer (h : CountLaw s) (id : OfferId) (o : Offer) :
    CountLaw (Machine.endOffer id o s) := by
  have hfree : CountLaw (setOffer id none s) := countLaw_frame h rfl rfl
  obtain h' | ⟨k, hk, -, h'⟩ := endOffer_cases id o s <;> rw [h']
  · exact hfree
  · exact countLaw_setLive (l := k) hfree hk rfl rfl

theorem countLaw_empty (hcounts : t.counts = State.reset.counts) (hlive : ∀ b, liveAt t b = none) :
    CountLaw t := by
  intro p
  simp only [owned, hlive, Finset.sum_const_zero, countsAt, hcounts]
  cases p <;> exact ⟨rfl, rfl⟩

theorem countLaw_retire (h : CountLaw s) (hl : liveAt s b = some l) (hbody : SameBody l l')
    (cause : Cause) (caller : Option Port) : CountLaw (Machine.retire b l' cause caller s) := by
  have hlive : ∀ c, liveAt (Machine.retire b l' cause caller s) c = if c = b then none else liveAt s c :=
    fun c => by rw [Machine.retire, liveAt_setRec]; rfl
  refine countLaw_of_change h b (fun c hc => by rw [hlive, if_neg hc]) fun p => ?_
  have hle := owned_le_counts h p b
  have hcounts : countsAt (Machine.retire b l' cause caller s) p =
      countsAt (lowerCounts l'.owner 1 l'.length s) p := rfl
  rw [owned_of_vacant (s := Machine.retire b l' cause caller s) (by rw [hlive, if_pos rfl]), hcounts,
    countsAt_lowerCounts, hbody.owner, hbody.length]
  rw [owned_of_live hl] at hle ⊢
  by_cases hp : l.owner = p
  · subst hp
    simp only [if_true] at hle ⊢
    omega
  · simp [hp, Ne.symm hp]

theorem countLaw_act (h : Act s₀ begins s t) (h₀ : TableLaw s₀) (hs : CountLaw s) : CountLaw t := by
  have hfreed : ∀ id o, CountLaw (setOffer id o s) := fun id o => countLaw_frame hs rfl rfl
  cases h with
  | alloc p b n hd tl hvacant hpos hmax hfree =>
    refine countLaw_of_change hs b (fun c hc => ?_) fun q => ?_
    · rw [liveAt_raiseCounts, liveAt_setLive, if_neg hc, liveAt_takeAndChain]
    · have hlen : (newLive p (s.freeList.take n) hd tl).length = n := by simp [newLive, hfree]
      rw [owned_of_vacant hvacant, owned_of_live (l := newLive p (s.freeList.take n) hd tl)
        (by rw [liveAt_raiseCounts, liveAt_setLive, if_pos rfl]), hlen, countsAt_raiseCounts]
      by_cases hq : q = p
      · subst hq; simp [newLive]
      · simp [newLive, hq, Ne.symm hq]
  | extend b l n tl hl =>
    refine countLaw_of_change hs b (fun c hc => ?_) fun q => ?_
    · rw [liveAt_updPorts, liveAt_raiseCounts, liveAt_setLive, if_neg hc, liveAt_takeAndChain]
    · rw [owned_of_live hl, owned_of_live (l := { l with length := l.length + n, tail := tl })
        (by rw [liveAt_updPorts, liveAt_raiseCounts, liveAt_setLive, if_pos rfl]), countsAt_updPorts,
        countsAt_raiseCounts]
      by_cases hq : q = l.owner
      · subst hq; simp; omega
      · simp [hq, Ne.symm hq]
  | trim b l n hl hpos hlt =>
    refine countLaw_of_change hs b (fun c hc => ?_) fun q => ?_
    · rw [liveAt_updPorts, liveAt_lowerCounts, liveAt_setLive, if_neg hc, liveAt_cutChain,
        liveAt_scrubPages]
    · have hle := owned_le_counts hs q b
      rw [owned_of_live hl] at hle
      rw [owned_of_live hl, owned_of_live (l := { l with
          length := l.length - n
          tail := (((chainOf s l).take (l.length - n)).getLast?).getD l.head })
        (by rw [liveAt_updPorts, liveAt_lowerCounts, liveAt_setLive, if_pos rfl]), countsAt_updPorts,
        countsAt_lowerCounts]
      by_cases hq : q = l.owner
      · subst hq; simp at hle ⊢; omega
      · simp [hq, Ne.symm hq]
  | retire b l l' cause caller hl hbody => exact countLaw_retire hs (hl h₀) hbody cause caller
  | relive b l l' hl hbody => exact countLaw_setLive hs (hl h₀) hbody.owner hbody.length
  | handOver b l l' q hl hbody =>
    exact countLaw_frame (countLaw_setLive hs (hl h₀) hbody.owner hbody.length) rfl rfl
  | makeOffer kind q b l id hl => exact countLaw_setLive (l := l) (hfreed id _) hl rfl rfl
  | endOffer id o => exact countLaw_endOffer hs id o
  | acceptLend p id o b l _ _ hl =>
    exact countLaw_frame (countLaw_setLive (l := l) (l' := { l with st := .lent p }) (hfreed id none) hl
      rfl rfl) rfl rfl
  | acceptGive p id o b l _ _ hl =>
    refine countLaw_of_change hs b (fun c hc => ?_) fun q => ?_
    · rw [liveAt_voidAt, liveAt_unpublishAll, liveAt_raiseCounts, liveAt_lowerCounts, liveAt_setLive,
        if_neg hc, liveAt_setOffer]
    · have hle := owned_le_counts hs q b
      rw [owned_of_live hl] at hle
      rw [owned_of_live hl, owned_of_live (l := { l with owner := p, st := .held noPorts })
        (by rw [liveAt_voidAt, liveAt_unpublishAll, liveAt_raiseCounts, liveAt_lowerCounts,
          liveAt_setLive, if_pos rfl]), countsAt_voidAt, countsAt_unpublishAll, countsAt_raiseCounts,
        countsAt_lowerCounts, countsAt_lowerCounts, countsAt_setLive, countsAt_setLive,
        countsAt_setOffer, countsAt_setOffer]
      by_cases hp : q = p
      · subst hp
        by_cases hq : q = l.owner
        · subst hq; simp at hle ⊢; omega
        · simp [hq, Ne.symm hq]
      · by_cases hq : q = l.owner
        · subst hq; simp [hp, Ne.symm hp] at hle ⊢; omega
        · simp [hp, Ne.symm hp, hq, Ne.symm hq]
  | clearAll => exact countLaw_empty rfl (liveAt_clearedTable (s := s) rfl)
  | reset => exact countLaw_empty rfl fun _ => rfl
  | serve _ h =>
    obtain rfl | ⟨_, -, rfl⟩ | ⟨_, _, -, -, rfl⟩ | ⟨_, _, _, -, -, rfl⟩ := serveMover_cases h <;>
      exact countLaw_frame hs rfl rfl
  | startScrub => rw [startScrub_eq]; exact countLaw_frame hs rfl rfl
  | start | startTaken => rw [addWalk_eq]; exact countLaw_frame hs rfl rfl
  | _ => exact countLaw_frame hs rfl rfl

/-! ### The Directory -/

/-- Entries leave the Directory or stay, and the records of those that stay keep owner and
generation. -/
theorem directoryLaw_of_sublist (h : DirectoryLaw s) (hsub : t.dir.Sublist s.dir)
    (hkeep : ∀ e ∈ t.dir, ∀ l, liveAt s e.handle.buf = some l →
      ∃ l', liveAt t e.handle.buf = some l' ∧ l'.owner = l.owner ∧
        genAt t e.handle.buf = genAt s e.handle.buf) : DirectoryLaw t := by
  obtain ⟨hlen, hsorted, hentry⟩ := h
  refine ⟨hsub.length_le.trans hlen, hsorted.sublist hsub, fun e he => ?_⟩
  obtain ⟨hpos, hmax, l, hl, hgen, howner⟩ := hentry e (hsub.subset he)
  obtain ⟨l', hl', howner', hgen'⟩ := hkeep e he l hl
  exact ⟨hpos, hmax, l', hl', hgen'.trans hgen, howner'.trans howner⟩

theorem directoryLaw_frame (h : DirectoryLaw s) (hdir : t.dir = s.dir) (hbuf : t.buffers = s.buffers) :
    DirectoryLaw t := by
  simpa only [DirectoryLaw, liveAt, genAt, recAt, hdir, hbuf] using h

/-- A record changes that keeps its owner, or comes to be. -/
theorem directoryLaw_setLive (h : DirectoryLaw s)
    (howner : ∀ l, liveAt s b = some l → l'.owner = l.owner) : DirectoryLaw (setLive b l' s) := by
  refine directoryLaw_of_sublist h (.refl _) fun e _ l hl => ?_
  rw [liveAt_setLive, genAt_setLive]
  split
  · next hb => exact ⟨l', rfl, howner l (hb ▸ hl), rfl⟩
  · exact ⟨l, hl, rfl, rfl⟩

theorem directoryLaw_endOffer (h : DirectoryLaw s) (id : OfferId) (o : Offer) :
    DirectoryLaw (Machine.endOffer id o s) := by
  have hfree : DirectoryLaw (setOffer id none s) := directoryLaw_frame h rfl rfl
  obtain h' | ⟨k, hk, -, h'⟩ := endOffer_cases id o s <;> rw [h']
  · exact hfree
  · refine directoryLaw_setLive hfree fun l hl => ?_
    rw [liveAt_setOffer, hk] at hl
    cases hl; rfl

theorem directoryLaw_unpublishAll (h : DirectoryLaw s) (hdir : t.dir = (unpublishAll b s).dir)
    (hother : ∀ c, c ≠ b → liveAt t c = liveAt s c ∧ genAt t c = genAt s c) : DirectoryLaw t := by
  refine directoryLaw_of_sublist h (hdir ▸ List.filter_sublist) fun e he l hl => ?_
  rw [hdir] at he
  have hne : e.handle.buf ≠ b := by simpa using (List.mem_filter.1 he).2
  obtain ⟨hlive, hgen⟩ := hother _ hne
  exact ⟨l, hlive.trans hl, rfl, hgen⟩

theorem mem_dirInsert {e x : DirEntry} {d : List DirEntry} : x ∈ dirInsert e d ↔ x = e ∨ x ∈ d := by
  induction d with
  | nil => simp [dirInsert]
  | cons y ys ih =>
    rw [dirInsert]
    split
    · simp
    · simp [ih]; tauto

theorem length_dirInsert (e : DirEntry) (d : List DirEntry) : (dirInsert e d).length = d.length + 1 := by
  induction d with
  | nil => rfl
  | cons y ys ih =>
    rw [dirInsert]
    split
    · rfl
    · simp [ih]

/-- An entry of a new name goes in its place (R112). -/
theorem sorted_dirInsert {e : DirEntry} {d : List DirEntry}
    (h : d.Pairwise (fun x y => x.name < y.name)) (hnew : ∀ x ∈ d, x.name ≠ e.name) :
    (dirInsert e d).Pairwise (fun x y => x.name < y.name) := by
  induction d with
  | nil => simp [dirInsert]
  | cons y ys ih =>
    obtain ⟨hy, hys⟩ := List.pairwise_cons.1 h
    rw [dirInsert]
    split
    · next hlt =>
      refine List.pairwise_cons.2 ⟨fun x hx => ?_, h⟩
      obtain rfl | hx := List.mem_cons.1 hx
      · exact hlt
      · exact lt_trans hlt (hy x hx)
    · next hlt =>
      refine List.pairwise_cons.2 ⟨fun x hx => ?_, ih hys fun x hx => hnew x (List.mem_cons_of_mem _ hx)⟩
      obtain rfl | hx := mem_dirInsert.1 hx
      · have := hnew y List.mem_cons_self
        omega
      · exact hy x hx

theorem directoryLaw_publish {name : Nat} {mode : DirMode} (h : DirectoryLaw s)
    (hl : liveAt s b = some l) (hpos : 1 ≤ name) (hmax : name ≤ 65535)
    (hnew : dirFind s.dir name = none) (hroom : s.dir.length < 64) :
    DirectoryLaw { s with dir := dirInsert ⟨name, handleAt s b, l.owner, mode⟩ s.dir } := by
  obtain ⟨-, hsorted, hentry⟩ := h
  refine ⟨?_, sorted_dirInsert hsorted ((dirFind_eq_none_iff _ _).1 hnew), fun e he => ?_⟩
  · change (dirInsert _ s.dir).length ≤ 64
    rw [length_dirInsert]
    omega
  · obtain rfl | he := mem_dirInsert.1 he
    · exact ⟨hpos, hmax, l, hl, rfl, rfl⟩
    · exact hentry e he

theorem directoryLaw_empty (h : t.dir = []) : DirectoryLaw t := by
  rw [DirectoryLaw, h]
  simp

theorem directoryLaw_act (h : Act s₀ begins s t) (h₀ : TableLaw s₀) (hs : DirectoryLaw s) :
    DirectoryLaw t := by
  have hfreed : ∀ id o, DirectoryLaw (setOffer id o s) := fun id o => directoryLaw_frame hs rfl rfl
  cases h with
  | alloc p b n hd tl hvacant =>
    have hchained : DirectoryLaw (takeAndChain b none n s) := directoryLaw_frame hs rfl rfl
    exact directoryLaw_frame (directoryLaw_setLive (b := b) (l' := newLive p (s.freeList.take n) hd tl)
      hchained fun k hk => by rw [liveAt_takeAndChain, hvacant] at hk; cases hk) rfl rfl
  | extend b l n tl hl =>
    have hchained : DirectoryLaw (takeAndChain b (some l.tail) n s) := directoryLaw_frame hs rfl rfl
    exact directoryLaw_frame (directoryLaw_setLive (b := b)
      (l' := { l with length := l.length + n, tail := tl }) hchained fun k hk => by
        rw [liveAt_takeAndChain, hl] at hk; cases hk; rfl) rfl rfl
  | trim b l n hl =>
    have hcut : DirectoryLaw (s |> scrubPages ((chainOf s l).drop (l.length - n))
        |> cutChain b ((((chainOf s l).take (l.length - n)).getLast?).getD l.head)) :=
      directoryLaw_frame hs rfl rfl
    exact directoryLaw_frame (directoryLaw_setLive (b := b) (l' := { l with
        length := l.length - n
        tail := (((chainOf s l).take (l.length - n)).getLast?).getD l.head }) hcut fun k hk => by
      rw [liveAt_cutChain, liveAt_scrubPages, hl] at hk; cases hk; rfl) rfl rfl
  | retire b l l' =>
    refine directoryLaw_unpublishAll (b := b) hs rfl fun c hc => ?_
    rw [Machine.retire, liveAt_setRec, genAt_setRec, if_neg hc, if_neg hc]
    exact ⟨rfl, rfl⟩
  | relive b l l' hl hbody =>
    exact directoryLaw_setLive hs fun k hk => by
      rw [hl h₀] at hk; cases hk; exact hbody.owner
  | handOver b l l' q hl hbody =>
    exact directoryLaw_frame (directoryLaw_setLive (l' := l') hs fun k hk => by
      rw [hl h₀] at hk; cases hk; exact hbody.owner) rfl rfl
  | makeOffer kind q b l id hl =>
    exact directoryLaw_setLive (hfreed id _) fun k hk => by
      rw [liveAt_setOffer, hl] at hk; cases hk; rfl
  | endOffer id o => exact directoryLaw_endOffer hs id o
  | acceptLend p id o b l _ _ hl =>
    exact directoryLaw_frame (directoryLaw_setLive (l' := { l with st := .lent p }) (hfreed id none)
      fun k hk => by rw [liveAt_setOffer, hl] at hk; cases hk; rfl) rfl rfl
  | acceptGive p id o b l =>
    refine directoryLaw_unpublishAll (b := b) hs rfl fun c hc => ?_
    rw [liveAt_voidAt, liveAt_unpublishAll, liveAt_raiseCounts, liveAt_lowerCounts, liveAt_setLive,
      if_neg hc, liveAt_setOffer, genAt_voidAt, genAt_unpublishAll, genAt_raiseCounts, genAt_lowerCounts,
      genAt_setLive, genAt_setOffer]
    exact ⟨rfl, rfl⟩
  | publish b l name mode hl hpos hmax hnew hroom =>
    exact directoryLaw_publish hs hl hpos hmax hnew hroom
  | unpublish keep =>
    exact directoryLaw_of_sublist hs List.filter_sublist fun e _ l hl => ⟨l, hl, rfl, rfl⟩
  | clearAll | reset => exact directoryLaw_empty rfl
  | serve _ h =>
    obtain rfl | ⟨_, -, rfl⟩ | ⟨_, _, -, -, rfl⟩ | ⟨_, _, _, -, -, rfl⟩ := serveMover_cases h <;>
      exact directoryLaw_frame hs rfl rfl
  | startScrub => rw [startScrub_eq]; exact directoryLaw_frame hs rfl rfl
  | start | startTaken => rw [addWalk_eq]; exact directoryLaw_frame hs rfl rfl
  | _ => exact directoryLaw_frame hs rfl rfl

end

/-- Settles O58, by the actions of a step. -/
theorem countsKept : Obligations.CountsKept := by
  unfold Obligations.CountsKept
  exact fun _ _ htab => step_keeps_under (P := TableLaw) (fun _ _ h => h) (fun _ _ _ _ h => h)
    (fun _ _ _ h₀ h => countLaw_act h h₀) htab

/-- Settles O57, by the actions of a step. -/
theorem directoryKept : Obligations.DirectoryKept := by
  unfold Obligations.DirectoryKept
  exact fun _ _ htab => step_keeps_under (P := TableLaw) (fun _ _ h => h) (fun _ _ _ _ h => h)
    (fun _ _ _ h₀ h => directoryLaw_act h h₀) htab

end Sys2Proof.Proofs

/-! Offers and OFFERED records, and what the active walk leaves behind it, which every step keeps. -/

namespace Sys2Proof.Proofs

open Sys2Proof Sys2Proof.Machine Sys2Proof.Safety

section
variable {s₀ s t u : State} {begins : Prop} {b : BufNo} {l l' : Live} {id : OfferId} {o : Offer}

/-! ### Offers and OFFERED records -/

/-- A record is OFFERED as before: under the same id, with the same owner and generation. -/
def OfferedAlike (s t : State) (b : BufNo) : Prop :=
  (∀ id l, liveAt s b = some l → l.st = .offered id → genAt t b = genAt s b ∧
    ∃ l', liveAt t b = some l' ∧ l'.owner = l.owner ∧ l'.st = .offered id) ∧
  ∀ id l', liveAt t b = some l' → l'.st = .offered id →
    ∃ l, liveAt s b = some l ∧ l.st = .offered id

theorem offeredAlike_of_eq (hlive : liveAt t b = liveAt s b) (hgen : genAt t b = genAt s b) :
    OfferedAlike s t b :=
  ⟨fun _ l hl hst => ⟨hgen, l, hlive.trans hl, rfl, hst⟩, fun _ l hl hst => ⟨l, hlive ▸ hl, hst⟩⟩

theorem offeredAlike_of_not (hs : ∀ id l, liveAt s b = some l → l.st ≠ .offered id)
    (ht : ∀ id l, liveAt t b = some l → l.st ≠ .offered id) : OfferedAlike s t b :=
  ⟨fun id l hl hst => absurd hst (hs id l hl), fun id l hl hst => absurd hst (ht id l hl)⟩

theorem offerLaw_of_alike (h : OfferLaw s) (hcfg : t.cfg = s.cfg)
    (hoffer : ∀ id, offerAt t id = offerAt s id) (halike : ∀ b, OfferedAlike s t b) : OfferLaw t := by
  obtain ⟨hticks, hin, hrec⟩ := h
  refine ⟨hcfg ▸ hticks, fun id o ho => ?_, fun b l' id hl' hst => ?_⟩
  · obtain ⟨hpos, hmax, l, hl, hgen, howner, hst⟩ := hin id o (hoffer id ▸ ho)
    obtain ⟨hgen', l', hl', howner', hst'⟩ := (halike o.handle.buf).1 id l hl hst
    exact ⟨hpos, hmax, l', hl', hgen'.trans hgen, howner'.trans howner, hst'⟩
  · obtain ⟨l, hl, hst'⟩ := (halike b).2 id l' hl' hst
    rw [hoffer]
    exact hrec b l id hl hst'

theorem offerLaw_frame (h : OfferLaw s) (hcfg : t.cfg = s.cfg) (hoffers : t.offers = s.offers)
    (hbuf : t.buffers = s.buffers) : OfferLaw t := by
  simpa only [OfferLaw, offerAt, liveAt, genAt, recAt, hcfg, hoffers, hbuf] using h

/-- A record changes that stays OFFERED as it was. -/
theorem offerLaw_setLive (h : OfferLaw s)
    (hlive : ∀ l, liveAt s b = some l → SameOffer l l' ∧ l'.owner = l.owner)
    (hnew : liveAt s b = none → ∀ id, l'.st ≠ .offered id) : OfferLaw (setLive b l' s) := by
  refine offerLaw_of_alike h rfl (fun _ => rfl) fun c => ?_
  by_cases hc : c = b
  · subst hc
    cases hl : liveAt s c with
    | none =>
      refine offeredAlike_of_not (fun id k hk => by rw [hl] at hk; cases hk) fun id k hk => ?_
      rw [liveAt_setLive, if_pos rfl] at hk
      cases hk
      exact hnew hl id
    | some l =>
      obtain ⟨hsame, howner⟩ := hlive l hl
      refine ⟨fun id k hk hst => ?_, fun id k hk hst => ?_⟩
      · rw [hl] at hk
        cases hk
        exact ⟨genAt_setLive _ _ _ _, l', by rw [liveAt_setLive, if_pos rfl], howner, (hsame id).2 hst⟩
      · rw [liveAt_setLive, if_pos rfl] at hk
        cases hk
        exact ⟨l, hl, (hsame id).1 hst⟩
  · exact offeredAlike_of_eq (by rw [liveAt_setLive, if_neg hc]) (genAt_setLive _ _ _ _)

/-- An offer in use is freed and the record it names leaves OFFERED (R9, R125, R126). -/
theorem offerLaw_free (h : OfferLaw s) (ho : offerAt s id = some o) (hbuf : o.handle.buf = b)
    (hcfg : t.cfg = s.cfg) (hoffer : ∀ j, offerAt t j = if j = id then none else offerAt s j)
    (hlive : ∀ c, liveAt t c = if c = b then some l' else liveAt s c)
    (hgen : ∀ c, genAt t c = genAt s c) (hst : ∀ j, l'.st ≠ .offered j) : OfferLaw t := by
  obtain ⟨hticks, hin, hrec⟩ := h
  obtain ⟨-, -, l, hl, -, -, hstl⟩ := hin id o ho
  rw [hbuf] at hl
  refine ⟨hcfg ▸ hticks, fun j x hx => ?_, fun c k j hk hkst => ?_⟩
  · rw [hoffer] at hx
    split at hx
    · cases hx
    · next hj =>
      obtain ⟨hpos, hmax, k, hk, hgenk, howner, hkst⟩ := hin j x hx
      have hne : x.handle.buf ≠ b := fun hxb => by
        rw [hxb, hl] at hk
        cases hk
        rw [hstl] at hkst
        cases hkst
        exact hj rfl
      exact ⟨hpos, hmax, k, by rw [hlive, if_neg hne]; exact hk, (hgen _).trans hgenk, howner, hkst⟩
  · rw [hlive] at hk
    split at hk
    · cases hk
      exact absurd hkst (hst j)
    · next hc =>
      obtain ⟨x, hx, hxc⟩ := hrec c k j hk hkst
      refine ⟨x, ?_, hxc⟩
      rw [hoffer, if_neg]
      · exact hx
      · rintro rfl
        rw [ho] at hx
        cases hx
        exact hc (hxc.symm.trans hbuf)

theorem offerLaw_endOffer (h : OfferLaw s) (ho : offerAt s id = some o) :
    OfferLaw (Machine.endOffer id o s) := by
  obtain ⟨-, -, l, hl, -, -, hst⟩ := h.2.1 id o ho
  have heq : Machine.endOffer id o s =
      setLive o.handle.buf { l with st := .held noPorts } (setOffer id none s) := by
    simp [Machine.endOffer, hl, hst]
  rw [heq]
  refine offerLaw_free (l' := { l with st := .held noPorts }) h ho rfl rfl (fun j => ?_) (fun c => ?_)
    (fun c => ?_) fun j hj => by cases hj
  · rw [offerAt_setLive, offerAt_setOffer]
  · rw [liveAt_setLive, liveAt_setOffer]
  · rw [genAt_setLive, genAt_setOffer]

/-- An offer of a HELD record in a free entry (R123). -/
theorem offerLaw_makeOffer {kind : OfferKind} {q : Port} (h : OfferLaw s) (hl : liveAt s b = some l)
    (hheld : isHeld l = true) (hfree : offerAt s id = none) :
    OfferLaw (s |> setOffer id (some ⟨kind, l.owner, q, handleAt s b, s.cfg.offerTicks⟩)
      |> setLive b { l with st := .offered id, forced := none }) := by
  obtain ⟨hticks, hin, hrec⟩ := h
  obtain ⟨m, hm⟩ := isHeld_iff.1 hheld
  refine ⟨hticks, fun j x hx => ?_, fun c k j hk hst => ?_⟩
  · rw [offerAt_setLive, offerAt_setOffer] at hx
    split at hx
    · next hj =>
      cases hx
      refine ⟨hticks.1, hticks.2, { l with st := .offered id, forced := none }, ?_, ?_, rfl, hj ▸ rfl⟩
      · rw [liveAt_setLive]; exact if_pos rfl
      · rw [genAt_setLive]; rfl
    · obtain ⟨hpos, hmax, k, hk, hgen, howner, hst⟩ := hin j x hx
      have hne : x.handle.buf ≠ b := fun hxb => by
        rw [hxb, hl] at hk
        cases hk
        rw [hm] at hst
        cases hst
      refine ⟨hpos, hmax, k, ?_, ?_, howner, hst⟩
      · rw [liveAt_setLive, if_neg hne]; exact hk
      · rw [genAt_setLive]; exact hgen
  · rw [liveAt_setLive] at hk
    split at hk
    · next hc =>
      cases hk
      cases hst
      exact ⟨_, by rw [offerAt_setLive, offerAt_setOffer, if_pos rfl], hc.symm⟩
    · obtain ⟨x, hx, hxc⟩ := hrec c k j hk hst
      refine ⟨x, ?_, hxc⟩
      rw [offerAt_setLive, offerAt_setOffer, if_neg]
      · exact hx
      · rintro rfl
        rw [hfree] at hx
        cases hx

theorem offerLaw_countOffer {n : Nat} (h : OfferLaw s) (ho : offerAt s id = some o) (hpos : 1 ≤ n)
    (hle : n ≤ o.countdown) : OfferLaw (setOffer id (some { o with countdown := n }) s) := by
  obtain ⟨hticks, hin, hrec⟩ := h
  refine ⟨hticks, fun j x hx => ?_, fun c k j hk hst => ?_⟩
  · rw [offerAt_setOffer] at hx
    split at hx
    · next hj =>
      cases hx
      subst hj
      obtain ⟨-, hmax, hrest⟩ := hin j o ho
      exact ⟨hpos, hle.trans hmax, hrest⟩
    · exact hin j x hx
  · obtain ⟨x, hx, hxc⟩ := hrec c k j hk hst
    rw [offerAt_setOffer]
    split
    · next hj =>
      subst hj
      rw [ho] at hx
      cases hx
      exact ⟨_, rfl, hxc⟩
    · exact ⟨x, hx, hxc⟩

theorem offerLaw_empty (hticks : 1 ≤ t.cfg.offerTicks ∧ t.cfg.offerTicks ≤ 65535)
    (hoffer : ∀ id, offerAt t id = none) (hlive : ∀ b, liveAt t b = none) : OfferLaw t :=
  ⟨hticks, fun id o ho => (by rw [hoffer] at ho; cases ho),
    fun b l id hl => (by rw [hlive] at hl; cases hl)⟩

theorem offerLaw_retire (h : OfferLaw s) (hl : liveAt s b = some l)
    (hst : ∀ id, l.st ≠ .offered id) (cause : Cause) (caller : Option Port) :
    OfferLaw (Machine.retire b l' cause caller s) := by
  refine offerLaw_of_alike h rfl (fun _ => rfl) fun c => ?_
  by_cases hc : c = b
  · subst hc
    refine offeredAlike_of_not (fun id k hk => ?_) fun id k hk => ?_
    · rw [hl] at hk; cases hk; exact hst id
    · rw [Machine.retire, liveAt_setRec, if_pos rfl] at hk; cases hk
  · refine offeredAlike_of_eq ?_ ?_
    · rw [Machine.retire, liveAt_setRec, if_neg hc]; rfl
    · rw [Machine.retire, genAt_setRec, if_neg hc]; rfl

theorem offerLaw_act (h : Act s₀ begins s t) (h₀ : TableLaw s₀)
    (hpassed : PassedLaw s) (hs : OfferLaw s) : OfferLaw t := by
  have hsame : ∀ {b : BufNo} {l l' : Live}, liveAt s b = some l → l'.st = l.st → l'.owner = l.owner →
      OfferLaw (setLive b l' s) := fun hl hst howner => by
    refine offerLaw_setLive hs (fun k hk => ?_) fun hk => by rw [hl] at hk; cases hk
    rw [hl] at hk
    cases hk
    exact ⟨sameOffer_of_eq hst, howner⟩
  have hkept : ∀ {b : BufNo} {l l' : Live}, liveAt s b = some l → SameOffer l l' →
      l'.owner = l.owner → OfferLaw (setLive b l' s) := fun hl hoffer howner => by
    refine offerLaw_setLive hs (fun k hk => ?_) fun hk => by rw [hl] at hk; cases hk
    rw [hl] at hk
    cases hk
    exact ⟨hoffer, howner⟩
  cases h with
  | config cfg _ hoffer => exact ⟨hoffer hs.1, hs.2⟩
  | alloc p b n hd tl hvacant =>
    exact offerLaw_frame (offerLaw_setLive (b := b) (l' := newLive p (s.freeList.take n) hd tl) hs
      (fun k hk => by rw [hvacant] at hk; cases hk) fun _ id hid => by cases hid) rfl rfl rfl
  | extend b l n tl hl =>
    exact offerLaw_frame (hsame (l' := { l with length := l.length + n, tail := tl }) hl rfl rfl) rfl rfl
      rfl
  | trim b l n hl =>
    exact offerLaw_frame (hsame (l' := { l with
      length := l.length - n
      tail := (((chainOf s l).take (l.length - n)).getLast?).getD l.head }) hl rfl rfl) rfl rfl rfl
  | retire b l l' cause caller hl _ hoffer =>
    exact offerLaw_retire hs (hl h₀) (hoffer h₀ hs hpassed) cause caller
  | relive b l l' hl hbody _ hoffer => exact hkept (hl h₀) hoffer hbody.owner
  | handOver b l l' q hl hbody _ hoffer =>
    exact offerLaw_frame (hkept (hl h₀) hoffer hbody.owner) rfl rfl rfl
  | makeOffer kind q b l id hl hheld _ _ _ hfree => exact offerLaw_makeOffer hs hl hheld hfree
  | endOffer id o ho => exact offerLaw_endOffer hs (ho h₀)
  | countOffer id o n ho hpos hle => exact offerLaw_countOffer hs ho hpos hle
  | acceptLend p id o b l ho hbuf hl =>
    refine offerLaw_free (l' := { l with st := .lent p }) hs ho hbuf rfl (fun j => ?_) (fun c => ?_)
      (fun c => ?_) fun j hj => by cases hj
    · rw [offerAt_voidAt, offerAt_setLive, offerAt_setOffer]
    · rw [liveAt_voidAt, liveAt_setLive, liveAt_setOffer]
    · rw [genAt_voidAt, genAt_setLive, genAt_setOffer]
  | acceptGive p id o b l ho hbuf hl =>
    refine offerLaw_free (l' := { l with owner := p, st := .held noPorts }) hs ho hbuf rfl (fun j => ?_)
      (fun c => ?_) (fun c => ?_) fun j hj => by cases hj
    · rw [offerAt_voidAt, offerAt_unpublishAll, offerAt_raiseCounts, offerAt_lowerCounts,
        offerAt_setLive, offerAt_setOffer]
    · rw [liveAt_voidAt, liveAt_unpublishAll, liveAt_raiseCounts, liveAt_lowerCounts, liveAt_setLive,
        liveAt_setOffer]
    · rw [genAt_voidAt, genAt_unpublishAll, genAt_raiseCounts, genAt_lowerCounts, genAt_setLive,
        genAt_setOffer]
  | clearAll =>
    exact offerLaw_empty hs.1 (fun _ => rfl) (liveAt_clearedTable (s := s) rfl)
  | reset =>
    exact offerLaw_empty (by change 1 ≤ 1000 ∧ 1000 ≤ 65535; decide) (fun _ => rfl) fun _ => rfl
  | serve _ h =>
    obtain rfl | ⟨_, -, rfl⟩ | ⟨_, _, -, -, rfl⟩ | ⟨_, _, _, -, -, rfl⟩ := serveMover_cases h <;>
      exact offerLaw_frame hs rfl rfl rfl
  | startScrub => rw [startScrub_eq]; exact offerLaw_frame hs rfl rfl rfl
  | start | startTaken => rw [addWalk_eq]; exact offerLaw_frame hs rfl rfl rfl
  | _ => exact offerLaw_frame hs rfl rfl rfl

/-! ### Behind the active walk -/

/-- Every offer of `t` is one of `s` between the same ports. -/
def OffersAmong (s t : State) : Prop :=
  ∀ id o', offerAt t id = some o' → ∃ o, offerAt s id = some o ∧ o'.src = o.src ∧ o'.dst = o.dst

/-- Every revocation of kind TEARDOWN of `t` is one of `s`, or that of the active walk. -/
def RevocationsAmong (s t : State) : Prop :=
  ∀ b l' q, liveAt t b = some l' → l'.pendingRev = some ⟨.teardown, q⟩ →
    (∃ l, liveAt s b = some l ∧ l.pendingRev = some ⟨.teardown, q⟩) ∨ AtWalk s b q

theorem passedLaw_of_among (h : PassedLaw s) (hlist : t.walkList = s.walkList)
    (hphase : t.walkPhase = s.walkPhase) (hpos : t.walkPos = s.walkPos) (hoffers : OffersAmong s t)
    (hrevs : RevocationsAmong s t) : PassedLaw t := by
  refine ⟨fun p id o' hhead ho' hrel => ?_, fun b l' q hl' hr => ?_⟩
  · obtain ⟨o, ho, hsrc, hdst⟩ := hoffers id o' ho'
    rw [hlist] at hhead
    rw [hphase, hpos]
    exact h.1 p id o hhead ho (by simpa [offerRelated, hsrc, hdst] using hrel)
  · rw [hlist, hphase, hpos]
    obtain ⟨l, hl, hr⟩ | hwalk := hrevs b l' q hl' hr
    · exact h.2 b l q hl hr
    · exact hwalk

theorem offersAmong_of_eq (h : ∀ id, offerAt t id = offerAt s id) : OffersAmong s t :=
  fun id o ho => ⟨o, h id ▸ ho, rfl, rfl⟩

theorem revocationsAmong_of_eq (h : ∀ b, liveAt t b = liveAt s b) : RevocationsAmong s t :=
  fun b l _ hl hr => .inl ⟨l, h b ▸ hl, hr⟩

theorem passedLaw_frame (h : PassedLaw s) (hlist : t.walkList = s.walkList)
    (hphase : t.walkPhase = s.walkPhase) (hpos : t.walkPos = s.walkPos) (hoffers : t.offers = s.offers)
    (hbuf : t.buffers = s.buffers) : PassedLaw t :=
  passedLaw_of_among h hlist hphase hpos (offersAmong_of_eq fun id => by rw [offerAt, hoffers]; rfl)
    (revocationsAmong_of_eq fun b => by rw [liveAt, recAt, hbuf]; rfl)

/-- A record changes whose revocation of kind TEARDOWN, if any, it held before or the walk made. -/
theorem revocationsAmong_setLive
    (h : ∀ q, l'.pendingRev = some ⟨.teardown, q⟩ →
      (∃ l, liveAt s b = some l ∧ l.pendingRev = some ⟨.teardown, q⟩) ∨ AtWalk s b q)
    (hlive : ∀ c, liveAt t c = if c = b then some l' else liveAt s c) : RevocationsAmong s t := by
  intro c k q hk hr
  rw [hlive] at hk
  split at hk
  · next hc => cases hk; subst hc; exact h q hr
  · exact .inl ⟨k, hk, hr⟩

theorem offersAmong_free (h : ∀ j, offerAt t j = if j = id then none else offerAt s j) :
    OffersAmong s t := by
  intro j o ho
  rw [h] at ho
  split at ho
  · cases ho
  · exact ⟨o, ho, rfl, rfl⟩

theorem passedLaw_endOffer (h : PassedLaw s) : PassedLaw (Machine.endOffer id o s) := by
  have hfree : PassedLaw (setOffer id none s) :=
    passedLaw_of_among h rfl rfl rfl (offersAmong_free (id := id) fun j => offerAt_setOffer _ _ _ _)
      (revocationsAmong_of_eq fun _ => rfl)
  obtain h' | ⟨k, hk, -, h'⟩ := endOffer_cases id o s <;> rw [h']
  · exact hfree
  · exact passedLaw_of_among hfree rfl rfl rfl (offersAmong_of_eq fun _ => rfl)
      (revocationsAmong_setLive (l' := { k with st := .held noPorts }) (fun q hq => .inl ⟨k, hk, hq⟩)
        fun c => liveAt_setLive _ _ _ _)

theorem walkWaits_of_revocation {q : Port} (hphase : s.walkPhase = .buffers)
    (hpos : s.walkPos = b.val) (hl : liveAt s b = some l) (hr : l.pendingRev = some ⟨.teardown, q⟩) :
    walkWaits s = true := by
  have hb : bufNoOf s.walkPos = some b := bufNoOf_eq_some.2 hpos
  simp [walkWaits, hphase, hb, hl, hr]

theorem mem_offers_of_offerAt (ho : offerAt s id = some o) : (id.val, some o) ∈ s.offers := by
  have h := mem_of_tabGet (d := none) (t := s.offers) (n := id.val)
    (by change offerAt s id ≠ none; rw [ho]; simp)
  rwa [show tabGet none s.offers id.val = some o from ho] at h

theorem nextRelatedOffer_none {p : Port} {start : Nat} (h : nextRelatedOffer s p start = none)
    (ho : offerAt s id = some o) (hrel : offerRelated p o = true) : ¬ start ≤ id.val := by
  intro hstart
  have hnone := List.findSome?_eq_none_iff.1 h _ (mem_offers_of_offerAt ho)
  simp [offerNoOf_eq_some.2 rfl, hstart, hrel] at hnone

/-- The walk comes to the first offer from its position that names the port (R182). -/
theorem nextRelatedOffer_least {p : Port} {start : Nat} {j : OfferId} {x : Offer} (hlaw : TableLaw s)
    (h : nextRelatedOffer s p start = some (j, x)) (ho : offerAt s id = some o)
    (hrel : offerRelated p o = true) (hstart : start ≤ id.val) : j.val ≤ id.val := by
  obtain ⟨before, e, after, hlist, he, hbefore⟩ := List.findSome?_eq_some_iff.1 h
  have hj : e.1 = j.val := by
    split at he
    · next j' x' hj' _ =>
      split at he
      · cases he; exact offerNoOf_eq_some.1 hj'
      · cases he
    · cases he
  have hsorted : s.offers.Pairwise (fun x y => x.1 < y.1) := by
    have := hlaw.2.2
    simp only [tabWf, Bool.and_eq_true, decide_eq_true_eq] at this
    exact this.1
  have hmem := mem_offers_of_offerAt ho
  rw [hlist] at hmem hsorted
  obtain hmem | hmem := List.mem_append.1 hmem
  · have := hbefore _ hmem
    simp [offerNoOf_eq_some.2 rfl, hstart, hrel] at this
  · obtain hmem | hmem := List.mem_cons.1 hmem
    · rw [← hj, ← hmem]
    · rw [← hj]
      exact le_of_lt ((List.pairwise_cons.1 (List.pairwise_append.1 hsorted).2.1).1 _ hmem)

theorem passedLaw_start {p : Port} {c : TeardownCause} {w : Option Underway} (h : PassedLaw s) :
    PassedLaw (addWalk p (updPort p (startStepPort c) { s with underway := w })) := by
  have hplain : PassedLaw (updPort p (startStepPort c) { s with underway := w }) :=
    passedLaw_frame h rfl rfl rfl rfl rfl
  by_cases hlist : s.walkList = []
  · have hadd := addWalk_of_nil (s := updPort p (startStepPort c) { s with underway := w }) p hlist
    rw [hadd]
    refine ⟨fun q id o _ _ _ => ⟨rfl, Nat.zero_le _⟩, fun b l q hl hr => ?_⟩
    have := (h.2 b l q hl hr).1
    rw [hlist] at this
    cases this
  · have hadd := addWalk_of_ne_nil (s := updPort p (startStepPort c) { s with underway := w }) p hlist
    rw [hadd]
    have hhead : (s.walkList ++ [p]).head? = s.walkList.head? := List.head?_append_of_ne_nil _ hlist
    exact ⟨fun q id o hq => h.1 q id o (hhead ▸ hq), fun b l q hl hr => by
      change (s.walkList ++ [p]).head? = _ ∧ _
      rw [hhead]
      exact h.2 b l q hl hr⟩

theorem passedLaw_walkOffer {p : Port} (hlaw : TableLaw s) (h : PassedLaw s)
    (hhead : s.walkList.head? = some p) (hphase : s.walkPhase = .offers)
    (hnext : nextRelatedOffer s p s.walkPos = some (id, o)) : PassedLaw { s with walkPos := id.val } := by
  refine ⟨fun q j x hq hx hrel => ?_, fun b l q hl hr => ?_⟩
  · obtain rfl : p = q := Option.some.inj (hhead.symm.trans hq)
    exact ⟨hphase, nextRelatedOffer_least hlaw hnext hx hrel (h.1 p j x hhead hx hrel).2⟩
  · have := (h.2 b l q hl hr).2.1
    rw [hphase] at this
    cases this

theorem passedLaw_walkBuffer {p : Port} (h : PassedLaw s) (hwait : walkWaits s = false)
    (hhead : s.walkList.head? = some p)
    (hoffers : s.walkPhase = .offers → nextRelatedOffer s p s.walkPos = none) :
    PassedLaw { s with walkPhase := .buffers, walkPos := b.val } := by
  refine ⟨fun q j x hq hx hrel => ?_, fun c l q hl hr => ?_⟩
  · obtain rfl : p = q := Option.some.inj (hhead.symm.trans hq)
    obtain ⟨hphase, hpos⟩ := h.1 p j x hhead hx hrel
    exact absurd hpos (nextRelatedOffer_none (hoffers hphase) hx hrel)
  · obtain ⟨-, hphase, hpos⟩ := h.2 c l q hl hr
    rw [walkWaits_of_revocation hphase hpos hl hr] at hwait
    cases hwait

theorem passedLaw_endWalk {p : Port} (h : PassedLaw s) (hwait : walkWaits s = false) :
    PassedLaw (Machine.endWalk p s) := by
  refine ⟨fun q j x _ _ _ => ⟨rfl, Nat.zero_le _⟩, fun c l q hl hr => ?_⟩
  obtain ⟨-, hphase, hpos⟩ := h.2 c l q hl hr
  rw [walkWaits_of_revocation hphase hpos hl hr] at hwait
  cases hwait

/-- A port that acts for itself stands behind no walk: it is not in TEARDOWN, or no walk step of it
has been made. -/
theorem walk_before_acting {p : Port} (hwalk : WalkLaw s) (hunder : UnderwayLaw s)
    (hacting : Acting s p) (hhead : s.walkList.head? = some p) :
    s.walkPhase = .offers ∧ s.walkPos = 0 := by
  obtain hatt | ⟨slot, hslot⟩ := hacting
  · have hstate := (hwalk.2 p).1 (List.mem_of_mem_head? hhead)
    rw [attached, hstate] at hatt
    cases hatt
  · rw [UnderwayLaw, hslot] at hunder
    obtain ⟨-, -, -, -, -, -, hpos⟩ := hunder
    exact hpos hhead

theorem passedLaw_makeOffer {kind : OfferKind} {q : Port} (hwalk : WalkLaw s)
    (hunder : UnderwayLaw s) (h : PassedLaw s) (hl : liveAt s b = some l) (hsrc : Acting s l.owner)
    (hdst : attached s q = true) :
    PassedLaw (s |> setOffer id (some ⟨kind, l.owner, q, handleAt s b, s.cfg.offerTicks⟩)
      |> setLive b { l with st := .offered id, forced := none }) := by
  refine ⟨fun p j x hhead hx hrel => ?_, fun c k p hk hr => ?_⟩
  · rw [offerAt_setLive, offerAt_setOffer] at hx
    split at hx
    · cases hx
      have hacting : Acting s p := by
        simp only [offerRelated, Bool.or_eq_true, decide_eq_true_eq] at hrel
        obtain rfl | rfl := hrel
        · exact hsrc
        · exact .inl hdst
      obtain ⟨hphase, hpos⟩ := walk_before_acting hwalk hunder hacting hhead
      exact ⟨hphase, hpos ▸ Nat.zero_le _⟩
    · exact h.1 p j x hhead hx hrel
  · rw [liveAt_setLive] at hk
    split at hk
    · next hc => cases hk; subst hc; exact h.2 c l p hl hr
    · exact h.2 c k p hk hr

theorem passedLaw_empty (hlist : t.walkList = []) (hlive : ∀ b, liveAt t b = none) : PassedLaw t :=
  ⟨fun p id o h => (by rw [hlist] at h; cases h), fun b l q hl => (by rw [hlive] at hl; cases hl)⟩

theorem passedLaw_act (h : Act s₀ begins s t) (h₀ : TableLaw s₀) (htab : TableLaw s)
    (hwalk : WalkLaw s) (hunder : UnderwayLaw s) (hs : PassedLaw s) : PassedLaw t := by
  have hrecord : ∀ {v : State} {b : BufNo} {l l' : Live}, liveAt s b = some l →
      RevocationFrom s b l l' → v.walkList = s.walkList → v.walkPhase = s.walkPhase →
      v.walkPos = s.walkPos → OffersAmong s v →
      (∀ c, liveAt v c = if c = b then some l' else liveAt s c) → PassedLaw v :=
    fun hl hrev hlist hphase hpos hoffers hlive =>
      passedLaw_of_among hs hlist hphase hpos hoffers (revocationsAmong_setLive
        (fun q hq => (hrev q hq).imp_left fun hr => ⟨_, hl, hr⟩) hlive)
  cases h with
  | alloc p b n hd tl hvacant =>
    refine passedLaw_of_among hs rfl rfl rfl (offersAmong_of_eq fun _ => rfl)
      (revocationsAmong_setLive (b := b) (l' := newLive p (s.freeList.take n) hd tl)
        (fun q hq => by cases hq) fun c => ?_)
    rw [liveAt_raiseCounts, liveAt_setLive]
    rfl
  | extend b l n tl hl =>
    refine hrecord (l' := { l with length := l.length + n, tail := tl }) hl (revocationFrom_of_eq rfl)
      rfl rfl rfl (offersAmong_of_eq fun _ => rfl) fun c => ?_
    rw [liveAt_updPorts, liveAt_raiseCounts, liveAt_setLive]
    rfl
  | trim b l n hl =>
    refine hrecord (l' := { l with
        length := l.length - n
        tail := (((chainOf s l).take (l.length - n)).getLast?).getD l.head }) hl
      (revocationFrom_of_eq rfl) rfl rfl rfl (offersAmong_of_eq fun _ => rfl) fun c => ?_
    rw [liveAt_updPorts, liveAt_lowerCounts, liveAt_setLive]
    rfl
  | retire b l l' cause caller =>
    refine passedLaw_of_among hs rfl rfl rfl (offersAmong_of_eq fun _ => rfl) fun c k q hk hr => ?_
    rw [Machine.retire, liveAt_setRec] at hk
    split at hk
    · cases hk
    · exact .inl ⟨k, hk, hr⟩
  | relive b l l' hl _ _ _ hrev =>
    exact hrecord (hl h₀) hrev rfl rfl rfl (offersAmong_of_eq fun _ => rfl) fun c =>
      liveAt_setLive _ _ _ _
  | handOver b l l' q hl _ _ _ hrev =>
    exact hrecord (hl h₀) hrev rfl rfl rfl (offersAmong_of_eq fun _ => rfl) fun c => by
      rw [liveAt_voidAt, liveAt_setLive]
  | makeOffer kind q b l id hl _ _ hsrc hdst =>
    exact passedLaw_makeOffer hwalk hunder hs hl hsrc hdst
  | endOffer id o => exact passedLaw_endOffer hs
  | countOffer id o n ho =>
    refine passedLaw_of_among hs rfl rfl rfl (fun j x hx => ?_) (revocationsAmong_of_eq fun _ => rfl)
    rw [offerAt_setOffer] at hx
    split at hx
    · next hj => cases hx; exact ⟨o, hj ▸ ho, rfl, rfl⟩
    · exact ⟨x, hx, rfl, rfl⟩
  | acceptLend p id o b l _ _ hl =>
    exact hrecord (l' := { l with st := .lent p }) hl (revocationFrom_of_eq rfl) rfl rfl rfl
      (offersAmong_free (id := id) fun j => by
        rw [offerAt_voidAt, offerAt_setLive, offerAt_setOffer]) fun c => by
        rw [liveAt_voidAt, liveAt_setLive, liveAt_setOffer]
  | acceptGive p id o b l _ _ hl =>
    exact hrecord (l' := { l with owner := p, st := .held noPorts }) hl (revocationFrom_of_eq rfl) rfl
      rfl rfl (offersAmong_free (id := id) fun j => by
        rw [offerAt_voidAt, offerAt_unpublishAll, offerAt_raiseCounts, offerAt_lowerCounts,
          offerAt_setLive, offerAt_setOffer]) fun c => by
        rw [liveAt_voidAt, liveAt_unpublishAll, liveAt_raiseCounts, liveAt_lowerCounts, liveAt_setLive,
          liveAt_setOffer]
  | start p c => exact passedLaw_start (w := s.underway) hs
  | startTaken p c slot => exact passedLaw_start hs
  | walkOffer p id o _ hhead hphase hnext => exact passedLaw_walkOffer htab hs hhead hphase hnext
  | walkBuffer p b _ hwait hhead hoffers => exact passedLaw_walkBuffer hs hwait hhead hoffers
  | endWalk p _ hwait => exact passedLaw_endWalk hs hwait
  | clearAll => exact passedLaw_empty rfl (liveAt_clearedTable (s := s) rfl)
  | reset => exact passedLaw_empty rfl fun _ => rfl
  | serve _ h =>
    obtain rfl | ⟨_, -, rfl⟩ | ⟨_, _, -, -, rfl⟩ | ⟨_, _, _, -, -, rfl⟩ := serveMover_cases h <;>
      exact passedLaw_frame hs rfl rfl rfl rfl rfl
  | startScrub => rw [startScrub_eq]; exact passedLaw_frame hs rfl rfl rfl rfl rfl
  | _ => exact passedLaw_frame hs rfl rfl rfl rfl rfl

/-- The laws among which offers are kept, within a step from `s₀`. -/
structure OfferLaws (s₀ s : State) : Prop where
  tables : TableLaw s
  walk : WalkLaw s
  grant : GrantKept s₀ s
  underway : UnderwayLaw s
  offers : OfferLaw s
  passed : PassedLaw s

theorem offerLaws_act (h₀ : TableLaw s₀) (h : Act s₀ begins s t)
    (hs : OfferLaws s₀ s) : OfferLaws s₀ t :=
  ⟨tableLaw_act h hs.tables, walkLaw_act h hs.walk, grantKept_act h hs.grant,
    underwayLaw_act h hs.walk hs.grant hs.underway, offerLaw_act h h₀ hs.passed hs.offers,
    passedLaw_act h h₀ hs.tables hs.walk hs.underway hs.passed⟩

theorem EndsAs.offerLaws (hs : OfferLaws s s) (h : EndsAs s t) : OfferLaw t ∧ PassedLaw t := by
  have hchain : ∀ {u : State}, Acts s True s u → OfferLaw u ∧ PassedLaw u := fun hu =>
    have hlaws := hu.keep (fun _ _ huv => offerLaws_act hs.tables huv) hs
    ⟨hlaws.offers, hlaws.passed⟩
  cases h with
  | same => exact ⟨hs.offers, hs.passed⟩
  | inReset _ h => exact hchain h
  | done u h =>
    rw [arbitrate_eq]
    exact ⟨offerLaw_frame (hchain h).1 rfl rfl rfl, passedLaw_frame (hchain h).2 rfl rfl rfl rfl rfl⟩
  | handled r u _ h =>
    rw [endHandling_eq]
    exact ⟨offerLaw_frame (hchain h).1 rfl rfl rfl, passedLaw_frame (hchain h).2 rfl rfl rfl rfl rfl⟩

end

/-- Settles O55, by the actions of a step under the laws of the tables, the walk list and the handling
in progress. -/
theorem offersKept : Obligations.OffersKept := by
  unfold Obligations.OffersKept
  intro s t htab hwalk hunder hoffer hpassed ht
  obtain ⟨rest, hends⟩ := step_endsAs ht
  exact hends.offerLaws (s := { s with pending := rest })
    ⟨htab, hwalk, .inl rfl, underwayLaw_congr hunder rfl rfl rfl rfl rfl rfl rfl fun _ => rfl, hoffer,
      hpassed⟩

end Sys2Proof.Proofs

/-! The law of mapped windows, which every action keeps under the laws of the tables and of offers. -/

namespace Sys2Proof.Proofs

open Sys2Proof Sys2Proof.Machine Sys2Proof.Safety

section
variable {s₀ s t : State} {begins : Prop} {p q : Port} {b : BufNo} {l l' : Live} {m m' : Mapping}

theorem mappedLaw_iff : MappedLaw s ↔ ∀ p m, .mapped m ∈ slotsOf (portAt s p) → Backed s p m := by
  constructor
  · intro h p m hm
    obtain ⟨h0, h1, hsaved⟩ := h p
    obtain hm | hm | hm := mem_slotsOf.1 hm
    · rwa [← hm] at h0
    · rwa [← hm] at h1
    · rwa [← hm] at hsaved
  · intro h p
    have hslot : ∀ x ∈ slotsOf (portAt s p), SlotLaw s p x := by
      rintro (_ | m | m) hx
      · trivial
      · exact h p m hx
      · trivial
    exact ⟨hslot _ (by simp [slotsOf]), hslot _ (by simp [slotsOf]), hslot _ (by simp [slotsOf])⟩

/-- A mapping that its buffer backs names it by its current handle. -/
theorem Backed.handle_eq (h : Backed s p m) : m.handle = handleAt s m.handle.buf := by
  obtain ⟨l, -, hgen, -⟩ := h
  rw [handleAt, hgen]

/-- A live record keeps its generation, its length and what it allows a port. -/
def KeepsBacked (s t : State) (p : Port) (b : BufNo) : Prop :=
  ∀ l, liveAt s b = some l →
    ∃ l', liveAt t b = some l' ∧ genAt t b = genAt s b ∧ l'.length = l.length ∧ AccessKept l l' p

theorem Backed.of_kept (h : Backed s p m) (hmove : MovedTo m m')
    (hkeep : KeepsBacked s t p m.handle.buf) : Backed t p m' := by
  obtain ⟨l, hl, hgen, hlen, hpage, hallow⟩ := h
  obtain ⟨l', hl', hgen', hlen', haccess⟩ := hkeep l hl
  obtain ⟨hhandle, hmode, hcopy, hindex⟩ := hmove
  refine ⟨l', by rw [hhandle, hl'], by rw [hhandle, hgen', hgen], by rw [hcopy, hlen', hlen], ?_,
    haccess _ (hmode ▸ hallow)⟩
  rw [hlen']
  obtain hindex | hindex := hindex
  · rwa [hindex]
  · rwa [← hlen]

/-- Where no mapping is made, it is enough that each record keeps what the mappings left on it say. -/
theorem mappedLaw_of_slots (h : MappedLaw s) (hslots : ∀ p, SlotsFrom (portAt s p) (portAt t p))
    (hkeep : ∀ p m, .mapped m ∈ slotsOf (portAt t p) → m.handle = handleAt s m.handle.buf →
      KeepsBacked s t p m.handle.buf) : MappedLaw t := by
  refine mappedLaw_iff.2 fun p m' hm' => ?_
  obtain ⟨m, hm, hmove⟩ := hslots p m' hm'
  have hback := mappedLaw_iff.1 h p m hm
  exact hback.of_kept hmove (hmove.1 ▸ hkeep p m' hm' (hmove.1 ▸ hback.handle_eq))

theorem keepsBacked_of_rec (h : recAt t b = recAt s b) : KeepsBacked s t p b :=
  fun l hl => ⟨l, by rwa [liveAt, h], by rw [genAt, h]; rfl, rfl, fun _ => id⟩

/-- One record changes, at which each mapping left keeps what it says. -/
theorem mappedLaw_of_record (h : MappedLaw s) (hslots : ∀ p, SlotsFrom (portAt s p) (portAt t p))
    (hrec : ∀ c, c ≠ b → recAt t c = recAt s c)
    (hkeep : ∀ p m, .mapped m ∈ slotsOf (portAt t p) → m.handle = handleAt s b →
      KeepsBacked s t p b) : MappedLaw t := by
  refine mappedLaw_of_slots h hslots fun p m hm hhandle => ?_
  by_cases hb : m.handle.buf = b
  · subst hb; exact hkeep p m hm hhandle
  · exact keepsBacked_of_rec (hrec _ hb)

theorem mappedLaw_frame (h : MappedLaw s) (hports : t.ports = s.ports) (hbuf : t.buffers = s.buffers) :
    MappedLaw t := by
  have hport : ∀ p, portAt t p = portAt s p := fun p => by rw [portAt, hports]; rfl
  refine mappedLaw_of_slots h (fun p => hport p ▸ .refl _) fun p m _ _ => keepsBacked_of_rec ?_
  rw [recAt, hbuf]; rfl

theorem recAt_setLive_ne {c : BufNo} (hc : c ≠ b) : recAt (setLive b l s) c = recAt s c := by
  rw [setLive, recAt_setRec, if_neg hc]

theorem keepsBacked_setLive (hl : liveAt s b = some l) (hlen : l'.length = l.length)
    (hlive : liveAt t b = some l') (hgen : genAt t b = genAt s b) (haccess : AccessKept l l' p) :
    KeepsBacked s t p b := by
  intro k hk
  rw [hl] at hk
  cases hk
  exact ⟨l', hlive, hgen, hlen, haccess⟩

/-- A record changes, and no port loses access to it. -/
theorem mappedLaw_setLive (h : MappedLaw s) (hl : liveAt s b = some l) (hlen : l'.length = l.length)
    (haccess : ∀ p, AccessKept l l' p) : MappedLaw (setLive b l' s) :=
  mappedLaw_of_record h (fun _ => .refl _) (fun _ => recAt_setLive_ne) fun _ _ _ _ =>
    keepsBacked_setLive hl hlen (by rw [liveAt_setLive, if_pos rfl]) (genAt_setLive _ _ _ _) (haccess _)

/-! ### Slots that a void request, a length update and a trim request leave -/

theorem mem_slotsOf_onSlots {f : WindowSlot → WindowSlot} {y : WindowSlot} {hp : HostPort}
    (h : y ∈ slotsOf (onSlots f hp)) : ∃ x ∈ slotsOf hp, f x = y := by
  obtain h | h | h := mem_slotsOf.1 h
  · exact ⟨hp.w0, by simp [slotsOf], h.symm⟩
  · exact ⟨hp.w1, by simp [slotsOf], h.symm⟩
  · exact ⟨hp.saved, by simp [slotsOf], h.symm⟩

theorem voidSlot_eq_mapped {h : Handle} {x : WindowSlot} (hx : voidSlot h x = .mapped m) :
    x = .mapped m ∧ m.handle ≠ h := by
  cases x with
  | empty | void => cases hx
  | mapped n =>
    rw [voidSlot] at hx
    split at hx
    · cases hx
    · next hne => cases hx; exact ⟨rfl, hne⟩

theorem not_mapped_voided {h : Handle} {hp : HostPort}
    (hm : .mapped m ∈ slotsOf (onSlots (voidSlot h) hp)) : m.handle ≠ h := by
  obtain ⟨x, -, hx⟩ := mem_slotsOf_onSlots hm
  exact (voidSlot_eq_mapped hx).2

theorem slotsOf_takeAppend (n : Notice) (hp : HostPort) : slotsOf (takeAppend n hp) = slotsOf hp := by
  unfold takeAppend
  split_ifs <;> rfl

/-- A record changes and the slots on it of the one port that loses access are voided. -/
theorem mappedLaw_voidAt {v : State} (h : MappedLaw s) (hl : liveAt s b = some l)
    (hports : v.ports = s.ports) (hrec : ∀ c, recAt v c = recAt (setLive b l' s) c)
    (hlen : l'.length = l.length) (haccess : ∀ p, p ≠ q → AccessKept l l' p) :
    MappedLaw (voidAt q (handleAt s b) v) := by
  have hport : ∀ p, portAt v p = portAt s p := fun p => by rw [portAt, hports]; rfl
  have hrec' : ∀ c, recAt (voidAt q (handleAt s b) v) c = recAt (setLive b l' s) c := hrec
  refine mappedLaw_of_record h (b := b) (fun p => ?_) (fun c hc => ?_) fun p m hm hhandle => ?_
  · rw [portAt_voidAt, ← hport p]
    split
    · next hp => subst hp; exact (calm_onSlots_void _ _).slots
    · exact .refl _
  · rw [hrec', recAt_setLive_ne hc]
  · rw [portAt_voidAt] at hm
    split at hm
    · exact absurd hhandle (not_mapped_voided hm)
    · next hp =>
      refine keepsBacked_setLive hl hlen ?_ ?_ (haccess p hp)
      · rw [liveAt, hrec', ← liveAt, liveAt_setLive, if_pos rfl]
      · rw [genAt, hrec', ← genAt, genAt_setLive]

theorem mappedLaw_retire (h : MappedLaw s) (cause : Cause) (caller : Option Port) :
    MappedLaw (Machine.retire b l cause caller s) := by
  refine mappedLaw_of_record h (b := b) (fun p => (calm_retire b l cause caller p).slots)
    (fun c hc => by rw [Machine.retire, recAt_setRec, if_neg hc]; rfl) fun p m hm hhandle => ?_
  simp only [Machine.retire, revokeAll, portAt_setRec, portAt_lowerCounts, portAt_scrubPages,
    portAt_unpublishAll, portAt_updPorts] at hm
  refine absurd hhandle (not_mapped_voided (hp := portAt s p) ?_)
  split at hm
  · rwa [slotsOf_takeAppend] at hm
  · exact hm

theorem lengthSlot_eq_mapped {h : Handle} {n : Nat} {x : WindowSlot}
    (hx : lengthSlot h n x = .mapped m') : ∃ m, x = .mapped m ∧
      (m.handle = h ∧ m' = { m with lengthCopy := n } ∨ m.handle ≠ h ∧ m' = m) := by
  cases x with
  | empty | void => cases hx
  | mapped m =>
    refine ⟨m, rfl, ?_⟩
    rw [lengthSlot] at hx
    split at hx
    · next hh => cases hx; exact .inl ⟨hh, rfl⟩
    · next hh => cases hx; exact .inr ⟨hh, rfl⟩

theorem trimSlot_eq_mapped {h : Handle} {n : Nat} {x : WindowSlot}
    (hx : trimSlot h n x = .mapped m') : ∃ m, x = .mapped m ∧
      (m.handle = h ∧ m.pageIndex < n ∧ m' = { m with lengthCopy := n } ∨ m.handle ≠ h ∧ m' = m) := by
  cases x with
  | empty | void => cases hx
  | mapped m =>
    refine ⟨m, rfl, ?_⟩
    rw [trimSlot] at hx
    split at hx
    · next hh =>
      split at hx
      · cases hx
      · next hlt => cases hx; exact .inl ⟨hh, by omega, rfl⟩
    · next hh => cases hx; exact .inr ⟨hh, rfl⟩

/-- A record takes a new length, and each mapping on it that is left takes it too and lies within it;
the other mappings stay. -/
theorem mappedLaw_resize {n : Nat} (h : MappedLaw s) (hl : liveAt s b = some l)
    (hlive : liveAt t b = some l') (hgen : genAt t b = genAt s b)
    (hrec : ∀ c, c ≠ b → recAt t c = recAt s c) (hlen : l'.length = n)
    (haccess : ∀ p, AccessKept l l' p)
    (hslots : ∀ p m', .mapped m' ∈ slotsOf (portAt t p) → ∃ m, .mapped m ∈ slotsOf (portAt s p) ∧
      (m.handle = handleAt s b ∧ (m.pageIndex < l.length → m.pageIndex < n) ∧
        m' = { m with lengthCopy := n } ∨ m.handle ≠ handleAt s b ∧ m' = m)) : MappedLaw t := by
  refine mappedLaw_iff.2 fun p m' hm' => ?_
  obtain ⟨m, hm, hcase⟩ := hslots p m' hm'
  have hback := mappedLaw_iff.1 h p m hm
  obtain ⟨hhandle, hpage, rfl⟩ | ⟨hne, rfl⟩ := hcase
  · have hbuf : m.handle.buf = b := by rw [hhandle]; rfl
    obtain ⟨k, hk, hgen', -, hindex, hallow⟩ := hback
    rw [hbuf, hl] at hk
    cases hk
    exact ⟨l', by simpa only [hbuf] using hlive, by simpa only [hbuf, hgen] using hbuf ▸ hgen', hlen.symm,
      hlen ▸ hpage hindex, haccess p _ hallow⟩
  · refine hback.of_kept (.refl m') (keepsBacked_of_rec (hrec _ fun hbuf => hne ?_))
    rw [hback.handle_eq, hbuf]

theorem accessKept_makeOffer {id : OfferId} (hheld : isHeld l = true)
    (hshare : isEmptySet (shareOf l) = true) (p : Port) :
    AccessKept l { l with st := .offered id, forced := none } p := by
  intro mode hmode
  unfold access at hmode ⊢
  cases hst : l.st with
  | held share =>
    have hnone : perGet share p = false := by
      have hempty : ∀ x, perGet share x = false := by
        obtain ⟨⟨⟨ha, hb⟩, hc⟩, hd⟩ : ((share.a = false ∧ share.b = false) ∧ share.c = false) ∧
            share.d = false := by simpa [isEmptySet, shareOf, hst] using hshare
        intro x
        cases x <;> assumption
      exact hempty p
    simp only [hst, hnone] at hmode ⊢
    split at hmode
    · next h => simpa [h] using hmode
    · cases mode <;> cases hmode
  | offered | lent | recalling => simp [isHeld, hst] at hheld

/-- Only the owner has access to an OFFERED record. -/
theorem accessKept_of_offered {id : OfferId} (hst : l.st = .offered id) (hp : p ≠ l.owner) :
    AccessKept l l' p := by
  intro mode hmode
  rw [access, hst, if_neg (Ne.symm hp)] at hmode
  cases mode <;> cases hmode

theorem accessKept_endOffer {id : OfferId} (hst : l.st = .offered id) (p : Port) :
    AccessKept l { l with st := .held noPorts } p := by
  by_cases hp : p = l.owner
  · intro mode _
    subst hp
    simp [access, allows]
  · exact accessKept_of_offered hst hp

theorem mappedLaw_bare (h : MappedLaw s) (hbuf : t.buffers = s.buffers)
    (hports : ∀ q, portAt t q = portAt s q ∨ Bare (portAt t q)) : MappedLaw t := by
  refine mappedLaw_of_slots h (fun q => ?_) fun q m _ _ => keepsBacked_of_rec (by rw [recAt, hbuf]; rfl)
  obtain hq | ⟨h0, h1, hsaved, -⟩ := hports q
  · rw [hq]; exact .refl _
  · intro m hm
    simp [mem_slotsOf, h0, h1, hsaved] at hm

theorem mappedLaw_empty (h : ∀ p, Bare (portAt t p)) : MappedLaw t := by
  intro p
  obtain ⟨h0, h1, hsaved, -⟩ := h p
  rw [h0, h1, hsaved]
  exact ⟨trivial, trivial, trivial⟩

theorem slotsOf_takeInstall {w : Window} {hp : HostPort} {x : WindowSlot}
    (h : x ∈ slotsOf (takeInstall w m hp)) : x ∈ slotsOf hp ∨ x = .mapped m := by
  unfold takeInstall at h
  split at h
  · cases w <;> simp only [putSlot, mem_slotsOf] at h ⊢ <;> tauto
  · exact .inl h

theorem mappedLaw_install {w : Window} (h : MappedLaw s) (hback : Backed s p m) :
    MappedLaw (updPort p (takeInstall w m) s) := by
  refine mappedLaw_iff.2 fun q n hn => ?_
  have hframe : ∀ {n}, Backed s q n → Backed (updPort p (takeInstall w m) s) q n := id
  rw [portAt_updPort] at hn
  split at hn
  · next hq =>
    subst hq
    obtain hn | hn := slotsOf_takeInstall hn
    · exact hframe (mappedLaw_iff.1 h _ n hn)
    · cases hn; exact hframe hback
  · exact hframe (mappedLaw_iff.1 h q n hn)

theorem portAt_start {c : TeardownCause} {w : Option Underway} :
    portAt (addWalk p (updPort p (startStepPort c) { s with underway := w })) q = portAt s q ∨
      Bare (portAt (addWalk p (updPort p (startStepPort c) { s with underway := w })) q) := by
  rw [portAt_addWalk, portAt_updPort]
  split
  · exact .inr (bare_startStepPort c _)
  · exact .inl rfl

theorem mappedLaw_updPort {f : HostPort → HostPort} (h : MappedLaw s)
    (hslots : SlotsFrom (portAt s p) (f (portAt s p))) : MappedLaw (updPort p f s) := by
  refine mappedLaw_of_slots h (fun q => ?_) fun q m _ _ => keepsBacked_of_rec rfl
  rw [portAt_updPort]
  split
  · next hq => subst hq; exact hslots
  · exact .refl _

/-- EXTEND (R89): each slot on the buffer takes its new length. -/
theorem mappedLaw_extend {n : Nat} {tl : PageNo} (h : MappedLaw s) (hl : liveAt s b = some l) :
    MappedLaw (s |> takeAndChain b (some l.tail) n
      |> setLive b { l with length := l.length + n, tail := tl } |> raiseCounts l.owner 0 n
      |> updPorts (fun _ => onSlots (lengthSlot (handleAt s b) (l.length + n)))) := by
  refine mappedLaw_resize (n := l.length + n) (l' := { l with length := l.length + n, tail := tl }) h hl
    ?_ ?_ (fun c hc => ?_) rfl (fun _ _ => id) fun p m' hm' => ?_
  · rw [liveAt_updPorts, liveAt_raiseCounts, liveAt_setLive, if_pos rfl]
  · rw [genAt_updPorts, genAt_raiseCounts, genAt_setLive]; rfl
  · exact recAt_setLive_ne (s := takeAndChain b (some l.tail) n s) hc
  · rw [portAt_updPorts] at hm'
    obtain ⟨x, hx, hslot⟩ := mem_slotsOf_onSlots hm'
    obtain ⟨m, rfl, ⟨hh, rfl⟩ | hkept⟩ := lengthSlot_eq_mapped hslot
    · exact ⟨m, hx, .inl ⟨hh, fun _ => by omega, rfl⟩⟩
    · exact ⟨m, hx, .inr hkept⟩

theorem slotsOf_trimPort (caller : Port) (h : Handle) (n : Nat) (q : Port) (hp : HostPort) :
    slotsOf (trimPort caller h n q hp) = slotsOf (onSlots (trimSlot h n) hp) := by
  unfold trimPort
  dsimp only
  split
  · exact slotsOf_takeAppend _ _
  · rfl

/-- TRIM (R91): each slot on a page that is left takes the new length, the others are voided. -/
theorem mappedLaw_trim {n : Nat} {tl : PageNo} {pages : List PageNo} (h : MappedLaw s)
    (hl : liveAt s b = some l) :
    MappedLaw (s |> scrubPages pages |> cutChain b tl
      |> setLive b { l with length := l.length - n, tail := tl } |> lowerCounts l.owner 0 n
      |> updPorts (trimPort l.owner (handleAt s b) (l.length - n))) := by
  refine mappedLaw_resize (n := l.length - n) (l' := { l with length := l.length - n, tail := tl }) h hl
    ?_ ?_ (fun c hc => ?_) rfl (fun _ _ => id) fun p m' hm' => ?_
  · rw [liveAt_updPorts, liveAt_lowerCounts, liveAt_setLive, if_pos rfl]
  · rw [genAt_updPorts, genAt_lowerCounts, genAt_setLive]; rfl
  · exact recAt_setLive_ne (s := cutChain b tl (scrubPages pages s)) hc
  · rw [portAt_updPorts, slotsOf_trimPort] at hm'
    obtain ⟨x, hx, hslot⟩ := mem_slotsOf_onSlots hm'
    obtain ⟨m, rfl, ⟨hh, hpage, rfl⟩ | hkept⟩ := trimSlot_eq_mapped hslot
    · exact ⟨m, hx, .inl ⟨hh, fun _ => hpage, rfl⟩⟩
    · exact ⟨m, hx, .inr hkept⟩

theorem mappedLaw_act (h : Act s₀ begins s t) (h₀ : TableLaw s₀ ∧ OfferLaw s₀) (hs : MappedLaw s) :
    MappedLaw t := by
  obtain ⟨htab, hoffers⟩ := h₀
  cases h with
  | calm ports h => exact mappedLaw_of_slots hs (fun p => (h p).slots) fun p m _ _ => keepsBacked_of_rec rfl
  | attach p h => exact mappedLaw_updPort hs (.of_slots_eq rfl)
  | start p c => exact mappedLaw_bare hs (by rw [addWalk_eq]; rfl) fun q => portAt_start (w := s.underway)
  | startTaken p c => exact mappedLaw_bare hs (by rw [addWalk_eq]; rfl) fun q => portAt_start
  | endWalk p =>
    exact mappedLaw_updPort (s := { s with walkList := s.walkList.tail, walkPhase := .offers, walkPos := 0 })
      (mappedLaw_frame hs rfl rfl) (.of_slots_eq rfl)
  | alloc p b n hd tl hvacant =>
    refine mappedLaw_of_record hs (b := b) (fun _ => .refl _) (fun c hc => ?_) fun q m _ _ l hl => ?_
    · exact recAt_setLive_ne (s := takeAndChain b none n s) hc
    · rw [hvacant] at hl; cases hl
  | extend b l n tl hl => exact mappedLaw_extend hs hl
  | trim b l n hl => exact mappedLaw_trim hs hl
  | retire b l l' cause caller => exact mappedLaw_retire hs cause caller
  | install p w m hback => exact mappedLaw_install hs hback
  | relive b l l' hl hbody haccess => exact mappedLaw_setLive hs (hl htab) hbody.length haccess
  | handOver b l l' q hl hbody haccess =>
    exact mappedLaw_voidAt (v := setLive b l' s) hs (hl htab) rfl (fun _ => rfl) hbody.length haccess
  | makeOffer kind q b l id hl hheld hshare =>
    exact mappedLaw_frame (mappedLaw_setLive (l' := { l with st := .offered id, forced := none }) hs hl rfl
      (accessKept_makeOffer hheld hshare)) rfl rfl
  | endOffer id o =>
    obtain h | ⟨l, hl, hst, h⟩ := endOffer_cases id o s <;> rw [h]
    · exact mappedLaw_frame hs rfl rfl
    · exact mappedLaw_frame (mappedLaw_setLive (l' := { l with st := .held noPorts }) hs hl rfl
        (accessKept_endOffer hst)) rfl rfl
  | acceptLend p id o b l _ _ hl hst =>
    exact mappedLaw_voidAt (l' := { l with st := .lent p }) hs hl rfl (fun _ => rfl) rfl
      fun q hq => accessKept_of_offered (hst hoffers) hq
  | acceptGive p id o b l _ _ hl hst =>
    exact mappedLaw_voidAt (l' := { l with owner := p, st := .held noPorts }) hs hl rfl (fun _ => rfl) rfl
      fun q hq => accessKept_of_offered (hst hoffers) hq
  | clearAll => exact mappedLaw_empty fun p => by cases p <;> exact ⟨rfl, rfl, rfl, rfl, rfl, rfl⟩
  | reset => exact mappedLaw_empty fun p => by cases p <;> exact ⟨rfl, rfl, rfl, rfl, rfl, rfl⟩
  | serve _ h =>
    obtain rfl | ⟨_, -, rfl⟩ | ⟨_, _, -, -, rfl⟩ | ⟨_, _, _, -, -, rfl⟩ := serveMover_cases h <;>
      exact mappedLaw_frame hs rfl rfl
  | startScrub => rw [startScrub_eq]; exact mappedLaw_frame hs rfl rfl
  | _ => exact mappedLaw_frame hs rfl rfl

/-- Only one port has the access that a mapping of mode WRITE needs (R13). -/
theorem writer_unique (hp : allows (access l p) .write = true) (hq : allows (access l q) .write = true) :
    p = q := by
  have hown : ∀ r, allows (access l r) .write = true → access l r = .readWrite := fun r hr => by
    cases h : access l r with
    | none | read => rw [h] at hr; cases hr
    | readWrite => rfl
  have hp' := hown p hp
  have hq' := hown q hq
  unfold access at hp' hq'
  cases hst : l.st <;> simp only [hst] at hp' hq' <;> split_ifs at hp' hq' <;> simp_all

end

/-- Settles O56, by the actions of a step under the laws of the tables and of offers; and by the access
that a mapping of mode WRITE needs. -/
theorem mappedWindowsKept : Obligations.MappedWindowsKept := by
  unfold Obligations.MappedWindowsKept
  refine ⟨fun _ _ htab hoffers => step_keeps_under (P := fun s => TableLaw s ∧ OfferLaw s)
    (fun _ _ h => ⟨h.1, offerLaw_frame h.2 rfl rfl rfl⟩) (fun _ _ _ _ h => mappedLaw_frame h rfl rfl)
    (fun _ _ _ h₀ h => mappedLaw_act h h₀) ⟨htab, hoffers⟩, ?_⟩
  rintro s p q _ _ m n hs hx hy rfl rfl hm hn hbuf
  obtain ⟨l, hl, -, -, -, hp⟩ := mappedLaw_iff.1 hs p m hx
  obtain ⟨l', hl', -, -, -, hq⟩ := mappedLaw_iff.1 hs q n hy
  rw [← hbuf, hl] at hl'
  cases hl'
  exact writer_unique (hm ▸ hp) (hn ▸ hq)

end Sys2Proof.Proofs

/-! The step and the laws at reset. -/

namespace Sys2Proof.Proofs

open Sys2Proof Sys2Proof.Machine Sys2Proof.Safety

/-- Settles O1: the queue's front is the command that a step takes. -/
theorem stepTakesTheFront : Obligations.StepTakesTheFront := by
  unfold Obligations.StepTakesTheFront
  exact fun c rest s => step_cons { s with pending := c :: rest } c rest rfl

/-- Every Host Port of the state after reset is DETACHED and bare. -/
theorem portAt_reset (p : Port) :
    (portAt State.reset p).state = .detached ∧ Bare (portAt State.reset p) := by
  cases p <;> exact ⟨rfl, rfl, rfl, rfl, rfl, rfl, rfl⟩

/-- After reset no requester presents a request. -/
theorem grantable_reset (r : Requester) : grantable State.reset r = false := by
  cases r with
  | port p => cases p <;> rfl
  | tick | teardown | jobEnd | maintenance => rfl

/-- Settles O60: after reset every table, list and queue is empty, every page waits for its scrub step,
and no requester presents a request. -/
theorem resetObeysTheLaws : Obligations.ResetObeysTheLaws := by
  unfold Obligations.ResetObeysTheLaws
  have hlive : ∀ b, liveAt State.reset b = none := fun _ => rfl
  have hpage : State.reset.page = none := rfl
  refine ⟨?queues, rangeLaw_reset, ?memory, ?cleared, ⟨rfl, rfl, rfl⟩, ?pages, ?walk, trivial,
    fun p _ => (portAt_reset p).2, ?offers, passedLaw_empty rfl hlive,
    mappedLaw_empty fun p => (portAt_reset p).2, directoryLaw_empty rfl, countLaw_empty rfl hlive, ?arbiter⟩
  case queues =>
    intro p
    obtain ⟨-, -, -, -, hqueue, -⟩ := portAt_reset p
    rw [hqueue]
    exact Nat.zero_le _
  case memory => exact memoryLaw_of_page wf_reset (by simp [hpage]) (by simp [hpage])
  case cleared => exact fun pg h => by simp [hpage, show State.reset.freeList = [] from rfl] at h
  case pages => exact pageLaw_empty rfl rfl rfl rfl hlive
  case walk =>
    exact ⟨List.nodup_nil, fun p => by simp [(portAt_reset p).1, show State.reset.walkList = [] from rfl]⟩
  case offers =>
    exact offerLaw_empty ⟨by norm_num [State.reset, Cfg.reset], by norm_num [State.reset, Cfg.reset]⟩
      (fun _ => rfl) hlive
  case arbiter => exact fun _ => ⟨fun r h => (nomatch h), fun _ r => grantable_reset r⟩

end Sys2Proof.Proofs

/-! What every command does in every state: it is no refusal, it leaves the queue, it does nothing in
reset, and only a transfer of the Page Memory can stop it. -/

namespace Sys2Proof.Proofs

open Sys2Proof Sys2Proof.Machine Sys2Proof.Safety

section
variable {s t : State} {o : Host.Outcome State Fault Refusal} {p : Port}

/-- An outcome that is no refusal, and in reset the state as it was. -/
structure Tame (s : State) (o : Host.Outcome State Fault Refusal) : Prop where
  inReset : s.rst = true → o = .next s
  unrefused : ∀ r, o ≠ .refused r

/-- An outcome that is a next state, and in reset the state as it was. -/
structure Total (s : State) (o : Host.Outcome State Fault Refusal) : Prop where
  inReset : s.rst = true → o = .next s
  next : ∃ t, o = .next t

/-- The commands that make or wait for a transfer of the Page Memory (R29, log 25). -/
def Transfers (c : Instr) : Prop :=
  (∃ p k acc, c = .w0DirectViewAccess p k acc) ∨ (∃ p w acc, c = .cursorDataPortAccess p w acc) ∨
    (∃ p off v, c = .hostLocationWrite p off v ∧
      (off.val < 64 ∨ off.val = 0x40 ∨ off.val = 0x44)) ∨ c = .scrubStepEnd ∨ c = .copyPageReadEnd ∨
    c = .copyPageWriteEnd ∨ c = .hold ∨ c = .readMem ∨ c = .writeMem

/-- The commands that are taken in reset (log 22). -/
def TakenInReset (c : Instr) : Prop :=
  c = .rstRelease ∨ (∃ p, c = .prstAssertion p) ∨ ∃ p, c = .prstDeassertion p

theorem Total.tame (h : Total s o) : Tame s o := by
  obtain ⟨hreset, t, rfl⟩ := h
  exact ⟨hreset, fun r => nofun⟩

theorem total_outsideReset (u : State) : Total s (if s.rst then .next s else done u) := by
  refine ⟨fun h => if_pos h, ?_⟩
  split
  · exact ⟨_, rfl⟩
  · exact ⟨_, rfl⟩

theorem total_hostStep (f : State → State) : Total s (hostStep s f) := total_outsideReset (f s)

theorem granted_of_reset (h : s.rst = true) (r : Requester) : granted s r = false := by
  simp [granted, h]

theorem total_handling (r : Requester) (f : State → State) : Total s (handling r s f) := by
  unfold handling
  refine ⟨fun h => if_neg (by simp [granted_of_reset h]), ?_⟩
  split <;> exact ⟨_, rfl⟩

theorem total_portHandling (p : Port) (c : Option Command) (f : State → State) :
    Total s (portHandling p c s f) := by
  unfold portHandling
  refine ⟨fun h => ?_, ?_⟩
  · split <;> exact if_neg (by simp [granted_of_reset h])
  · split <;> split <;> exact ⟨_, rfl⟩

theorem total_maintHandling (r : Request) (f : List Byte → MaintAnswer) :
    Total s (maintHandling r s fun ps => some (f ps)) := by
  unfold maintHandling
  refine ⟨fun h => ?_, ?_⟩
  · split
    · rfl
    · exact if_neg (by simp [granted_of_reset h])
  · split
    · exact ⟨_, rfl⟩
    · split <;> exact ⟨_, rfl⟩

theorem total_maintService (r : Request) (f : List Byte → MaintAnswer) :
    Total s (maintService r s fun ps => some (f ps)) := by
  unfold maintService
  refine ⟨fun h => ?_, ?_⟩
  · split
    · rfl
    · exact if_pos h
  · split
    · exact ⟨_, rfl⟩
    · split <;> exact ⟨_, rfl⟩

theorem doneOrStuck_ne_refused (u : Option State) (r : Refusal) : doneOrStuck u ≠ .refused r := by
  cases u <;> exact nofun

theorem tame_outsideReset {e : Host.Outcome State Fault Refusal} (h : ∀ r, e ≠ .refused r) :
    Tame s (if s.rst then .next s else e) := by
  refine ⟨fun hrst => if_pos hrst, fun r => ?_⟩
  split
  · exact nofun
  · exact h r

theorem tame_maintHandling (r : Request) (f : List Byte → Option MaintAnswer) :
    Tame s (maintHandling r s f) := by
  unfold maintHandling
  refine ⟨fun h => ?_, fun r => ?_⟩
  · split
    · rfl
    · exact if_neg (by simp [granted_of_reset h])
  · split
    · exact nofun
    · split
      · split <;> exact nofun
      · exact nofun

theorem tame_maintService (r : Request) (f : List Byte → Option MaintAnswer) :
    Tame s (maintService r s f) := by
  unfold maintService
  refine ⟨fun h => ?_, fun r => ?_⟩
  · split
    · rfl
    · exact if_pos h
  · split
    · exact nofun
    · split
      · exact nofun
      · exact doneOrStuck_ne_refused _ r

theorem directViewAccess_ne_refused (k : Fin 64) (acc : Access) (r : Refusal) :
    directViewAccess p k acc s ≠ .refused r := by
  unfold directViewAccess
  split
  · exact nofun
  · exact nofun
  · split
    · exact nofun
    · exact doneOrStuck_ne_refused _ r

theorem dataPortAccess_ne_refused (w : Window) (acc : Access) (r : Refusal) :
    dataPortAccess p w acc s ≠ .refused r := by
  unfold dataPortAccess
  split
  · exact nofun
  · exact nofun
  · split
    · exact nofun
    · split
      · exact nofun
      · exact doneOrStuck_ne_refused _ r

theorem chosenKind_of_reset (h : s.rst = true) : chosenKind s = none := by
  simp [chosenKind, h]

theorem total_hostLocationWrite {off : Fin 128} (v : Byte)
    (h : ¬(off.val < 64 ∨ off.val = 0x40 ∨ off.val = 0x44)) :
    Total s (exec (.hostLocationWrite p off v) s) := by
  have hexec : exec (.hostLocationWrite p off v) s =
      if s.rst then .next s else done (writeLocation p off.val v s) := by
    simp only [not_or] at h
    obtain ⟨hlow, h0, h1⟩ := h
    simp only [exec, execHostLocationWrite, locationWrite, dif_neg hlow, if_neg h0, if_neg h1]
  rw [hexec]
  exact total_outsideReset _

theorem tame_hostLocationWrite (off : Fin 128) (v : Byte) :
    Tame s (exec (.hostLocationWrite p off v) s) := by
  refine tame_outsideReset fun r => ?_
  unfold locationWrite
  split
  · exact directViewAccess_ne_refused _ _ r
  · split
    · exact dataPortAccess_ne_refused _ _ r
    · split
      · exact dataPortAccess_ne_refused _ _ r
      · exact nofun

/-- Whatever the state, a command answers a next state, or waits for a transfer, or is one of the three
that are taken in reset. -/
theorem exec_shape (c : Instr) (s : State) :
    Total s (exec c s) ∨ Transfers c ∧ Tame s (exec c s) ∨
      TakenInReset c ∧ ∃ t, exec c s = .next t := by
  cases c with
  | w0DirectViewAccess p k acc =>
    exact .inr (.inl ⟨.inl ⟨p, k, acc, rfl⟩, tame_outsideReset (directViewAccess_ne_refused k acc)⟩)
  | cursorDataPortAccess p w acc =>
    exact .inr (.inl ⟨.inr (.inl ⟨p, w, acc, rfl⟩), tame_outsideReset (dataPortAccess_ne_refused w acc)⟩)
  | hostLocationWrite p off v =>
    by_cases h : off.val < 64 ∨ off.val = 0x40 ∨ off.val = 0x44
    · exact .inr (.inl ⟨.inr (.inr (.inl ⟨p, off, v, rfl, h⟩)), tame_hostLocationWrite off v⟩)
    · exact .inl (total_hostLocationWrite v h)
  | scrubStepEnd | copyPageReadEnd | copyPageWriteEnd =>
    exact .inr (.inl ⟨by simp [Transfers], tame_outsideReset (doneOrStuck_ne_refused _)⟩)
  | hold | writeMem => exact .inr (.inl ⟨by simp [Transfers], tame_maintHandling _ _⟩)
  | readMem => exact .inr (.inl ⟨by simp [Transfers], tame_maintService _ _⟩)
  | rstRelease =>
    refine .inr (.inr ⟨.inl rfl, ?_⟩)
    simp only [exec, execRstRelease]
    split <;> exact ⟨_, rfl⟩
  | prstAssertion p =>
    refine .inr (.inr ⟨.inr (.inl ⟨p, rfl⟩), ?_⟩)
    simp only [exec, execPrstAssertion]
    split <;> exact ⟨_, rfl⟩
  | prstDeassertion p =>
    refine .inr (.inr ⟨.inr (.inr ⟨p, rfl⟩), ?_⟩)
    simp only [exec, execPrstDeassertion]
    split <;> exact ⟨_, rfl⟩
  | cursorWrite | pageIndexWrite | unmap | swap | clearOvr | postCommand | acknowledge | cancel | pop
  | attentionEnablesWrite | clearFaultRecord | bothStrobesCycle => exact .inl (total_hostStep _)
  | attach p => exact .inl (total_portHandling p _ fun s => completeAnswer p s (attachAnswer p s))
  | badCommand | detach | clearFault | clearLost | alloc | extend | trim | free | info | map
  | share | unshare | leave | publish | unpublish | lookup | nextName | subscribe | lend | give | accept
  | decline | withdraw | returnBuffer | copy => exact .inl (total_portHandling _ _ _)
  | tickHandling | walkStep | jobEndReport => exact .inl (total_handling _ _)
  | deadlineTick | requestFrame | fetchFrame | unknownFrame => exact .inl (total_outsideReset _)
  | release | readBuffer | readPageEntry | readOffer | readDir | readPort | forceFree | forceDetach
  | clearAll => exact .inl (total_maintHandling _ _)
  | readPool => exact .inl (total_maintService _ _)
  | deviceReset =>
    refine .inl ⟨fun h => if_pos h, ?_⟩
    simp only [exec, execDeviceReset]
    split <;> exact ⟨_, rfl⟩
  | offerExpiry id =>
    refine .inl ⟨fun h => by simp [exec, execOfferExpiry, granted_of_reset h], ?_⟩
    simp only [exec, execOfferExpiry]
    split
    · split <;> exact ⟨_, rfl⟩
    · exact ⟨_, rfl⟩
  | recallExpiry b =>
    refine .inl ⟨fun h => by simp [exec, execRecallExpiry, granted_of_reset h], ?_⟩
    simp only [exec, execRecallExpiry]
    split
    · split
      · exact ⟨_, rfl⟩
      · split <;> exact ⟨_, rfl⟩
    · exact ⟨_, rfl⟩
  | scrubStepStart =>
    refine .inl ⟨fun h => by simp [exec, execScrubStepStart, chosenKind_of_reset h], ?_⟩
    simp only [exec, execScrubStepStart]
    split <;> exact ⟨_, rfl⟩
  | copyPageStart =>
    refine .inl ⟨fun h => by simp [exec, execCopyPageStart, chosenKind_of_reset h], ?_⟩
    simp only [exec, execCopyPageStart]
    split <;> exact ⟨_, rfl⟩
  -- RECALL alone is left: its constructor's name is a Lean keyword.
  | _ => exact .inl (total_portHandling _ _ _)

/-! ### The queue -/

theorem pending_act {s₀ : State} {begins : Prop} (h : Act s₀ begins s t) : t.pending = s.pending := by
  cases h with
  | serve _ h =>
    obtain rfl | ⟨_, -, rfl⟩ | ⟨_, _, -, -, rfl⟩ | ⟨_, _, _, -, -, rfl⟩ := serveMover_cases h <;> rfl
  | startScrub => rw [startScrub_eq]
  | start | startTaken => rw [addWalk_eq]; rfl
  | endOffer id o => obtain h | ⟨_, -, -, h⟩ := endOffer_cases id o s <;> rw [h] <;> rfl
  | _ => rfl

theorem pending_exec (c : Instr) (ht : exec c s = .next t) : t.pending = s.pending :=
  (exec_endsAs c ht).keep (L := fun u => u.pending = s.pending) (fun _ _ _ h => h)
    (fun _ _ h hu => (pending_act h).trans hu) rfl

end

/-- Settles O2, by the shape of every command's outcome and the actions of a step. -/
theorem commandsLeaveTheQueue : Obligations.CommandsLeaveTheQueue := by
  unfold Obligations.CommandsLeaveTheQueue
  refine fun c s => ⟨fun r => ?unrefused, fun t => pending_exec c, fun f hf => ?fault⟩
  case unrefused =>
    obtain h | ⟨-, h⟩ | ⟨-, t, h⟩ := exec_shape c s
    · exact h.tame.unrefused r
    · exact h.unrefused r
    · rw [h]; exact nofun
  case fault =>
    obtain ⟨-, t, h⟩ | ⟨h, -⟩ | ⟨-, t, h⟩ := exec_shape c s
    · rw [h] at hf; cases hf
    · exact h
    · rw [h] at hf; cases hf

/-- Settles O3, by the shape of every command's outcome. -/
theorem nothingIsTakenInReset : Obligations.NothingIsTakenInReset := by
  unfold Obligations.NothingIsTakenInReset
  refine ⟨fun c s hrst hrelease hassert hdeassert => ?taken, fun s p off hrst => ?reads⟩
  case taken =>
    obtain h | ⟨-, h⟩ | ⟨h | ⟨p, h⟩ | ⟨p, h⟩, -⟩ := exec_shape c s
    · exact h.inReset hrst
    · exact h.inReset hrst
    · exact absurd h hrelease
    · exact absurd h (hassert p)
    · exact absurd h (hdeassert p)
  case reads => simp [readAt, atnAt, hrst]

end Sys2Proof.Proofs

/-! Host accesses (chapters 3, 4, 8 and 10): what the start of a teardown and a fault leave, and each
access as one update of its port, or one byte of the Page Memory. -/

namespace Sys2Proof.Proofs

open Sys2Proof Sys2Proof.Machine Sys2Proof.Safety

section
variable {s t : State} {p : Port} {f : HostPort → HostPort}

/-! ### What the arbiter sees of a port -/

/-- An update of a port that keeps its command slot keeps what every requester presents. -/
theorem presents_updPort (hcmd : (f (portAt s p)).cmd = (portAt s p).cmd) (r : Requester) :
    presents (updPort p f s) r = presents s r := by
  cases r with
  | port q =>
    have hstate : (portAt (updPort p f s) q).cmd = (portAt s q).cmd := by
      rw [portAt_updPort]
      split
      · next hq => subst hq; exact hcmd
      · rfl
    simp only [presents, hstate]
    rfl
  | _ => rfl

theorem granted_updPort (hcmd : (f (portAt s p)).cmd = (portAt s p).cmd) (r : Requester) :
    granted (updPort p f s) r = granted s r := by
  simp only [granted, grantable, presents_updPort hcmd]
  rfl

/-! ### The start of a teardown -/

theorem meetTake_frame (p : Port) (s : State) :
    meetTake p s = { s with ports := (meetTake p s).ports, underway := (meetTake p s).underway
                            freeCount := (meetTake p s).freeCount } := by
  obtain ⟨-, h⟩ | ⟨-, h | h⟩ := meetTake_cases p s
  · rw [h]
  · rw [h]
  · rw [h]; rfl

theorem portAt_meetTake_other {q : Port} (hq : q ≠ p) : portAt (meetTake p s) q = portAt s q := by
  obtain ⟨-, h⟩ | ⟨-, h | h⟩ := meetTake_cases p s <;> rw [h]
  · rfl
  · rw [portAt_updPort, if_neg hq]; rfl

/-- The start step of a port, its command taken first or not (R74, R179). -/
theorem tornDown_meetTake (c : TeardownCause) :
    TornDown c (portAt s p) (startStepPort c (portAt (meetTake p s) p)) := by
  obtain ⟨-, h⟩ | ⟨⟨-, hpending⟩, h | h⟩ := meetTake_cases p s <;> rw [h]
  · exact tornDown_startStepPort c _
  · exact tornDown_startStepPort c _
  · rw [portAt_updPort, if_pos rfl]
    refine ⟨rfl, rfl, rfl, rfl, rfl, rfl, rfl, rfl, rfl, rfl, rfl, rfl, fun _ => ⟨rfl, rfl⟩, fun hcmd => ?_⟩
    rw [hpending] at hcmd
    obtain hcmd | hcmd := hcmd <;> cases hcmd

theorem arbitrate_tcGrant_of_kept {r : Requester} (hrst : s.rst = false) (hgrant : s.tcGrant = some r)
    (h : grantable s r = true) : (arbitrate s).tcGrant = some r := by
  simp [arbitrate, hrst, hgrant, h]

theorem takeMet_start (c : TeardownCause) :
    TakeMet p s (arbitrate (startStep p c (meetTake p s))) := by
  have hfields : (startStep p c (meetTake p s)).freeCount = (meetTake p s).freeCount ∧
      (startStep p c (meetTake p s)).underway = (meetTake p s).underway := by
    rw [startStep_frame]; exact ⟨rfl, rfl⟩
  obtain ⟨hcount, hunder⟩ := hfields
  rw [TakeMet, arbitrate_freeCount, arbitrate_underway, hcount, hunder]
  obtain ⟨hno, h⟩ | ⟨hmet, h | h⟩ := meetTake_cases p s
  · rw [h]; exact ⟨fun hmet => absurd hmet hno, fun _ => ⟨rfl, rfl⟩⟩
  · rw [h]; exact ⟨fun _ => ⟨rfl, .inl rfl⟩, fun hno => absurd hmet hno⟩
  · refine ⟨fun _ => ⟨by rw [h]; rfl, .inr ⟨?_, by rw [h]; rfl⟩⟩, fun hno => absurd hmet hno⟩
    obtain ⟨hrst, hgrant, -, hhold⟩ := granted_iff.1 hmet.1
    have hhold := hhold.resolve_right (by simp)
    rw [h, startStep_frame]
    refine arbitrate_tcGrant_of_kept hrst hgrant ?_
    simp [grantable, presents, slotTaken, hhold]

/-- A teardown cause at an ATTACHED port that an update has reached first, the command slot kept
(R178 to R180). -/
theorem teardownBegun_arbitrate (c : TeardownCause)
    (hatt : attached (updPort p f s) p = true) (hcmd : (f (portAt s p)).cmd = (portAt s p).cmd) :
    TeardownBegun p c (f (portAt s p)) s (arbitrate (teardownCause p c (updPort p f s))) := by
  have hstart : teardownCause p c (updPort p f s) = startStep p c (meetTake p (updPort p f s)) := by
    obtain ⟨-, h⟩ | ⟨hno, -⟩ := teardownCause_cases p c (updPort p f s)
    · exact h
    · rw [hatt] at hno; cases hno
  have hself : portAt (updPort p f s) p = f (portAt s p) := by rw [portAt_updPort, if_pos rfl]
  rw [hstart]
  refine ⟨?frame, fun x => ?bytes, fun q hq => ?others, ?torn, ?stopped, ?joined, ?met⟩
  case frame =>
    rw [arbitrate_eq, startStep_frame, meetTake_frame]
    rfl
  case bytes =>
    rw [arbitrate_mem, startStep_frame, meetTake_frame]
    rfl
  case others =>
    rw [portAt_arbitrate, portAt_startStep, if_neg hq, portAt_meetTake_other hq, portAt_updPort, if_neg hq]
  case torn =>
    rw [portAt_arbitrate, portAt_startStep, if_pos rfl, ← hself]
    exact tornDown_meetTake c
  case stopped =>
    have h := jobStopped_startStep p c (meetTake p (updPort p f s))
    rw [arbitrate_eq]
    rw [meetTake_frame] at h ⊢
    exact h
  case joined =>
    have h := walkJoined_startStep p c (meetTake p (updPort p f s))
    rw [arbitrate_eq]
    rw [meetTake_frame] at h ⊢
    exact h
  case met =>
    have h := takeMet_start (p := p) (s := updPort p f s) c
    rw [TakeMet, granted_updPort hcmd, hself, hcmd] at h
    exact h

/-! ### Faults -/

theorem answerZero_eq (p : Port) (acc : Access) (s : State) :
    answerZero p acc s = updPort p (driving · (zeroFor acc)) s := by
  cases acc <;> rfl

theorem addFault_eq_recorded (k : FaultKind) (off : Nat) (acc : Access) (r : Option FaultRec) :
    addFault k off acc r = recorded r k off acc := by
  cases r with
  | none => cases acc <;> rfl
  | some r => rfl

/-- An access that is answered and raises a fault (R176). -/
theorem faultTaken_raiseFault (k : FaultKind) (off : Nat) (acc : Access) (s : State) :
    FaultTaken p k off acc s (arbitrate (raiseFault p k off acc (answerZero p acc s))) := by
  rw [answerZero_eq]
  have hatt : attached (updPort p (driving · (zeroFor acc)) s) p = attached s p := by
    simp [attached, driving]
  obtain ⟨hyes, hpolicy, h⟩ | ⟨hyes, hpolicy, h⟩ | ⟨hno, h⟩ :=
    raiseFault_cases p k off acc (updPort p (driving · (zeroFor acc)) s)
  · rw [hatt] at hyes
    refine ⟨fun _ _ => ?_, fun _ hdetach => ?_, fun hnot => ?_⟩
    · rw [h, updPort_updPort, ← addFault_eq_recorded]
      exact onlyPort_arbitrate_updPort s p _
    · rw [show perGet s.cfg.policy p = .report from hpolicy] at hdetach; cases hdetach
    · rw [hyes] at hnot; cases hnot
  · refine ⟨fun _ hreport => ?_, fun _ _ => ?_, fun hnot => ?_⟩
    · rw [show perGet s.cfg.policy p = .detach from hpolicy] at hreport; cases hreport
    · rw [h]
      exact teardownBegun_arbitrate _ hyes rfl
    · rw [← hatt, hyes] at hnot; cases hnot
  · rw [hatt] at hno
    refine ⟨fun hyes => ?_, fun hyes => ?_, fun _ => ?_⟩
    · rw [hyes] at hno; cases hno
    · rw [hyes] at hno; cases hno
    · rw [h]
      exact onlyPort_arbitrate_updPort s p _

end

end Sys2Proof.Proofs

/-! The obligations on host accesses and host writes. -/

namespace Sys2Proof.Proofs

open Sys2Proof Sys2Proof.Machine Sys2Proof.Safety

section
variable {s t : State} {p : Port} {w : Window} {m : Mapping} {v : Byte} {acc : Access}

/-! ### Cycles outside reset -/

theorem exec_directView (hrst : s.rst = false) (k : Fin 64) (acc : Access) :
    exec (.w0DirectViewAccess p k acc) s = directViewAccess p k acc s := by
  simp [exec, execW0DirectViewAccess, hrst]

theorem exec_dataPort (hrst : s.rst = false) (w : Window) (acc : Access) :
    exec (.cursorDataPortAccess p w acc) s = dataPortAccess p w acc s := by
  simp [exec, execCursorDataPortAccess, hrst]

theorem hostStep_eq_done (hrst : s.rst = false) (f : State → State) : hostStep s f = done (f s) := by
  simp [hostStep, hrst]

/-- An access that is answered and does nothing more. -/
theorem onlyPort_answerZero (p : Port) (acc : Access) (s : State) :
    OnlyPort p (driving (portAt s p) (zeroFor acc)) s (arbitrate (answerZero p acc s)) := by
  rw [answerZero_eq]
  exact onlyPort_arbitrate_updPort s p _

theorem slotAt_answerZero (w : Window) (p : Port) (acc : Access) (s : State) :
    slotAt w (portAt (answerZero p acc s) p) = slotAt w (portAt s p) := by
  rw [answerZero_eq, portAt_updPort, if_pos rfl]
  cases w <;> rfl

theorem forbiddenWrite_eq_false (h : ∀ v, acc = .write v → m.mode = .write) :
    forbiddenWrite m acc = false := by
  cases acc with
  | read | readLost => rfl
  | write v => simp [forbiddenWrite, h v rfl]

/-! ### Cursor and page index -/

theorem writeCursor_empty (h : slotAt w (portAt s p) = .empty) (v : Byte) :
    writeCursor p w v s =
      raiseFault p .unmappedAccess (cursorOffset w) (.write v) (answerZero p (.write v) s) := by
  simp [writeCursor, slotAt_answerZero, h]

theorem writeCursor_void (h : slotAt w (portAt s p) = .void m) (v : Byte) :
    writeCursor p w v s = answerZero p (.write v) s := by
  simp [writeCursor, slotAt_answerZero, h]

theorem writeCursor_range (h : slotAt w (portAt s p) = .mapped m) (hv : 63 < v.toNat) :
    writeCursor p w v s =
      raiseFault p .cursorRange (cursorOffset w) (.write v) (answerZero p (.write v) s) := by
  simp [writeCursor, slotAt_answerZero, h, show ¬v.toNat < 64 by omega]

theorem writeCursor_moves (h : slotAt w (portAt s p) = .mapped m) (hv : v.toNat < 64) :
    writeCursor p w v s = updPort p
      (fun hp => putSlot w (.mapped { m with cursor := ⟨v.toNat, hv⟩, endFlag := false }) (driving hp none))
      s := by
  refine Eq.trans ?_ (updPort_updPort p (driving · none)
    (putSlot w (.mapped { m with cursor := ⟨v.toNat, hv⟩, endFlag := false })) s)
  rw [← answerZero_write_eq p v s]
  simp [writeCursor, slotAt_answerZero, h, hv]

theorem writePageIndex_empty (h : slotAt w (portAt s p) = .empty) (v : Byte) :
    writePageIndex p w v s =
      raiseFault p .unmappedAccess (pageIndexOffset w) (.write v) (answerZero p (.write v) s) := by
  simp [writePageIndex, slotAt_answerZero, h]

theorem writePageIndex_void (h : slotAt w (portAt s p) = .void m) (v : Byte) :
    writePageIndex p w v s = answerZero p (.write v) s := by
  simp [writePageIndex, slotAt_answerZero, h]

theorem writePageIndex_range (h : slotAt w (portAt s p) = .mapped m) (hv : m.lengthCopy ≤ v.toNat) :
    writePageIndex p w v s =
      raiseFault p .cursorRange (pageIndexOffset w) (.write v) (answerZero p (.write v) s) := by
  simp [writePageIndex, slotAt_answerZero, h, Nat.not_lt.2 hv]

theorem writePageIndex_moves (h : slotAt w (portAt s p) = .mapped m) (hv : v.toNat < m.lengthCopy) :
    writePageIndex p w v s = updPort p
      (fun hp => putSlot w (.mapped { m with pageIndex := v.toNat, endFlag := false }) (driving hp none))
      s := by
  refine Eq.trans ?_ (updPort_updPort p (driving · none)
    (putSlot w (.mapped { m with pageIndex := v.toNat, endFlag := false })) s)
  rw [← answerZero_write_eq p v s]
  simp [writePageIndex, slotAt_answerZero, h, hv]

/-! ### Faults -/

theorem done_faultTaken {o : Host.Outcome State Fault Refusal} {k : FaultKind} {off : Nat}
    (h : o = done (raiseFault p k off acc (answerZero p acc s))) :
    ∃ t, o = .next t ∧ FaultTaken p k off acc s t :=
  ⟨_, h, faultTaken_raiseFault k off acc s⟩

theorem directViewAccess_fault {k : Fin 64} {p' : Port} {kind : FaultKind} {off : Nat} {acc' : Access}
    (h : faultOf s (.w0DirectViewAccess p k acc) = some (p', kind, off, acc')) :
    directViewAccess p k acc s = done (raiseFault p' kind off acc' (answerZero p' acc' s)) := by
  simp only [faultOf] at h
  unfold directViewAccess
  cases hslot : (portAt s p).w0 with
  | empty => rw [hslot] at h; cases h; rfl
  | void m => rw [hslot] at h; cases h
  | mapped m =>
    rw [hslot] at h
    dsimp only at h ⊢
    split at h
    · next hf => cases h; rw [if_pos hf]
    · cases h

theorem dataPortAccess_fault {p' : Port} {kind : FaultKind} {off : Nat} {acc' : Access}
    (h : faultOf s (.cursorDataPortAccess p w acc) = some (p', kind, off, acc')) :
    dataPortAccess p w acc s = done (raiseFault p' kind off acc' (answerZero p' acc' s)) := by
  simp only [faultOf] at h
  unfold dataPortAccess
  cases hslot : slotAt w (portAt s p) with
  | empty => rw [hslot] at h; cases h; rfl
  | void m => rw [hslot] at h; cases h
  | mapped m =>
    rw [hslot] at h
    dsimp only at h ⊢
    split at h
    · next hf => cases h; rw [if_pos hf]
    · cases h

theorem writeCursor_fault {p' : Port} {kind : FaultKind} {off : Nat} {acc' : Access}
    (h : faultOf s (.cursorWrite p w v) = some (p', kind, off, acc')) :
    writeCursor p w v s = raiseFault p' kind off acc' (answerZero p' acc' s) := by
  simp only [faultOf] at h
  cases hslot : slotAt w (portAt s p) with
  | empty => rw [hslot] at h; cases h; exact writeCursor_empty hslot v
  | void m => rw [hslot] at h; cases h
  | mapped m =>
    rw [hslot] at h
    dsimp only at h
    split at h
    · next hv => cases h; exact writeCursor_range hslot hv
    · cases h

theorem writePageIndex_fault {p' : Port} {kind : FaultKind} {off : Nat} {acc' : Access}
    (h : faultOf s (.pageIndexWrite p w v) = some (p', kind, off, acc')) :
    writePageIndex p w v s = raiseFault p' kind off acc' (answerZero p' acc' s) := by
  simp only [faultOf] at h
  cases hslot : slotAt w (portAt s p) with
  | empty => rw [hslot] at h; cases h; exact writePageIndex_empty hslot v
  | void m => rw [hslot] at h; cases h
  | mapped m =>
    rw [hslot] at h
    dsimp only at h
    split at h
    · next hv => cases h; exact writePageIndex_range hslot hv
    · cases h

theorem locationWrite_readOnly {off : Fin 128} (h : readOnlyOffset off.val = true) (v : Byte) :
    locationWrite p off v s = done (readOnlyWrite p off.val v s) := by
  obtain ⟨n, hn⟩ := off
  simp only [readOnlyOffset, Bool.or_eq_true, Bool.and_eq_true, decide_eq_true_eq] at h
  have hwindow : ¬n < 64 ∧ n ≠ 0x40 ∧ n ≠ 0x44 := by omega
  obtain ⟨hlow, h0, h1⟩ := hwindow
  have hlocation : writeLocation p n v s = readOnlyWrite p n v s := by
    unfold writeLocation
    repeat rw [if_neg (by omega)]
  simp only [locationWrite, dif_neg hlow, if_neg h0, if_neg h1, hlocation]

theorem cmd_answerZero (p : Port) (acc : Access) (s : State) :
    (portAt (answerZero p acc s) p).cmd = (portAt s p).cmd := by
  rw [answerZero_eq, portAt_updPort, if_pos rfl]
  rfl

theorem postAt_refused (h : (portAt s p).cmd.state = .pending ∨ (portAt s p).cmd.state = .busy)
    (code : Byte) :
    postAt p code s = raiseFault p .postWhileBusy 0x60 (.write code) (answerZero p (.write code) s) := by
  unfold postAt
  dsimp only
  rw [cmd_answerZero, if_neg (by obtain h | h := h <;> simp [h])]

/-- Every access that raises a fault is answered and hands the fault on (R176). -/
theorem exec_of_faultOf {c : Instr} {kind : FaultKind} {off : Nat} (hrst : s.rst = false)
    (h : faultOf s c = some (p, kind, off, acc)) :
    exec c s = done (raiseFault p kind off acc (answerZero p acc s)) := by
  cases c with
  | w0DirectViewAccess q k acc' => rw [exec_directView hrst, directViewAccess_fault h]
  | cursorDataPortAccess q w acc' => rw [exec_dataPort hrst, dataPortAccess_fault h]
  | cursorWrite q w v => exact (hostStep_eq_done hrst _).trans (congrArg done (writeCursor_fault h))
  | pageIndexWrite q w v => exact (hostStep_eq_done hrst _).trans (congrArg done (writePageIndex_fault h))
  | hostLocationWrite q off' v =>
    simp only [faultOf] at h
    split at h
    · next hro =>
      cases h
      simp only [exec, execHostLocationWrite, hrst, Bool.false_eq_true, if_false,
        locationWrite_readOnly hro]
      rfl
    · cases h
  | postCommand q code =>
    simp only [faultOf] at h
    split at h
    · next hbusy =>
      cases h
      exact (hostStep_eq_done hrst _).trans (congrArg done (postAt_refused hbusy _))
    · cases h
  | _ => cases h

end

/-- Settles O9. -/
theorem hostFaults : Obligations.HostFaults := by
  unfold Obligations.HostFaults
  exact fun s c p k off acc hrst h => done_faultTaken (exec_of_faultOf hrst h)

end Sys2Proof.Proofs

/-! The obligations on accesses served from the Page Memory, on discarded accesses, and on host writes
that reach one record of the port. -/

namespace Sys2Proof.Proofs

open Sys2Proof Sys2Proof.Machine Sys2Proof.Safety

section
variable {s u t : State} {p : Port} {w : Window} {m : Mapping} {v : Byte} {acc : Access}

/-! ### A byte served from the Page Memory -/

/-- What an access served after the grant `u` drives, and the Page Memory it leaves (R32). -/
def Served (u : State) (acc : Access) (a : Nat) (d : Option Byte) (mem : Memory) : Prop :=
  (acc = .read → d = some (memRead u.mem a) ∧ mem = u.mem) ∧
  (acc = .readLost → d = none ∧ mem = u.mem) ∧
  ∀ v, acc = .write v → d = none ∧ mem = memWrite u.mem a v

theorem serveByte_served {b : BufNo} {i : Nat} {k : Fin 64} {pg : PageNo}
    (hu : memGrant (.host p) s = some u) (hpg : resolveIndex u b i = some pg) :
    ∃ d mem, Served u acc (pg.val * 64 + k.val) d mem ∧
      serveByte p acc b i k s = some (updPort p (driving · d) { u with mem := mem }) := by
  cases acc with
  | read =>
    exact ⟨_, _, ⟨fun _ => ⟨rfl, rfl⟩, nofun, nofun⟩, by simp only [serveByte, hu, hpg]; rfl⟩
  | readLost =>
    exact ⟨_, _, ⟨nofun, fun _ => ⟨rfl, rfl⟩, nofun⟩, by simp only [serveByte, hu, hpg]; rfl⟩
  | write v =>
    refine ⟨_, _, ⟨nofun, nofun, fun v' h => ?_⟩, by simp only [serveByte, hu, hpg]; rfl⟩
    cases h
    exact ⟨rfl, rfl⟩

/-- The effect of a served access whose port then makes the change `g` (R46, R48). -/
theorem served_effect {o : Host.Outcome State Fault Refusal} {a : Nat} {d : Option Byte} {mem : Memory}
    {g : HostPort → HostPort} (hu : memGrant (.host p) s = some u) (hserved : Served u acc a d mem)
    (ho : o = done (updPort p (fun hp => g (driving hp d)) { u with mem := mem })) :
    ∃ t, o = .next t ∧
      t = { u with ports := t.ports, mem := t.mem, tcGrant := t.tcGrant } ∧ OtherPorts p s t ∧
      (moverWaiting s = false → u = { s with memLast := .host p }) ∧
      (acc = .read → portAt t p = g (driving (portAt s p) (some (memRead u.mem a))) ∧ SameBytes u t) ∧
      (acc = .readLost → portAt t p = g (driving (portAt s p) none) ∧ SameBytes u t) ∧
      (∀ v, acc = .write v →
        portAt t p = g (driving (portAt s p) none) ∧ memRead t.mem a = v ∧ OtherBytes a 1 u t) := by
  have hports : ∀ q, portAt { u with mem := mem } q = portAt s q := fun q => by
    have hq : portAt u q = portAt s q := by rw [portAt, ports_memGrant hu]; rfl
    exact hq
  obtain ⟨hread, hlost, hwrite⟩ := hserved
  refine ⟨_, ho, by rw [arbitrate_eq]; rfl, fun q hq => ?_, fun hmover => ?_, fun h => ?_, fun h => ?_,
    fun v h => ?_⟩
  · rw [portAt_arbitrate, portAt_updPort, if_neg hq, hports]
  · rw [memGrant_idle hmover] at hu
    exact (Option.some.inj hu).symm
  · obtain ⟨rfl, rfl⟩ := hread h
    exact ⟨by rw [portAt_arbitrate, portAt_updPort, if_pos rfl, hports], fun x => by rw [arbitrate_mem]; rfl⟩
  · obtain ⟨rfl, rfl⟩ := hlost h
    exact ⟨by rw [portAt_arbitrate, portAt_updPort, if_pos rfl, hports], fun x => by rw [arbitrate_mem]; rfl⟩
  · obtain ⟨rfl, rfl⟩ := hwrite v h
    refine ⟨by rw [portAt_arbitrate, portAt_updPort, if_pos rfl, hports], ?_, fun x hx => ?_⟩
    · rw [arbitrate_mem, updPort_mem, memRead_memWrite, if_pos rfl]
    · rw [arbitrate_mem, updPort_mem, memRead_memWrite, if_neg (by omega)]

theorem directViewAccess_served (hslot : (portAt s p).w0 = .mapped m)
    (hmode : ∀ v, acc = .write v → m.mode = .write) (k : Fin 64) :
    directViewAccess p k acc s = doneOrStuck (serveByte p acc m.handle.buf m.pageIndex k s) := by
  simp [directViewAccess, hslot, forbiddenWrite_eq_false hmode]

theorem dataPortAccess_served (hslot : slotAt w (portAt s p) = .mapped m)
    (hmode : ∀ v, acc = .write v → m.mode = .write) (hend : m.endFlag = false) :
    dataPortAccess p w acc s = doneOrStuck ((serveByte p acc m.handle.buf m.pageIndex m.cursor s).map
      (updPort p (putSlot w (.mapped (advance m))))) := by
  simp [dataPortAccess, hslot, forbiddenWrite_eq_false hmode, hend]

/-- Where an access leaves the position (R48). -/
theorem advance_cases (m : Mapping) :
    (m.cursor.val < 63 → (advance m).cursor.val = m.cursor.val + 1 ∧
      advance m = { m with cursor := (advance m).cursor }) ∧
    (m.cursor.val = 63 → m.pageIndex + 1 < m.lengthCopy →
      advance m = { m with pageIndex := m.pageIndex + 1, cursor := 0 }) ∧
    (m.cursor.val = 63 → m.lengthCopy ≤ m.pageIndex + 1 → advance m = { m with endFlag := true }) := by
  refine ⟨fun h => ?_, fun h hpage => ?_, fun h hpage => ?_⟩
  · simp only [advance, h, if_true, and_true]
    exact Nat.mod_eq_of_lt (by omega)
  · simp [advance, h, hpage]
  · simp [advance, h, Nat.not_lt.2 hpage]

/-! ### Discarded accesses -/

theorem dataPortAccess_void (hslot : slotAt w (portAt s p) = .void m) (acc : Access) :
    dataPortAccess p w acc s = done (answerZero p acc s) := by
  simp [dataPortAccess, hslot]

theorem dataPortAccess_ended (hslot : slotAt w (portAt s p) = .mapped m)
    (hmode : ∀ v, acc = .write v → m.mode = .write) (hend : m.endFlag = true) :
    dataPortAccess p w acc s = done (updPort p (fun hp =>
      putSlot w (.mapped { m with ovr := true }) (driving hp (zeroFor acc))) s) := by
  have h := updPort_updPort p (driving · (zeroFor acc)) (putSlot w (.mapped { m with ovr := true })) s
  rw [← h, ← answerZero_eq]
  simp [dataPortAccess, hslot, forbiddenWrite_eq_false hmode, hend]

/-! ### Host writes to one record of the port -/

/-- A host cycle that is answered as a write and then makes the change `g` at its port. -/
theorem hostStep_write {f : State → State} {g : HostPort → HostPort} (hrst : s.rst = false)
    (hf : f s = updPort p g (answerZero p (.write v) s)) :
    ∃ t, hostStep s f = .next t ∧ OnlyPort p (g (driving (portAt s p) none)) s t :=
  hostStep_onlyPort (f := fun hp => g (driving hp none)) hrst
    (hf.trans (updPort_updPort p (driving · none) g s))

theorem hostStep_answered {f : State → State} (hrst : s.rst = false)
    (hf : f s = answerZero p (.write v) s) :
    ∃ t, hostStep s f = .next t ∧ OnlyPort p (driving (portAt s p) none) s t :=
  hostStep_onlyPort hrst (hf.trans (answerZero_write_eq p v s))

theorem exec_storeParam {off : Fin 128} (hlo : 0x50 ≤ off.val) (hhi : off.val ≤ 0x5F) (v : Byte)
    (s : State) : exec (.hostLocationWrite p off v) s = hostStep s (storeParam p (off.val - 0x50) v) := by
  obtain ⟨n, hn⟩ := off
  dsimp only at hlo hhi
  have hlocation : writeLocation p n v s = storeParam p (n - 0x50) v s := by
    unfold writeLocation
    rw [if_neg (by omega), if_neg (by omega), if_neg (by omega), if_neg (by omega), if_neg (by omega),
      if_pos ⟨hlo, hhi⟩]
  have hwindow : ¬n < 64 ∧ n ≠ 0x40 ∧ n ≠ 0x44 := by omega
  obtain ⟨hlow, h0, h1⟩ := hwindow
  simp only [exec, execHostLocationWrite, locationWrite, dif_neg hlow, if_neg h0, if_neg h1, hlocation,
    hostStep]

theorem atnLevel_iff (hp : HostPort) : atnLevel hp = true ↔ hp.state = .attached ∧
    ((hp.enables.notice = true ∧ hp.queue ≠ []) ∨ (hp.enables.slot = true ∧ hp.cmd.state = .done) ∨
      (hp.enables.fault = true ∧ hp.fault ≠ none) ∨ (hp.enables.lost = true ∧ hp.lost = true)) := by
  simp only [atnLevel, Bool.and_eq_true, Bool.or_eq_true, decide_eq_true_eq, Bool.not_eq_true',
    List.isEmpty_eq_false_iff, Option.isSome_iff_ne_none, or_assoc]

end

/-- Settles O6. -/
theorem directViewServed : Obligations.DirectViewServed := by
  unfold Obligations.DirectViewServed
  intro s u p k acc m pg hrst hslot hmode hu hpg
  obtain ⟨d, mem, hserved, hbyte⟩ := serveByte_served (acc := acc) (k := k) hu hpg
  refine served_effect (g := id) hu hserved ?_
  rw [exec_directView hrst, directViewAccess_served hslot hmode, hbyte]
  rfl

/-- Settles O7. -/
theorem dataPortServed : Obligations.DataPortServed := by
  unfold Obligations.DataPortServed
  intro s u p w acc m pg hrst hslot hmode hend hu hpg
  obtain ⟨d, mem, hserved, hbyte⟩ := serveByte_served (acc := acc) (k := m.cursor) hu hpg
  obtain ⟨t, ht, hframe, hothers, hidle, hread, hlost, hwrite⟩ :=
    served_effect (o := exec (.cursorDataPortAccess p w acc) s) (g := putSlot w (.mapped (advance m)))
      hu hserved (by
        rw [exec_dataPort hrst, dataPortAccess_served hslot hmode hend, hbyte, Option.map_some,
          updPort_updPort]
        rfl)
  exact ⟨t, advance m, ht, hframe, hothers, hidle, hread, hlost, hwrite, advance_cases m⟩

/-- Settles O8. -/
theorem discardedAccesses : Obligations.DiscardedAccesses := by
  unfold Obligations.DiscardedAccesses
  refine ⟨fun s p k acc m hrst hslot => ?view, fun s p w acc v m hrst hslot => ⟨?port, ?cursor, ?index⟩,
    fun s p w acc m hrst hslot hend hmode => ?ended⟩
  case view =>
    refine ⟨_, ?_, onlyPort_answerZero p acc s⟩
    rw [exec_directView hrst, directViewAccess, hslot]
    rfl
  case port =>
    refine ⟨_, ?_, onlyPort_answerZero p acc s⟩
    rw [exec_dataPort hrst, dataPortAccess_void hslot]
    rfl
  case cursor => exact hostStep_answered hrst (writeCursor_void hslot v)
  case index => exact hostStep_answered hrst (writePageIndex_void hslot v)
  case ended =>
    refine ⟨_, ?_, onlyPort_arbitrate_updPort s p fun hp =>
      putSlot w (.mapped { m with ovr := true }) (driving hp (zeroFor acc))⟩
    rw [exec_dataPort hrst, dataPortAccess_ended hslot hmode hend]
    rfl

/-- Settles O10. -/
theorem cursorWriteRule : Obligations.CursorWriteRule := by
  unfold Obligations.CursorWriteRule
  refine ⟨fun hp => ⟨rfl, rfl⟩, ⟨rfl, fun m => ⟨rfl, rfl⟩⟩, fun s p w v m hrst hslot hv => ?moves,
    fun s p w v off hrst hoff => ⟨fun m hslot hv => ?range, fun m hslot => ?void, fun hslot => ?empty⟩⟩
  case moves =>
    obtain ⟨t, ht, honly⟩ := hostStep_onlyPort hrst (writeCursor_moves hslot hv)
    exact ⟨t, _, ht, honly, rfl, rfl⟩
  case range =>
    have hoff' : off = cursorOffset w := by rw [hoff]; cases w <;> rfl
    refine done_faultTaken ((hostStep_eq_done hrst _).trans (congrArg done ?_))
    rw [hoff', writeCursor_range hslot (by omega)]
  case void => exact hostStep_answered hrst (writeCursor_void hslot v)
  case empty =>
    have hoff' : off = cursorOffset w := by rw [hoff]; cases w <;> rfl
    refine done_faultTaken ((hostStep_eq_done hrst _).trans (congrArg done ?_))
    rw [hoff', writeCursor_empty hslot]

/-- Settles O11. -/
theorem pageIndexWriteRule : Obligations.PageIndexWriteRule := by
  unfold Obligations.PageIndexWriteRule
  exact fun s p w v m hrst hslot hv => hostStep_onlyPort hrst (writePageIndex_moves hslot hv)

/-- Settles O13. -/
theorem plainHostWrites : Obligations.PlainHostWrites := by
  unfold Obligations.PlainHostWrites
  refine ⟨fun s p off v hrst hlo hhi => ?param, fun s p v hrst => ?acknowledge, fun s p v hrst => ?pop,
    fun s p v hrst => ?enables, fun s p v hrst => ?record, fun s p hrst => ?strobes⟩
  case param =>
    rw [exec_storeParam hlo hhi]
    exact hostStep_write (p := p) (v := v) (f := storeParam p (off.val - 0x50) v) hrst rfl
  case acknowledge =>
    obtain ⟨t, ht, honly⟩ := hostStep_write (p := p) (v := v) (f := acknowledgeAt p v) hrst rfl
    refine ⟨t, ht, ?_⟩
    convert honly using 1
    by_cases h : (portAt s p).cmd.state = .done <;> simp [driving, h]
  case pop =>
    obtain ⟨t, ht, honly⟩ := hostStep_write (p := p) (v := v) (f := popAt p v) hrst rfl
    refine ⟨t, ht, ?_⟩
    rw [List.drop_one]
    exact honly
  case enables =>
    obtain ⟨t, ht, honly⟩ := hostStep_write (p := p) (v := v) (f := enablesAt p v) hrst rfl
    refine ⟨t, ht, honly, ?_⟩
    obtain ⟨-, -, hport, -⟩ := honly
    rw [hport, atnLevel_iff]
    simp [driving, attached, enablesOf]
  case record => exact hostStep_write (p := p) (v := v) (f := clearRecordAt p v) hrst rfl
  case strobes => exact hostStep_onlyPort hrst rfl

end Sys2Proof.Proofs

/-! The obligations on posting and cancelling a command, and on the pins. -/

namespace Sys2Proof.Proofs

open Sys2Proof Sys2Proof.Machine Sys2Proof.Safety

section
variable {s t : State} {p : Port} {v : Byte}

/-! ### Posting and cancelling -/

theorem postAt_accepted (h : (portAt s p).cmd.state = .idle ∨ (portAt s p).cmd.state = .done)
    (code : Byte) :
    postAt p code s = updPort p (fun hp => { hp with
      cmd := ⟨.pending, (portAt s p).cmd.params, code, (portAt s p).cmd.params, 0,
        List.replicate 12 0, false⟩ }) (answerZero p (.write code) s) := by
  unfold postAt
  dsimp only
  rw [cmd_answerZero, if_pos h]

theorem cancelAt_pending (h : (portAt s p).cmd.state = .pending) (v : Byte) :
    cancelAt p v s = updPort p (fun hp => { hp with cmd := { (portAt s p).cmd with
      state := .done, resultCode := 0x15, resultArea := List.replicate 12 0 } })
      (answerZero p (.write v) s) := by
  unfold cancelAt
  dsimp only
  rw [cmd_answerZero, h]
  rfl

/-- A cancel of a BUSY COPY that the Data Mover holds is forwarded to it (R73, R165). -/
theorem cancelAt_forwarded (h : (portAt s p).cmd.state = .busy)
    (hcode : (portAt s p).cmd.postedCode = 0x50) (hjob : jobAt s p ≠ none ∨ reportHeld s p = true)
    (v : Byte) : cancelAt p v s = stopJob p .cancelled (answerZero p (.write v) s) := by
  have hheld : ((jobAt (answerZero p (.write v) s) p).isSome ||
      reportHeld (answerZero p (.write v) s) p) = true := by
    rw [Bool.or_eq_true, Option.isSome_iff_ne_none]
    exact hjob
  unfold cancelAt
  dsimp only
  rw [cmd_answerZero, h]
  dsimp only
  rw [hcode, if_pos (show (0x50 : Byte) = commandCode .copy from rfl), if_pos hheld]

theorem portAt_stopJob (p q : Port) (c : StopCause) (s : State) :
    portAt (stopJob p c s) q = portAt s q := by
  rw [stopJob_eq]
  rfl

theorem cancelAt_ignored (h : (portAt s p).cmd.state = .idle ∨ (portAt s p).cmd.state = .done ∨
    (portAt s p).cmd.state = .busy ∧ (portAt s p).cmd.postedCode ≠ 0x50) (v : Byte) :
    cancelAt p v s = answerZero p (.write v) s := by
  unfold cancelAt
  dsimp only
  rw [cmd_answerZero]
  obtain h | h | ⟨h, hcode⟩ := h <;> rw [h]
  dsimp only
  exact if_neg hcode

/-- Whether a port's request may be granted, by its command slot and the handling in progress. -/
theorem grantable_port (s : State) (p : Port) : grantable s (.port p) =
    ((decide ((portAt s p).cmd.state = .pending) || (slotTaken s p).isSome) && !s.hold) := by
  simp [grantable, presents]

/-! ### The pins -/

/-- A level of PRST alone changes (R173). -/
theorem onlyPort_setPrst (p : Port) (level : Bool) (s : State) :
    OnlyPort p { portAt s p with prst := level } s (setPrst p level s) := by
  refine ⟨rfl, fun x => rfl, ?_, fun q hq => ?_⟩
  · rw [setPrst, portAt_updPort, if_pos rfl]
  · rw [setPrst, portAt_updPort, if_neg hq]

theorem onlyPort_arbitrate {hp : HostPort} (h : OnlyPort p hp s t) : OnlyPort p hp s (arbitrate t) := by
  obtain ⟨hframe, hbytes, hport, hothers⟩ := h
  refine ⟨?_, fun x => by rw [arbitrate_mem, hbytes], by rw [portAt_arbitrate, hport], fun q hq => by
    rw [portAt_arbitrate, hothers q hq]⟩
  rw [arbitrate_eq]
  rw [hframe]

theorem exec_prstAssertion (hrst : s.rst = false) : exec (.prstAssertion p) s = done (assertPrst p s) := by
  simp [exec, execPrstAssertion, hrst]

/-- An assertion of PRST at a port that is not ATTACHED, and one of an input asserted already, leave a
level. -/
theorem assertPrst_level (h : attached s p = false ∨ (portAt s p).prst = true) :
    OnlyPort p { portAt s p with prst := true } s (assertPrst p s) := by
  unfold assertPrst
  split
  · next hprst =>
    exact ⟨rfl, fun x => rfl, by rw [← hprst], fun q hq => rfl⟩
  · next hprst =>
    have hatt := h.resolve_right hprst
    have hnone : teardownCause p .prst (setPrst p true s) = setPrst p true s := by
      obtain ⟨hyes, -⟩ | ⟨-, h⟩ := teardownCause_cases p .prst (setPrst p true s)
      · simp [attached] at hyes hatt; exact absurd hyes hatt
      · exact h
    rw [hnone]
    exact onlyPort_setPrst p true s

end

/-- Settles O14. -/
theorem postCommandRule : Obligations.PostCommandRule := by
  unfold Obligations.PostCommandRule
  intro s p code hrst hcmd
  obtain ⟨t, ht, honly⟩ := hostStep_write (f := postAt p code) hrst (postAt_accepted hcmd code)
  refine ⟨t, ht, honly, ?_⟩
  obtain ⟨hframe, -, hport, -⟩ := honly
  rw [grantable_port, hport, show t.hold = s.hold by rw [hframe]]
  rfl

/-- Settles O15. -/
theorem cancelRule : Obligations.CancelRule := by
  unfold Obligations.CancelRule
  refine ⟨fun s p v hrst hcmd => ?withdrawn, fun s p v hrst hcmd hcode hjob => ?forwarded,
    fun s p v hrst hcmd => hostStep_answered hrst (cancelAt_ignored hcmd v)⟩
  case withdrawn =>
    obtain ⟨t, ht, honly⟩ := hostStep_write (f := cancelAt p v) hrst (cancelAt_pending hcmd v)
    refine ⟨t, ht, honly, fun hnone => ?_⟩
    obtain ⟨hframe, -, hport, -⟩ := honly
    have hslot : slotTaken t p = none := by rw [hframe]; exact hnone
    rw [grantable_port, hport, hslot]
    rfl
  case forwarded =>
    have hexec : exec (.cancel p v) s =
        done (stopJob p .cancelled (updPort p (driving · none) s)) := by
      rw [← answerZero_write_eq p v, ← cancelAt_forwarded hcmd hcode hjob]
      exact hostStep_eq_done hrst _
    refine ⟨_, hexec, ?_, fun x => ?_, ?_, fun q hq => ?_, ?_⟩
    · rw [arbitrate_eq, stopJob_eq]; rfl
    · rw [arbitrate_mem, stopJob_eq]; rfl
    · rw [portAt_arbitrate, portAt_stopJob, portAt_updPort, if_pos rfl]
    · rw [portAt_arbitrate, portAt_stopJob, portAt_updPort, if_neg hq]
    · rw [arbitrate_eq]
      exact jobStopped_stopJob p .cancelled (updPort p (driving · none) s)

/-- Settles O5. -/
theorem rstReleaseAndPrst : Obligations.RstReleaseAndPrst := by
  unfold Obligations.RstReleaseAndPrst
  refine ⟨fun s hrst => ?release, fun s p hrst hprst hatt => ?begins, fun s p h => ?level,
    fun s p => ?deassert⟩
  case release =>
    refine ⟨_, if_pos hrst, ?_, fun x => ?_⟩
    · rw [arbitrate_eq]; rfl
    · rw [arbitrate_mem]; rfl
  case begins =>
    refine ⟨_, exec_prstAssertion hrst, ?_⟩
    rw [assertPrst, if_neg (by simp [hprst])]
    refine teardownBegun_arbitrate (f := fun hp => { hp with prst := true }) .prst ?_ rfl
    simpa [attached] using hatt
  case level =>
    cases hrst : s.rst with
    | true => exact ⟨_, if_pos hrst, onlyPort_setPrst p true s⟩
    | false =>
      exact ⟨_, exec_prstAssertion hrst,
        onlyPort_arbitrate (assertPrst_level (h.resolve_left (by simp [hrst])))⟩
  case deassert =>
    cases hrst : s.rst with
    | true => exact ⟨_, if_pos hrst, onlyPort_setPrst p false s⟩
    | false =>
      exact ⟨_, if_neg (by simp [hrst]), onlyPort_arbitrate (onlyPort_setPrst p false s)⟩

end Sys2Proof.Proofs

/-! Commands from an ATTACHED port: the reply that ends an accepted command, and what it leaves of the
state its checks answered. -/

namespace Sys2Proof.Proofs

open Sys2Proof Sys2Proof.Machine Sys2Proof.Safety

/-- The completion of a command and the end of its handling, over the state its effects left. -/
def reply (p : Port) (r : Result) (area : List Byte) (u : State) : State :=
  endHandling (.port p) (complete p r area u)

section
variable {s u : State} {p q : Port} {r : Result} {area : List Byte} {c : Command} {body : State → Answer}

/-! ### What a reply leaves -/

theorem reply_eq (p : Port) (r : Result) (area : List Byte) (u : State) :
    reply p r area u = { u with ports := (reply p r area u).ports
                                tcLast := .port p
                                tcGrant := (reply p r area u).tcGrant } := by
  rw [reply, endHandling_eq]
  rfl

@[simp] theorem reply_mem : (reply p r area u).mem = u.mem := by rw [reply_eq]
@[simp] theorem reply_dir : (reply p r area u).dir = u.dir := by rw [reply_eq]
@[simp] theorem recAt_reply (b : BufNo) : recAt (reply p r area u) b = recAt u b := by rw [reply_eq]; rfl
@[simp] theorem entryAt_reply (pg : PageNo) : entryAt (reply p r area u) pg = entryAt u pg := by
  rw [reply_eq]; rfl
@[simp] theorem offerAt_reply (id : OfferId) : offerAt (reply p r area u) id = offerAt u id := by
  rw [reply_eq]; rfl
@[simp] theorem countsAt_reply (q : Port) : countsAt (reply p r area u) q = countsAt u q := by
  rw [reply_eq]; rfl

theorem portAt_reply : portAt (reply p r area u) q =
    if q = p then takeCompletion r area (portAt u p) else portAt u q := by
  rw [reply, portAt_endHandling, complete, portAt_updPort]

theorem portAt_reply_self (h : (portAt u p).cmd.state = .busy) :
    portAt (reply p r area u) p = answered (portAt u p) r area := by
  rw [portAt_reply, if_pos rfl, takeCompletion_busy h]

theorem portAt_reply_other (h : q ≠ p) : portAt (reply p r area u) q = portAt u q := by
  rw [portAt_reply, if_neg h]

/-- The port of a command that was taken and then changed in other fields than its slot. -/
theorem portAt_reply_taken {g : HostPort → HostPort} (hport : portAt u p = g (takeCommand (portAt s p)))
    (hcmd : ∀ hp, (g hp).cmd = hp.cmd) :
    portAt (reply p r area u) p = answered (g (takeCommand (portAt s p))) r area := by
  rw [portAt_reply_self, hport]
  rw [hport, hcmd]
  rfl

/-! ### The handling of an accepted command -/

theorem portAt_take_self (s : State) (p : Port) :
    portAt (updPort p takeCommand s) p = takeCommand (portAt s p) := by
  rw [portAt_updPort, if_pos rfl]

theorem portAt_take_other (s : State) (h : q ≠ p) :
    portAt (updPort p takeCommand s) q = portAt s q := by
  rw [portAt_updPort, if_neg h]

/-- A ready command whose checks answer OK (R79, R81). -/
theorem portHandling_ok (h : Ready s p c) (hans : body (updPort p takeCommand s) = .ok (u, area)) :
    portHandling p (some c) s (fromAttached p body) = .next (reply p .ok area u) := by
  rw [portHandling_fromAttached_of_ready h, hans]
  rfl

/-- A reply over a state that differs from the taken one in no byte of the Page Memory. -/
theorem sameBytes_reply (h : u.mem = s.mem) : SameBytes s (reply p r area u) := fun x => by
  rw [reply_mem, h]

/-- A reply that changes its port alone. -/
theorem reply_onlyPort {g : HostPort → HostPort} (hcmd : ∀ hp, (g hp).cmd = hp.cmd)
    (hg : ∀ hp, answered (g (takeCommand hp)) r area = answered (g hp) r area) :
    reply p r area (updPort p g (updPort p takeCommand s)) =
        { s with ports := (reply p r area (updPort p g (updPort p takeCommand s))).ports
                 tcLast := .port p
                 tcGrant := (reply p r area (updPort p g (updPort p takeCommand s))).tcGrant } ∧
      SameBytes s (reply p r area (updPort p g (updPort p takeCommand s))) ∧
      portAt (reply p r area (updPort p g (updPort p takeCommand s))) p =
        answered (g (portAt s p)) r area ∧
      OtherPorts p s (reply p r area (updPort p g (updPort p takeCommand s))) := by
  refine ⟨?_, sameBytes_reply rfl, ?_, fun q hq => ?_⟩
  · rw [reply_eq]; rfl
  · rw [portAt_reply_taken (s := s) (g := g) (by rw [portAt_updPort, if_pos rfl, portAt_take_self]) hcmd, hg]
  · rw [portAt_reply_other hq, portAt_updPort, if_neg hq, portAt_take_other s hq]

/-- An accepted command that changes its port alone. -/
theorem accepted_onlyPort {g : HostPort → HostPort} (h : Ready s p c)
    (hcmd : ∀ hp, (g hp).cmd = hp.cmd)
    (hg : ∀ hp, answered (g (takeCommand hp)) .ok area = answered (g hp) .ok area)
    (hans : body (updPort p takeCommand s) = .ok (updPort p g (updPort p takeCommand s), area)) :
    ∃ t, portHandling p (some c) s (fromAttached p body) = .next t ∧
      t = { s with ports := t.ports, tcLast := .port p, tcGrant := t.tcGrant } ∧ SameBytes s t ∧
      portAt t p = answered (g (portAt s p)) .ok area ∧ OtherPorts p s t :=
  ⟨_, portHandling_ok h hans, reply_onlyPort hcmd hg⟩

/-- An accepted command that only reports. -/
theorem accepted_report (h : Ready s p c)
    (hans : body (updPort p takeCommand s) = .ok (updPort p takeCommand s, area)) :
    ∃ t, portHandling p (some c) s (fromAttached p body) = .next t ∧
      t = { s with ports := t.ports, tcLast := .port p, tcGrant := t.tcGrant } ∧ SameBytes s t ∧
      portAt t p = answered (portAt s p) .ok area ∧ OtherPorts p s t := by
  refine ⟨_, portHandling_ok h hans, ?_, sameBytes_reply rfl, ?_, fun q hq => ?_⟩
  · rw [reply_eq]; rfl
  · rw [portAt_reply_self (by rw [portAt_take_self]; rfl), portAt_take_self]
    rfl
  · rw [portAt_reply_other hq, portAt_take_other s hq]

/-! ### ATTACH and the reports -/

theorem attachAnswer_ok (hstate : (portAt s p).state = .detached) (hprst : (portAt s p).prst = false) :
    attachAnswer p (updPort p takeCommand s) = .ok (updPort p takeAttach (updPort p takeCommand s),
      [portByte p, teardownCode (portAt s p).lastCause, teardownFaultCode (portAt s p).lastCause]) := by
  simp [attachAnswer, takeCommand, hstate, hprst]

theorem exec_attach_ok (h : Taken s p (some .attach)) (hstate : (portAt s p).state = .detached)
    (hprst : (portAt s p).prst = false) :
    exec (.attach p) s = .next (reply p .ok
      [portByte p, teardownCode (portAt s p).lastCause, teardownFaultCode (portAt s p).lastCause]
      (updPort p takeAttach (updPort p takeCommand s))) := by
  refine (portHandling_next p (some .attach) s (fun s => completeAnswer p s (attachAnswer p s)) _).2
    (.inl ⟨h, ?_⟩)
  rw [attachAnswer_ok hstate hprst]
  rfl

/-- The result area of INFO reads the caller's counts, which the take leaves (R97). -/
theorem infoAnswer_ok {b : BufNo} {l : Live} (hcheck : checkHandle s p 0 = .ok (b, l)) :
    infoAnswer p (updPort p takeCommand s) = .ok (updPort p takeCommand s, infoBytes s p l) := by
  simp only [infoAnswer, checkHandle_take, hcheck]
  rfl

theorem infoBytes_eq (s : State) (p : Port) (l : Live) : infoBytes s p l =
    [byteOf (bufStateCode l.st + 16 * accessCode (access l p)),
      byteOf (portNum l.owner + 4 * ((borrowerOf l).map portNum).getD 0),
      byteOf (setNum (shareOf l) + 16 * setNum l.marks), byteOf l.length,
      byteOf (((offerRefOf l).map Fin.val).getD 0)] ++
     bytes16 ((countdownOf l).getD 0) ++ bytes16 (countsAt s p).buffers ++
     bytes16 (countsAt s p).pages := by
  have hborrower : optPortNum (borrowerOf l) = ((borrowerOf l).map portNum).getD 0 := by
    cases borrowerOf l <;> rfl
  have hoffer : (match offerRefOf l with | none => 0 | some id => id.val) =
      ((offerRefOf l).map Fin.val).getD 0 := by
    cases offerRefOf l <;> rfl
  simp only [infoBytes, hborrower, countsBytes, List.append_assoc]
  cases offerRefOf l <;> rfl

end

/-- Settles O17. -/
theorem attachAndReports : Obligations.AttachAndReports := by
  unfold Obligations.AttachAndReports
  refine ⟨fun s p h hstate hprst => ?attach, fun s p h => ?clearFault, fun s p h => ?clearLost,
    fun s p b l h hcheck => ?info⟩
  case attach =>
    exact ⟨_, exec_attach_ok h hstate hprst, reply_onlyPort (fun _ => rfl) fun _ => rfl⟩
  case clearFault =>
    refine accepted_onlyPort (body := clearFaultAnswer p) (g := fun hp => { hp with fault := none }) h (fun _ => rfl) (fun _ => rfl) ?_
    rw [clearFaultAnswer, portAt_take_self]
    rfl
  case clearLost =>
    refine accepted_onlyPort (body := clearLostAnswer p) (g := fun hp => { hp with lost := false }) h (fun _ => rfl) (fun _ => rfl) ?_
    rw [clearLostAnswer, portAt_take_self]
    rfl
  case info =>
    rw [← infoBytes_eq]
    exact accepted_report (body := infoAnswer p) h (infoAnswer_ok hcheck)

end Sys2Proof.Proofs

/-! The obligations on owning buffers (chapter 5). -/

namespace Sys2Proof.Proofs

open Sys2Proof Sys2Proof.Machine Sys2Proof.Safety

section
variable {s : State} {p q : Port} {b : BufNo} {l : Live} {n : Nat} {hd tl : PageNo}

/-! ### ALLOC -/

/-- The search for a VACANT record stops at the first (R6). -/
theorem vacantFrom_eq {t : List (Nat × BufRec)} {k b : Nat} (n : Nat) (hlo : k ≤ b) (hhi : b < k + n)
    (hvacant : (tabGet vacantRec t b).live = none)
    (hlive : ∀ c, k ≤ c → c < b → (tabGet vacantRec t c).live ≠ none) :
    vacantFrom t k n = some b := by
  induction n generalizing k with
  | zero => omega
  | succ n ih =>
    rw [vacantFrom]
    obtain rfl | hlt := Nat.eq_or_lt_of_le hlo
    · rw [if_pos hvacant]
    · rw [if_neg (hlive k le_rfl hlt)]
      exact ih hlt (by omega) fun c hc => hlive c (by omega)

theorem lowestVacant_eq (hvacant : liveAt s b = none) (hlive : ∀ c, c < b → liveAt s c ≠ none) :
    lowestVacant s = some b := by
  have hb := b.isLt
  have hfrom : vacantFrom s.buffers 0 1024 = some b.val :=
    vacantFrom_eq 1024 (Nat.zero_le _) (by omega) hvacant fun c _ hc =>
      hlive ⟨c, by omega⟩ hc
  simp [lowestVacant, hfrom, bufNoOf_eq_some]

theorem head?_take_of_pos {α : Type} (xs : List α) (hpos : 1 ≤ n) : (xs.take n).head? = xs[0]? := by
  rw [List.head?_take, if_neg (by omega), List.head?_eq_getElem?]

theorem getLast?_take_of_le {α : Type} (xs : List α) (hpos : 1 ≤ n) (hle : n ≤ xs.length) :
    (xs.take n).getLast? = xs[n - 1]? := by
  rw [List.getLast?_take, if_neg (by omega), List.getElem?_eq_getElem (by omega), Option.some_or]

/-- The state an accepted ALLOC leaves before its reply (R87). -/
def allocated (p : Port) (b : BufNo) (n : Nat) (hd tl : PageNo) (s : State) : State :=
  s |> takeAndChain b none n |> setLive b (newLive p (s.freeList.take n) hd tl) |> raiseCounts p 1 n

theorem allocAnswer_ok (hn : n = (param s p 0).toNat) (hpos : 1 ≤ n) (hmax : n ≤ 32)
    (hbuf : (countsAt s p).buffers + 1 ≤ perGet s.cfg.bufQuota p)
    (hpages : (countsAt s p).pages + n ≤ perGet s.cfg.pageQuota p) (hvacant : liveAt s b = none)
    (hlive : ∀ c, c < b → liveAt s c ≠ none) (hfree : n ≤ s.freeList.length)
    (hhd : (s.freeList.take n).head? = some hd) (htl : (s.freeList.take n).getLast? = some tl) :
    allocAnswer p s = .ok (allocated p b n hd tl s,
      handleBytes ⟨b, genAt s b⟩ ++ [byteOf n] ++ bytes16 ((countsAt s p).buffers + 1) ++
        bytes16 ((countsAt s p).pages + n)) := by
  have hquota : overQuota s p n = false := by simp [overQuota, overPages]; omega
  have hrange : ¬(n = 0 ∨ 32 < n) := by omega
  unfold allocAnswer
  rw [← hn]
  dsimp only
  rw [if_neg hrange, hquota, if_neg Bool.false_ne_true, lowestVacant_eq hvacant hlive]
  dsimp only
  rw [if_neg (by omega), hhd, htl]
  simp [countsBytes, allocated, handleAt]

/-! ### EXTEND -/

/-- The state an accepted EXTEND leaves before its reply (R89). -/
def extended (p : Port) (b : BufNo) (l : Live) (n : Nat) (tl : PageNo) (s : State) : State :=
  s |> takeAndChain b (some l.tail) n |> setLive b { l with length := l.length + n, tail := tl }
    |> raiseCounts p 0 n |> updPorts (fun _ => onSlots (lengthSlot (handleAt s b) (l.length + n)))

theorem extendAnswer_ok (hcheck : checkHandle s p 0 = .ok (b, l)) (hn : n = (param s p 3).toNat)
    (hpos : 1 ≤ n) (howner : l.owner = p) (hheld : isHeld l = true) (hmax : l.length + n ≤ 32)
    (hpages : (countsAt s p).pages + n ≤ perGet s.cfg.pageQuota p) (hfree : n ≤ s.freeList.length)
    (htl : (s.freeList.take n).getLast? = some tl) :
    extendAnswer p s = .ok (extended p b l n tl s,
      [byteOf (l.length + n)] ++ bytes16 ((countsAt s p).pages + n)) := by
  have hquota : overPages s p n = false := by simp [overPages]; omega
  unfold extendAnswer
  rw [hcheck]
  dsimp only
  rw [← hn, if_neg (by omega), if_neg (not_not_intro howner), hheld, if_neg (by decide),
    if_neg (by omega), hquota, if_neg Bool.false_ne_true, if_neg (by omega), htl]
  simp [extended]

/-! ### TRIM -/

/-- The state an accepted TRIM leaves before its reply (R91). -/
def trimmedTo (p : Port) (b : BufNo) (l : Live) (n : Nat) (tl : PageNo) (s : State) : State :=
  s |> scrubPages ((chainOf s l).drop (l.length - n)) |> cutChain b tl
    |> setLive b { l with length := l.length - n, tail := tl } |> lowerCounts p 0 n
    |> updPorts (trimPort p (handleAt s b) (l.length - n))

theorem trimAnswer_ok (hcheck : checkHandle s p 0 = .ok (b, l)) (hn : n = (param s p 3).toNat)
    (hpos : 1 ≤ n) (hmax : n ≤ 32) (howner : l.owner = p) (hheld : isHeld l = true)
    (hlt : n < l.length) (hmarks : isEmptySet l.marks = true)
    (htl : ((chainOf s l).take (l.length - n)).getLast? = some tl) :
    trimAnswer p s = .ok (trimmedTo p b l n tl s,
      [byteOf (l.length - n)] ++ bytes16 ((countsAt s p).pages - n)) := by
  unfold trimAnswer
  rw [hcheck]
  dsimp only
  rw [← hn, if_neg (by omega), if_neg (not_not_intro howner), hheld, if_neg (by decide),
    if_neg (by omega), hmarks, if_neg (by decide), htl]
  simp [trimmedTo]

theorem entryAt_trimmedTo (pg : PageNo) : entryAt (trimmedTo p b l n tl s) pg =
    if pg = tl then .chained b none
    else if pg ∈ (chainOf s l).drop (l.length - n) then .scrub else entryAt s pg := by
  simp only [trimmedTo, entryAt_updPorts, entryAt_lowerCounts, entryAt_setLive]
  exact entryAt_trimmed pg

/-- A trim request and its notice at another port (R91). -/
theorem trimPort_other {h : Handle} {hp : HostPort} (hq : q ≠ p) :
    trimPort p h n q hp =
      if 0 < countSlots (trimmed h n) hp then notified (onSlots (trimSlot h n) hp) (.revoked h .trim)
      else onSlots (trimSlot h n) hp := by
  simp [trimPort, hq, takeAppend_eq]

theorem trimPort_caller {h : Handle} {hp : HostPort} :
    trimPort p h n p hp = onSlots (trimSlot h n) hp := by
  simp [trimPort]

/-! ### Retirement (R11) -/

section
variable (b : BufNo) (l : Live) (cause : Cause) (caller : Option Port) (s : State)

theorem recAt_retire (c : BufNo) : recAt (retire b l cause caller s) c =
    if c = b then ⟨genAt s b + 1, none⟩ else recAt s c := by
  rw [retire, recAt_setRec]
  rfl

theorem recordRetired_retire : RecordRetired b s (retire b l cause caller s) :=
  ⟨by rw [recAt_retire, if_pos rfl], fun c hc => by rw [recAt_retire, if_neg hc]⟩

theorem portAt_retire (q : Port) : portAt (retire b l cause caller s) q =
    if revokedAtRetirement l cause caller q then
      notified (voided (portAt s q) ⟨b, genAt s b⟩) (.revoked ⟨b, genAt s b⟩ cause)
    else voided (portAt s q) ⟨b, genAt s b⟩ := by
  simp only [retire, revokeAll, portAt_setRec, portAt_lowerCounts, portAt_scrubPages,
    portAt_unpublishAll, portAt_updPorts]
  rfl

theorem countsAt_retire (q : Port) : countsAt (retire b l cause caller s) q =
    if q = l.owner then ⟨(countsAt s q).buffers - 1, (countsAt s q).pages - l.length⟩
    else countsAt s q := by
  rw [retire, countsAt_setRec, countsAt_lowerCounts]
  split
  · next hq => subst hq; rfl
  · rfl

theorem pagesScrubbed_retire : PagesScrubbed (chainOf s l) s (retire b l cause caller s) :=
  ⟨rfl, fun pg => tabGet_unchain (chainOf s l) pg⟩

theorem dir_retire : (retire b l cause caller s).dir = s.dir.filter (fun e => e.handle.buf != b) := rfl

theorem retire_frame : retire b l cause caller s =
    { s with ports := (retire b l cause caller s).ports
             buffers := (retire b l cause caller s).buffers
             pageMap := (retire b l cause caller s).pageMap
             counts := (retire b l cause caller s).counts
             scrubQueue := (retire b l cause caller s).scrubQueue
             dir := (retire b l cause caller s).dir } := rfl
end

/-! ### FREE -/

/-- Of a HELD record retired by its owner, the ports of the share set are told (R94). -/
theorem revokedAtRetirement_freed (howner : l.owner = p) (hheld : isHeld l = true) (hq : q ≠ p) :
    revokedAtRetirement l .freed (some p) q = perGet (shareOf l) q := by
  have hcaller : (some p != some q) = true := by simp [Ne.symm hq]
  cases hst : l.st with
  | held share =>
    simp only [revokedAtRetirement, access, shareOf, hst, howner, if_neg (Ne.symm hq), hcaller]
    cases perGet share q <;> rfl
  | offered | lent | recalling => simp [isHeld, hst] at hheld

theorem revokedAtRetirement_caller (l : Live) (p : Port) :
    revokedAtRetirement l .freed (some p) p = false := by
  simp [revokedAtRetirement]

theorem freeAnswer_ok (hcheck : checkHandle s p 0 = .ok (b, l)) (howner : l.owner = p)
    (hheld : isHeld l = true) (hmarks : isEmptySet l.marks = true) :
    freeAnswer p s = .ok (retire b l .freed (some p) s,
      [byteOf l.length] ++ countsBytes (retire b l .freed (some p) s) p) := by
  unfold freeAnswer
  rw [hcheck]
  dsimp only
  rw [if_neg (not_not_intro howner), hheld, if_neg (by decide), hmarks, if_neg (by decide)]

end

/-- Settles O20. -/
theorem allocRule : Obligations.AllocRule := by
  unfold Obligations.AllocRule
  intro s p b n h hn hpos hmax hbuf hpages hvacant hlive hfree
  obtain ⟨hd, hhd⟩ : ∃ hd, s.freeList[0]? = some hd := ⟨_, List.getElem?_eq_getElem (by omega)⟩
  obtain ⟨tl, htl⟩ : ∃ tl, s.freeList[n - 1]? = some tl := ⟨_, List.getElem?_eq_getElem (by omega)⟩
  have hexec := portHandling_ok (body := allocAnswer p) h
    (allocAnswer_ok (s := updPort p takeCommand s) (by rw [param_take]; exact hn) hpos hmax hbuf hpages
      hvacant hlive hfree ((head?_take_of_pos _ hpos).trans hhd)
      ((getLast?_take_of_le _ hpos hfree).trans htl))
  refine ⟨_, hd, tl, hexec, ?frame, sameBytes_reply rfl, hhd, htl, ⟨?record, fun c hc => ?records⟩,
    fun q => ?counts, ?port, fun q hq => ?others⟩
  case frame => rw [reply_eq]; rfl
  case record =>
    simp [allocated, newLive, noPorts, hfree]
    rfl
  case records => simp [allocated, hc]
  case counts =>
    simp only [countsAt_reply, allocated, countsAt_raiseCounts]
    split
    · next hq => subst hq; simp
    · simp
  case port => exact portAt_reply_taken (g := id) (portAt_take_self s p) fun _ => rfl
  case others => rw [portAt_reply_other hq]; exact portAt_take_other s hq

/-- Settles O21. -/
theorem extendRule : Obligations.ExtendRule := by
  unfold Obligations.ExtendRule
  intro s p b l n h hcheck hn hpos howner hheld hmax hpages hfree
  obtain ⟨tl, htl⟩ : ∃ tl, s.freeList[n - 1]? = some tl := ⟨_, List.getElem?_eq_getElem (by omega)⟩
  have hexec := portHandling_ok (body := extendAnswer p) h
    (extendAnswer_ok (s := updPort p takeCommand s) (by rw [checkHandle_take]; exact hcheck)
      (by rw [param_take]; exact hn) hpos howner hheld hmax hpages hfree
      ((getLast?_take_of_le _ hpos hfree).trans htl))
  refine ⟨_, tl, hexec, ?frame, sameBytes_reply rfl, htl, ⟨?record, fun c hc => ?records⟩,
    fun q => ?counts, fun q hq => ?others, ?port⟩
  case frame => rw [reply_eq]; rfl
  case record => simp [extended]
  case records => simp [extended, hc]
  case counts =>
    simp only [countsAt_reply, extended, countsAt_updPorts, countsAt_raiseCounts]
    split
    · next hq => subst hq; simp
    · simp
  case others =>
    rw [portAt_reply_other hq, extended, portAt_updPorts]
    exact congrArg _ (portAt_take_other s hq)
  case port =>
    refine portAt_reply_taken (g := onSlots (lengthSlot ⟨b, genAt s b⟩ (l.length + n))) ?_ fun _ => rfl
    rw [extended, portAt_updPorts]
    exact congrArg _ (portAt_take_self s p)

/-- Settles O22. -/
theorem trimRule : Obligations.TrimRule := by
  unfold Obligations.TrimRule
  rintro s p b l n _ tl h hcheck hn hpos hmax howner hheld hlt hmarks rfl htl
  have hexec := portHandling_ok (body := trimAnswer p) h
    (trimAnswer_ok (s := updPort p takeCommand s) (by rw [checkHandle_take]; exact hcheck)
      (by rw [param_take]; exact hn) hpos hmax howner hheld hlt hmarks htl)
  refine ⟨_, hexec, ?frame, sameBytes_reply rfl, ⟨?record, fun c hc => ?records⟩, fun pg => ?entries,
    fun q => ?counts, fun q hq => ?others, ?port⟩
  case frame => rw [reply_eq]; rfl
  case record => simp [trimmedTo]
  case records => simp [trimmedTo, hc]
  case entries => exact (entryAt_reply pg).trans (entryAt_trimmedTo pg)
  case counts =>
    simp only [countsAt_reply, trimmedTo, countsAt_updPorts, countsAt_lowerCounts]
    split
    · next hq => subst hq; simp
    · simp
  case others =>
    have hport : portAt (trimmedTo p b l n tl (updPort p takeCommand s)) q =
        trimPort p ⟨b, genAt s b⟩ (l.length - n) q (portAt s q) := by
      rw [trimmedTo, portAt_updPorts]
      exact congrArg _ (portAt_take_other s hq)
    rw [portAt_reply_other hq, hport, trimPort_other hq]
  case port =>
    refine portAt_reply_taken (g := onSlots (trimSlot ⟨b, genAt s b⟩ (l.length - n))) ?_ fun _ => rfl
    rw [trimmedTo, portAt_updPorts, trimPort_caller]
    exact congrArg _ (portAt_take_self s p)

/-- Settles O23. -/
theorem freeRule : Obligations.FreeRule := by
  unfold Obligations.FreeRule
  intro s p b l h hcheck howner hheld hmarks
  have hexec := portHandling_ok (body := freeAnswer p) h
    (freeAnswer_ok (s := updPort p takeCommand s) (by rw [checkHandle_take]; exact hcheck) howner hheld hmarks)
  refine ⟨_, hexec, ?frame, sameBytes_reply rfl, ⟨?record, fun c hc => ?records⟩,
    ⟨?queue, fun pg => ?entries⟩, fun q => ?counts, fun q hq => ?others, ?port⟩
  case frame => rw [reply_eq]; rfl
  case record => rw [recAt_reply, recAt_retire, if_pos rfl]; rfl
  case records => rw [recAt_reply, recAt_retire, if_neg hc]; rfl
  case queue => rw [reply_eq]; rfl
  case entries => exact (entryAt_reply pg).trans ((pagesScrubbed_retire b l .freed (some p) _).2 pg)
  case counts =>
    rw [countsAt_reply, countsAt_retire, howner]
    split
    · next hq => subst hq; rfl
    · rfl
  case others =>
    rw [portAt_reply_other hq, portAt_retire, revokedAtRetirement_freed howner hheld hq,
      portAt_take_other s hq]
    rfl
  case port =>
    have hcounts : countsBytes (retire b l .freed (some p) (updPort p takeCommand s)) p =
        bytes16 ((countsAt s p).buffers - 1) ++ bytes16 ((countsAt s p).pages - l.length) := by
      rw [countsBytes, countsAt_retire, if_pos howner.symm]
      rfl
    rw [hcounts, ← List.append_assoc]
    refine portAt_reply_taken (g := onSlots (voidSlot ⟨b, genAt s b⟩)) ?_ fun _ => rfl
    rw [portAt_retire, revokedAtRetirement_caller, portAt_take_self]
    rfl

end Sys2Proof.Proofs

/-! The obligations on windows, sharing and the Directory (sections 3.7 and 6). -/

namespace Sys2Proof.Proofs

open Sys2Proof Sys2Proof.Machine Sys2Proof.Safety

section
variable {s u : State} {p q : Port} {b : BufNo} {l l' : Live} {n : Notice} {r : Result} {area : List Byte}

/-! ### Replies that tell another port -/

/-- The ports after a reply whose command has told another port. -/
theorem portAt_reply_notify (hports : ∀ x, portAt u x = portAt (updPort p takeCommand s) x)
    (hq : q ≠ p) :
    portAt (reply p r area (notify q n u)) p = answered (portAt s p) r area ∧
      portAt (reply p r area (notify q n u)) q = notified (portAt s q) n ∧
      ∀ x, x ≠ p → x ≠ q → portAt (reply p r area (notify q n u)) x = portAt s x := by
  refine ⟨?_, ?_, fun x hx hxq => ?_⟩
  · refine portAt_reply_taken (g := id) ?_ fun _ => rfl
    rw [portAt_notify, if_neg hq.symm, hports, portAt_take_self]
    rfl
  · rw [portAt_reply_other hq, portAt_notify, if_pos rfl, hports, portAt_take_other s hq, takeAppend_eq]
  · rw [portAt_reply_other hx, portAt_notify, if_neg hxq, hports, portAt_take_other s hx]

/-- A notice to an ATTACHED port with room joins its queue (R147, R148). -/
theorem notified_of_room {hp : HostPort} (hatt : hp.state = .attached) (hroom : hp.queue.length ≤ 12)
    (n : Notice) : notified hp n = { hp with queue := hp.queue ++ [n] } := by
  rw [notified, if_pos hatt, appended, if_pos (by omega)]

theorem recordBecomes_reply (h : ∀ c, recAt u c = recAt (setLive b l s) c) :
    RecordBecomes b l s (reply p r area u) :=
  ⟨by rw [recAt_reply, h, recAt_setLive, if_pos rfl],
    fun c hc => by rw [recAt_reply, h, recAt_setLive, if_neg hc]⟩

/-! ### MAP -/

theorem updPort_congr {f g : HostPort → HostPort} (h : f (portAt s p) = g (portAt s p)) :
    updPort p f s = updPort p g s := by
  simp only [updPort, h]

theorem mapAnswer_ok {w : Window} {mode : MapMode} (hatt : attached s p = true)
    (hcheck : checkHandle s p 0 = .ok (b, l)) (hwindow : windowOf (param s p 3) = some w)
    (hmode : mapModeOf (param s p 4) = some mode) (hallow : allows (access l p) mode = true)
    (hpage : (param s p 5).toNat < l.length) :
    mapAnswer p s = .ok (updPort p (putSlot w
      (.mapped ⟨⟨b, genAt s b⟩, mode, l.length, (param s p 5).toNat, 0, false, false⟩)) s,
      [byteOf l.length]) := by
  have hinstall : updPort p
      (takeInstall w (newMapping (handleAt s b) mode l.length (param s p 5).toNat)) s =
      updPort p (putSlot w
        (.mapped ⟨⟨b, genAt s b⟩, mode, l.length, (param s p 5).toNat, 0, false, false⟩)) s :=
    updPort_congr (by rw [takeInstall, if_pos (by simpa [attached] using hatt)]; rfl)
  simp [mapAnswer, hcheck, hwindow, hmode, hallow, Nat.not_le.2 hpage, hinstall]

/-! ### SHARE, UNSHARE and LEAVE -/

theorem shareAnswer_ok (hcheck : checkHandle s p 0 = .ok (b, l)) (howner : l.owner = p)
    (hheld : isHeld l = true) (htarget : portOf (param s p 3) = some q) (hq : q ≠ p)
    (hatt : attached s q = true) (hshare : perGet (shareOf l) q = false)
    (hroom : (portAt s q).queue.length ≤ 12) :
    shareAnswer p s = .ok
      (s |> setLive b { l with st := .held (perSet (shareOf l) q true) }
        |> notify q (.granted ⟨b, genAt s b⟩ p),
      [byteOf (setNum (perSet (shareOf l) q true))]) := by
  simp [shareAnswer, hcheck, howner, hheld, htarget, hq, hatt, hshare, queueAdmits, hroom, handleAt]

theorem unshareAnswer_ok (hcheck : checkHandle s p 0 = .ok (b, l)) (howner : l.owner = p)
    (htarget : portOf (param s p 3) = some q) (hq : q ≠ p) (hshare : perGet (shareOf l) q = true)
    (hmark : perGet l.marks q = false) :
    unshareAnswer p s = .ok
      (s |> leaveShare b l q |> notify q (.revoked ⟨b, genAt s b⟩ .unshare),
      [byteOf (setNum (perSet (shareOf l) q false)),
        byteOf (countSlots (mappedOn ⟨b, genAt s b⟩) (portAt s q))]) := by
  simp [unshareAnswer, hcheck, howner, htarget, hq, hshare, hmark, handleAt, voidCount]

theorem leaveAnswer_ok (hcheck : checkHandle s p 0 = .ok (b, l)) (hshare : perGet (shareOf l) p = true)
    (hmark : perGet l.marks p = false) :
    leaveAnswer p s = .ok
      (s |> leaveShare b l p |> notify l.owner (.left ⟨b, genAt s b⟩ p .leave),
      [byteOf (countSlots (mappedOn ⟨b, genAt s b⟩) (portAt s p))]) := by
  simp [leaveAnswer, hcheck, hshare, hmark, handleAt, voidCount]

theorem portAt_leaveShare (x : Port) : portAt (leaveShare b l q s) x =
    if x = q then voided (portAt s q) ⟨b, genAt s b⟩ else portAt s x := by
  rw [leaveShare, portAt_voidAt]
  rfl

/-! ### PUBLISH, LOOKUP, NEXT and SUBSCRIBE -/

/-- A new name goes between the smaller and the larger names (R110). -/
theorem dirInsert_split (e : DirEntry) {d : List DirEntry} (h : ∀ x ∈ d, x.name ≠ e.name) :
    ∃ before after, d = before ++ after ∧ dirInsert e d = before ++ e :: after ∧
      (∀ x ∈ before, x.name < e.name) ∧ ∀ x, after.head? = some x → e.name < x.name := by
  induction d with
  | nil => exact ⟨[], [], rfl, rfl, fun _ hx => (nomatch hx), fun _ hx => (nomatch hx)⟩
  | cons x xs ih =>
    by_cases hlt : e.name < x.name
    · refine ⟨[], x :: xs, rfl, by simp [dirInsert, hlt], fun _ hx => (nomatch hx), fun y hy => ?_⟩
      cases hy
      exact hlt
    · obtain ⟨before, after, hd, hinsert, hbefore, hafter⟩ := ih fun y hy => h y (by simp [hy])
      have hx := h x (by simp)
      refine ⟨x :: before, after, by simp [hd], by simp [dirInsert, hlt, hinsert], fun y hy => ?_, hafter⟩
      obtain rfl | hy := List.mem_cons.1 hy
      · omega
      · exact hbefore y hy

theorem publishAnswer_ok {name : Nat} {mode : DirMode} (hcheck : checkHandle s p 0 = .ok (b, l))
    (hname : name = paramNum s p 3) (hpos : name ≠ 0) (hmode : dirModeOf (param s p 5) = some mode)
    (howner : l.owner = p) (hheld : isHeld l = true) (hnew : ∀ e ∈ s.dir, e.name ≠ name)
    (hroom : s.dir.length < 64) :
    publishAnswer p s = .ok ({ s with dir := dirInsert ⟨name, ⟨b, genAt s b⟩, p, mode⟩ s.dir },
      [byteOf (s.dir.length + 1)]) := by
  have hfind : dirFind s.dir name = none := (dirFind_eq_none_iff _ _).2 hnew
  subst hname
  simp [publishAnswer, hcheck, hpos, hmode, howner, hheld, hfind, dirSize, Nat.not_le.2 hroom, handleAt,
    length_dirInsert]

theorem lookupAnswer_ok {name : Nat} {e : DirEntry} (hname : name = paramNum s p 0) (hpos : name ≠ 0)
    (hfind : s.dir.find? (fun x => x.name = name) = some e) (hlive : liveAt s e.handle.buf = some l) :
    lookupAnswer p s = .ok (s,
      handleBytes e.handle ++ [portByte e.publisher, dirModeCode e.mode, byteOf l.length]) := by
  subst hname
  simp [lookupAnswer, hpos, dirFind, hfind, entryLength, hlive]

theorem nextAnswer_ok {e : DirEntry} (hfind : s.dir.find? (fun x => paramNum s p 0 < x.name) = some e)
    (hlive : liveAt s e.handle.buf = some l) :
    nextAnswer p s = .ok (s, bytes16 e.name ++ handleBytes e.handle ++
      [portByte e.publisher, dirModeCode e.mode, byteOf l.length]) := by
  simp [nextAnswer, dirNext, hfind, entryLength, hlive]

theorem subscribeAnswer_ok {name : Nat} {e : DirEntry} (hname : name = paramNum s p 0) (hpos : name ≠ 0)
    (hfind : s.dir.find? (fun x => x.name = name) = some e) (hlive : liveAt s e.handle.buf = some l)
    (howner : l.owner ≠ p) (hmode : e.mode = .openMode) (hheld : isHeld l = true)
    (hpub : e.publisher = l.owner) (hatt : attached s l.owner = true)
    (hshare : perGet (shareOf l) p = false) (hroom : (portAt s l.owner).queue.length ≤ 12) :
    subscribeAnswer p s = .ok
      (s |> setLive e.handle.buf { l with st := .held (perSet (shareOf l) p true) }
        |> notify l.owner (.joined ⟨e.handle.buf, genAt s e.handle.buf⟩ p name),
      handleBytes ⟨e.handle.buf, genAt s e.handle.buf⟩ ++ [byteOf l.length, portByte l.owner]) := by
  subst hname
  simp [subscribeAnswer, hpos, dirFind, hfind, hlive, howner, hmode, hheld, hpub, hatt, hshare, queueAdmits,
    hroom, handleAt]

end

/-- Settles O24. -/
theorem mapRule : Obligations.MapRule := by
  unfold Obligations.MapRule
  intro s p b l w mode h hcheck hwindow hmode hallow hpage
  refine accepted_onlyPort (body := mapAnswer p) (g := putSlot w
    (.mapped ⟨⟨b, genAt s b⟩, mode, l.length, (param s p 5).toNat, 0, false, false⟩)) h
    (fun _ => by cases w <;> rfl) (fun _ => by cases w <;> rfl) ?_
  have hans := mapAnswer_ok (s := updPort p takeCommand s) ((attached_take s p p).trans h.2)
    ((checkHandle_take s p p 0).trans hcheck) ((congrArg windowOf (param_take s p p 3)).trans hwindow)
    ((congrArg mapModeOf (param_take s p p 4)).trans hmode) hallow (by rwa [param_take])
  rwa [param_take] at hans

/-- Settles O25. -/
theorem shareRule : Obligations.ShareRule := by
  unfold Obligations.ShareRule
  intro s p q b l h hcheck howner hheld htarget hq hatt hshare hroom
  have hans := shareAnswer_ok (s := updPort p takeCommand s) ((checkHandle_take s p p 0).trans hcheck)
    howner hheld ((congrArg portOf (param_take s p p 3)).trans htarget) hq ((attached_take s p q).trans hatt)
    hshare (by rwa [portAt_take_other s hq])
  obtain ⟨hport, hother, hrest⟩ := portAt_reply_notify (s := s) (p := p) (q := q) (r := .ok)
    (u := setLive b { l with st := .held (perSet (shareOf l) q true) } (updPort p takeCommand s))
    (n := .granted ⟨b, genAt s b⟩ p) (area := [byteOf (setNum (perSet (shareOf l) q true))])
    (fun _ => rfl) hq
  refine ⟨_, portHandling_ok (body := shareAnswer p) h hans, ?_, sameBytes_reply rfl,
    recordBecomes_reply fun _ => rfl, hport, ?_, hrest⟩
  · rw [reply_eq]; rfl
  · rw [← notified_of_room (by simpa [attached] using hatt) hroom]
    exact hother

/-- Settles O26. -/
theorem unshareAndLeave : Obligations.UnshareAndLeave := by
  unfold Obligations.UnshareAndLeave
  refine ⟨fun s p q b l h hcheck howner htarget hq hshare hmark => ?unshare,
    fun s p b l h hcheck hshare hmark => ?leave⟩
  case unshare =>
    have hans := unshareAnswer_ok (s := updPort p takeCommand s)
      ((checkHandle_take s p p 0).trans hcheck) howner
      ((congrArg portOf (param_take s p p 3)).trans htarget) hq hshare hmark
    rw [portAt_take_other s hq] at hans
    refine ⟨_, portHandling_ok (body := unshareAnswer p) h hans, ?_, sameBytes_reply rfl,
      recordBecomes_reply fun _ => rfl, ?_, ?_, fun x hx hxq => ?_⟩
    · rw [reply_eq]; rfl
    · refine portAt_reply_taken (g := id) ?_ fun _ => rfl
      rw [portAt_notify, if_neg hq.symm, portAt_leaveShare, if_neg hq.symm, portAt_take_self]
      rfl
    · rw [portAt_reply_other hq, portAt_notify, if_pos rfl, portAt_leaveShare, if_pos rfl,
        portAt_take_other s hq]
      rfl
    · rw [portAt_reply_other hx, portAt_notify, if_neg hxq, portAt_leaveShare, if_neg hxq,
        portAt_take_other s hx]
  case leave =>
    have hans := leaveAnswer_ok (s := updPort p takeCommand s)
      ((checkHandle_take s p p 0).trans hcheck) hshare hmark
    rw [portAt_take_self] at hans
    refine ⟨_, portHandling_ok (body := leaveAnswer p) h hans, ?_, sameBytes_reply rfl,
      recordBecomes_reply fun _ => rfl, fun howner => ⟨?_, ?_⟩, fun x hx hxq => ?_⟩
    · rw [reply_eq]; rfl
    · refine portAt_reply_taken (g := fun hp => voided hp ⟨b, genAt s b⟩) ?_ fun _ => rfl
      rw [portAt_notify, if_neg howner.symm, portAt_leaveShare, if_pos rfl, portAt_take_self]
      rfl
    · rw [portAt_reply_other howner, portAt_notify, if_pos rfl, portAt_leaveShare, if_neg howner,
        portAt_take_other s howner]
      rfl
    · rw [portAt_reply_other hx, portAt_notify, if_neg hxq, portAt_leaveShare, if_neg hx,
        portAt_take_other s hx]

/-- Settles O27. -/
theorem publishAndLookup : Obligations.PublishAndLookup := by
  unfold Obligations.PublishAndLookup
  refine ⟨fun s p b l name mode h hcheck hname hpos hmode howner hheld hnew hroom => ?publish,
    fun s p e l name h hname hpos hfind hlive => ?lookup, fun s p e l h hfind hlive => ?next⟩
  case publish =>
    have hans := publishAnswer_ok (s := updPort p takeCommand s)
      ((checkHandle_take s p p 0).trans hcheck) (hname.trans (paramNum_take s p p 3).symm) hpos
      ((congrArg dirModeOf (param_take s p p 5)).trans hmode) howner hheld hnew hroom
    obtain ⟨before, after, hd, hinsert, hbefore, hafter⟩ :=
      dirInsert_split ⟨name, ⟨b, genAt s b⟩, p, mode⟩ (d := s.dir) hnew
    refine ⟨_, before, after, portHandling_ok (body := publishAnswer p) h hans, ?_, sameBytes_reply rfl, hd,
      ?_, hbefore, hafter, ?_, fun q hq => ?_⟩
    · rw [reply_eq]; rfl
    · rw [reply_dir]; exact hinsert
    · exact portAt_reply_taken (g := id) (portAt_take_self s p) fun _ => rfl
    · rw [portAt_reply_other hq]; exact portAt_take_other s hq
  case lookup =>
    exact accepted_report (body := lookupAnswer p) h (lookupAnswer_ok (s := updPort p takeCommand s)
      (hname.trans (paramNum_take s p p 0).symm) hpos hfind hlive)
  case next =>
    exact accepted_report (body := nextAnswer p) h (nextAnswer_ok (s := updPort p takeCommand s)
      (by rw [paramNum_take]; exact hfind) hlive)

/-- Settles O29. -/
theorem subscribeRule : Obligations.SubscribeRule := by
  unfold Obligations.SubscribeRule
  intro s p e l name h hname hpos hfind hlive howner hmode hheld hpub hatt hshare hroom
  have hans := subscribeAnswer_ok (s := updPort p takeCommand s)
    (hname.trans (paramNum_take s p p 0).symm) hpos hfind hlive howner hmode hheld hpub
    ((attached_take s p l.owner).trans hatt) hshare (by rwa [portAt_take_other s howner])
  obtain ⟨hport, hother, hrest⟩ := portAt_reply_notify (s := s) (p := p) (q := l.owner) (r := .ok)
    (u := setLive e.handle.buf { l with st := .held (perSet (shareOf l) p true) } (updPort p takeCommand s))
    (n := .joined ⟨e.handle.buf, genAt s e.handle.buf⟩ p name)
    (area := handleBytes ⟨e.handle.buf, genAt s e.handle.buf⟩ ++ [byteOf l.length, portByte l.owner])
    (fun _ => rfl) howner
  refine ⟨_, portHandling_ok (body := subscribeAnswer p) h hans, ?_, sameBytes_reply rfl,
    recordBecomes_reply fun _ => rfl, hport, ?_, hrest⟩
  · rw [reply_eq]; rfl
  · rw [← notified_of_room (by simpa [attached] using hatt) hroom]
    exact hother

end Sys2Proof.Proofs

/-! The obligations on offers, lending and recall (chapter 7). -/

namespace Sys2Proof.Proofs

open Sys2Proof Sys2Proof.Machine Sys2Proof.Safety

section
variable {s u : State} {p q : Port} {b : BufNo} {l l' : Live} {id : OfferId} {o : Offer}

/-! ### LEND and GIVE -/

/-- The search for a free entry stops at the first (R120). -/
theorem freeOfferFrom_eq {t : List (Nat × Option Offer)} {k i : Nat} (n : Nat) (hlo : k ≤ i)
    (hhi : i < k + n) (hfree : tabGet none t i = none)
    (hused : ∀ j, k ≤ j → j < i → tabGet none t j ≠ none) : freeOfferFrom t k n = some i := by
  induction n generalizing k with
  | zero => omega
  | succ n ih =>
    rw [freeOfferFrom]
    obtain rfl | hlt := Nat.eq_or_lt_of_le hlo
    · rw [if_pos hfree]
    · rw [if_neg (hused k le_rfl hlt)]
      exact ih hlt (by omega) fun j hj => hused j (by omega)

theorem lowestFreeOffer_eq (hfree : offerAt s id = none) (hused : ∀ j, j < id → offerAt s j ≠ none) :
    lowestFreeOffer s = some id := by
  have hid := id.isLt
  have hfrom : freeOfferFrom s.offers 0 16 = some id.val :=
    freeOfferFrom_eq 16 (Nat.zero_le _) (by omega) hfree fun j _ hj => hused ⟨j, by omega⟩ hj
  simp [lowestFreeOffer, hfrom, offerNoOf]

theorem ne_portByte_of_portOf {v : Byte} (h : portOf v = some q) (hq : q ≠ p) : v ≠ portByte p := by
  rintro rfl
  have hp : portOf (portByte p) = some p := by cases p <;> rfl
  exact hq (Option.some.inj (h.symm.trans hp))

theorem offerAnswer_ok (kind : OfferKind) (hcheck : checkHandle s p 0 = .ok (b, l))
    (howner : l.owner = p) (hheld : isHeld l = true) (hshare : isEmptySet (shareOf l) = true)
    (htarget : portOf (param s p 3) = some q) (hq : q ≠ p) (hatt : attached s q = true)
    (hmarks : isEmptySet l.marks = true) (hfree : offerAt s id = none)
    (hused : ∀ j, j < id → offerAt s j ≠ none) (hroom : (portAt s q).queue.length ≤ 12) :
    offerAnswer kind p s = .ok
      (s |> setOffer id (some ⟨kind, p, q, ⟨b, genAt s b⟩, s.cfg.offerTicks⟩)
        |> setLive b { l with st := .offered id, forced := none }
        |> notify q (.offer id kind p ⟨b, genAt s b⟩ l.length),
      [byteOf id.val] ++ bytes16 s.cfg.offerTicks) := by
  simp [offerAnswer, hcheck, howner, hheld, hshare, ne_portByte_of_portOf htarget hq, htarget, hatt, hmarks,
    lowestFreeOffer_eq hfree hused, queueAdmits, hroom, handleAt]

/-- The effect of a LEND or GIVE that is accepted (R123). -/
theorem offer_effect (kind : OfferKind) {c : Command} (h : Ready s p c)
    (hcheck : checkHandle s p 0 = .ok (b, l)) (howner : l.owner = p) (hheld : isHeld l = true)
    (hshare : isEmptySet (shareOf l) = true) (htarget : portOf (param s p 3) = some q) (hq : q ≠ p)
    (hatt : attached s q = true) (hmarks : isEmptySet l.marks = true) (hfree : offerAt s id = none)
    (hused : ∀ j, j < id → offerAt s j ≠ none) (hroom : (portAt s q).queue.length ≤ 12) :
    ∃ t, portHandling p (some c) s (fromAttached p (offerAnswer kind p)) = .next t ∧
      t = { s with ports := t.ports, buffers := t.buffers, offers := t.offers,
                   tcLast := .port p, tcGrant := t.tcGrant } ∧
      SameBytes s t ∧ RecordBecomes b { l with st := .offered id, forced := none } s t ∧
      offerAt t id = some ⟨kind, p, q, ⟨b, genAt s b⟩, s.cfg.offerTicks⟩ ∧ OtherOffers id s t ∧
      portAt t p = answered (portAt s p) .ok ([byteOf id.val] ++ bytes16 s.cfg.offerTicks) ∧
      portAt t q = { portAt s q with
        queue := (portAt s q).queue ++ [.offer id kind p ⟨b, genAt s b⟩ l.length] } ∧
      (∀ r, r ≠ p → r ≠ q → portAt t r = portAt s r) := by
  have hans := offerAnswer_ok (s := updPort p takeCommand s) (id := id) kind
    ((checkHandle_take s p p 0).trans hcheck) howner hheld hshare
    ((congrArg portOf (param_take s p p 3)).trans htarget) hq ((attached_take s p q).trans hatt) hmarks hfree
    hused (by rwa [portAt_take_other s hq])
  obtain ⟨hport, hother, hrest⟩ := portAt_reply_notify (s := s) (p := p) (q := q) (r := .ok)
    (u := updPort p takeCommand s |> setOffer id (some ⟨kind, p, q, ⟨b, genAt s b⟩, s.cfg.offerTicks⟩)
      |> setLive b { l with st := .offered id, forced := none })
    (n := .offer id kind p ⟨b, genAt s b⟩ l.length)
    (area := [byteOf id.val] ++ bytes16 s.cfg.offerTicks) (fun _ => rfl) hq
  refine ⟨_, portHandling_ok h hans, ?_, sameBytes_reply rfl, recordBecomes_reply fun _ => rfl, ?_,
    fun j hj => ?_, hport, ?_, hrest⟩
  · rw [reply_eq]; rfl
  · rw [offerAt_reply, offerAt_notify, offerAt_setLive, offerAt_setOffer, if_pos rfl]
    rfl
  · rw [offerAt_reply, offerAt_notify, offerAt_setLive, offerAt_setOffer, if_neg hj]
    rfl
  · rw [← notified_of_room (by simpa [attached] using hatt) hroom]
    exact hother

/-! ### ACCEPT -/

section
variable (hcheck : checkHandle s p 0 = .ok (b, l)) (hid : (param s p 3).toNat = id.val)
  (hoffer : offerAt s id = some o) (hbuf : o.handle.buf = b) (hdst : o.dst = p)
  (hatt : attached s o.src = true) (hmarks : isEmptySet l.marks = true)
include hcheck hid hoffer hbuf hdst hatt hmarks

theorem acceptAnswer_lend (hkind : o.kind = .lend) :
    acceptAnswer p s = .ok (acceptLend p id b l s) := by
  simp [acceptAnswer, hcheck, matchOffer_of_entry hid hoffer hbuf hdst, hatt, hmarks, hkind]

theorem acceptAnswer_give (hkind : o.kind = .give) (hquota : overQuota s p l.length = false) :
    acceptAnswer p s = .ok (acceptGive p id b l s) := by
  simp [acceptAnswer, hcheck, matchOffer_of_entry hid hoffer hbuf hdst, hatt, hmarks, hkind, hquota]
end

/-- The record, the counts and the Directory of a buffer that is given (R126). -/
def givenTo (p : Port) (id : OfferId) (b : BufNo) (l : Live) (s : State) : State :=
  s |> setOffer id none |> setLive b { l with owner := p, st := .held noPorts }
    |> lowerCounts l.owner 1 l.length |> raiseCounts p 1 l.length |> unpublishAll b

theorem acceptGive_eq (howner : l.owner ≠ p) : acceptGive p id b l s =
    (givenTo p id b l s |> voidAt l.owner ⟨b, genAt s b⟩
        |> notify l.owner (.accepted id ⟨b, genAt s b⟩ p),
      handleBytes ⟨b, genAt s b⟩ ++ [2, byteOf l.length] ++ bytes16 ((countsAt s p).buffers + 1) ++
        bytes16 ((countsAt s p).pages + l.length)) := by
  refine Prod.ext rfl ?_
  simp [acceptGive, countsBytes, handleAt, howner.symm, offerKindCode]

theorem countsAt_givenTo (howner : l.owner ≠ p) (x : Port) : countsAt (givenTo p id b l s) x =
    if x = p then ⟨(countsAt s p).buffers + 1, (countsAt s p).pages + l.length⟩
    else if x = l.owner then ⟨(countsAt s x).buffers - 1, (countsAt s x).pages - l.length⟩
    else countsAt s x := by
  simp only [givenTo, countsAt_unpublishAll, countsAt_raiseCounts, countsAt_lowerCounts, countsAt_setLive,
    countsAt_setOffer, if_neg howner.symm]
  split
  · rfl
  · split
    · next hx => subst hx; rfl
    · rfl

/-- The ports after an ACCEPT: the old owner's slots voided and ACCEPTED in its queue. -/
theorem portAt_reply_accepted {h : Handle} {n : Notice} {r : Result} {area : List Byte}
    (hports : ∀ x, portAt u x = portAt (updPort p takeCommand s) x) (hq : q ≠ p) :
    portAt (reply p r area (u |> voidAt q h |> notify q n)) p = answered (portAt s p) r area ∧
      portAt (reply p r area (u |> voidAt q h |> notify q n)) q = notified (voided (portAt s q) h) n ∧
      ∀ x, x ≠ p → x ≠ q →
        portAt (reply p r area (u |> voidAt q h |> notify q n)) x = portAt s x := by
  refine ⟨?_, ?_, fun x hx hxq => ?_⟩
  · refine portAt_reply_taken (g := id) ?_ fun _ => rfl
    rw [portAt_notify, if_neg hq.symm, portAt_voidAt, if_neg hq.symm, hports, portAt_take_self]
    rfl
  · rw [portAt_reply_other hq, portAt_notify, if_pos rfl, portAt_voidAt, if_pos rfl, hports,
      portAt_take_other s hq]
    rfl
  · rw [portAt_reply_other hx, portAt_notify, if_neg hxq, portAt_voidAt, if_neg hxq, hports,
      portAt_take_other s hx]

/-! ### RECALL and RETURN -/

theorem recallAnswer_ok {n : Nat} (hcheck : checkHandle s p 0 = .ok (b, l)) (howner : l.owner = p)
    (hst : l.st = .lent q)
    (hn : n = if paramNum s p 3 = 0 then s.cfg.recallTicks else paramNum s p 3) :
    recallAnswer p s = .ok
      (s |> setLive b { l with st := .recalling q n } |> notify q (.recall ⟨b, genAt s b⟩ n),
      bytes16 n) := by
  simp [recallAnswer, hcheck, howner, hst, hn, handleAt]

theorem returnAnswer_ok (hcheck : checkHandle s p 0 = .ok (b, l)) (hforced : l.forced ≠ some p)
    (hborrower : borrowerOf l = some p) (hmark : perGet l.marks p = false) :
    returnAnswer p s = .ok
      (s |> returnToOwner b l p |> notify l.owner (.returned ⟨b, genAt s b⟩ .returned),
      [byteOf (countSlots (mappedOn ⟨b, genAt s b⟩) (portAt s p))]) := by
  simp [returnAnswer, hcheck, hforced, hborrower, hmark, handleAt, voidCount]

theorem returnAnswer_late (hcheck : checkHandle s p 0 = .ok (b, l)) (hforced : l.forced = some p) :
    returnAnswer p s = .error .late := by
  simp [returnAnswer, hcheck, hforced]

theorem portAt_returnToOwner (x : Port) : portAt (returnToOwner b l q s) x =
    if x = q then voided (portAt s q) ⟨b, genAt s b⟩ else portAt s x := by
  rw [returnToOwner, portAt_voidAt]
  rfl

end

/-- Settles O30. -/
theorem offerRule : Obligations.OfferRule := by
  unfold Obligations.OfferRule
  intro s p q b l id i c kind hkind h hcheck howner hheld hshare htarget hq hatt hmarks hfree hused hroom
  obtain hkind | hkind := hkind <;> cases hkind
  · exact offer_effect .lend h hcheck howner hheld hshare htarget hq hatt hmarks hfree hused hroom
  · exact offer_effect .give h hcheck howner hheld hshare htarget hq hatt hmarks hfree hused hroom

/-- Settles O31. -/
theorem acceptLendRule : Obligations.AcceptLendRule := by
  unfold Obligations.AcceptLendRule
  intro s p b l id o h hcheck hid hoffer hbuf hdst hkind hatt hmarks howner
  have hans := acceptAnswer_lend (s := updPort p takeCommand s) ((checkHandle_take s p p 0).trans hcheck)
    (by rwa [param_take]) hoffer hbuf hdst ((attached_take s p o.src).trans hatt) hmarks hkind
  obtain ⟨hport, hother, hrest⟩ := portAt_reply_accepted (s := s) (p := p) (q := l.owner) (r := .ok)
    (u := updPort p takeCommand s |> setOffer id none |> setLive b { l with st := .lent p })
    (h := ⟨b, genAt s b⟩) (n := .accepted id ⟨b, genAt s b⟩ p)
    (area := handleBytes ⟨b, genAt s b⟩ ++ [1, byteOf l.length, portByte l.owner]) (fun _ => rfl) howner
  refine ⟨_, portHandling_ok (body := acceptAnswer p) h hans, ?_, sameBytes_reply rfl,
    recordBecomes_reply fun _ => rfl, ?_, fun j hj => ?_, hport, hother, hrest⟩
  · rw [reply_eq]; rfl
  · exact (offerAt_reply id).trans ((offerAt_setOffer _ id id none).trans (if_pos rfl))
  · exact (offerAt_reply j).trans ((offerAt_setOffer _ id j none).trans (if_neg hj))

/-- Settles O32. -/
theorem acceptGiveRule : Obligations.AcceptGiveRule := by
  unfold Obligations.AcceptGiveRule
  intro s p b l id o h hcheck hid hoffer hbuf hdst hkind hatt hmarks howner hbufs hpages
  have hquota : overQuota (updPort p takeCommand s) p l.length = false := by
    simp only [overQuota, overPages, Bool.or_eq_false_iff, decide_eq_false_iff_not, Nat.not_lt]
    exact ⟨hbufs, hpages⟩
  have hans := acceptAnswer_give (s := updPort p takeCommand s) ((checkHandle_take s p p 0).trans hcheck)
    (by rwa [param_take]) hoffer hbuf hdst ((attached_take s p o.src).trans hatt) hmarks hkind hquota
  obtain ⟨hport, hother, hrest⟩ := portAt_reply_accepted (s := s) (p := p) (q := l.owner) (r := .ok)
    (u := givenTo p id b l (updPort p takeCommand s)) (h := ⟨b, genAt s b⟩)
    (n := .accepted id ⟨b, genAt s b⟩ p)
    (area := handleBytes ⟨b, genAt s b⟩ ++ [2, byteOf l.length] ++
      bytes16 ((countsAt s p).buffers + 1) ++ bytes16 ((countsAt s p).pages + l.length))
    (fun _ => rfl) howner
  rw [acceptGive_eq howner] at hans
  refine ⟨_, portHandling_ok (body := acceptAnswer p) h hans, ?_, sameBytes_reply rfl,
    recordBecomes_reply fun _ => rfl, ?_, fun j hj => ?_, fun x => ?_, hport, hother, hrest⟩
  · rw [reply_eq]; rfl
  · exact (offerAt_reply id).trans ((offerAt_setOffer _ id id none).trans (if_pos rfl))
  · exact (offerAt_reply j).trans ((offerAt_setOffer _ id j none).trans (if_neg hj))
  · exact (countsAt_reply x).trans (countsAt_givenTo (s := updPort p takeCommand s) howner x)

/-- Settles O34. -/
theorem recallAndReturn : Obligations.RecallAndReturn := by
  unfold Obligations.RecallAndReturn
  refine ⟨fun s p q b l n h hcheck howner hst hq hn => ?recalled,
    fun s p b l h hcheck hforced hborrower hmark howner => ?returned, fun s p b l h hcheck hforced => ?late⟩
  case recalled =>
    have hans := recallAnswer_ok (s := updPort p takeCommand s) (n := n)
      ((checkHandle_take s p p 0).trans hcheck) howner hst (by rw [paramNum_take]; exact hn)
    obtain ⟨hport, hother, hrest⟩ := portAt_reply_notify (s := s) (p := p) (q := q) (r := .ok)
      (u := setLive b { l with st := .recalling q n } (updPort p takeCommand s))
      (n := .recall ⟨b, genAt s b⟩ n) (area := bytes16 n) (fun _ => rfl) hq
    refine ⟨_, portHandling_ok (body := recallAnswer p) h hans, ?_, sameBytes_reply rfl,
      recordBecomes_reply fun _ => rfl, hport, hother, hrest⟩
    rw [reply_eq]; rfl
  case returned =>
    have hans := returnAnswer_ok (s := updPort p takeCommand s) ((checkHandle_take s p p 0).trans hcheck)
      hforced hborrower hmark
    rw [portAt_take_self] at hans
    refine ⟨_, portHandling_ok (body := returnAnswer p) h hans, ?_, sameBytes_reply rfl,
      recordBecomes_reply fun _ => rfl, ?_, ?_, fun x hx hxq => ?_⟩
    · rw [reply_eq]; rfl
    · refine portAt_reply_taken (g := fun hp => voided hp ⟨b, genAt s b⟩) ?_ fun _ => rfl
      rw [portAt_notify, if_neg howner.symm, portAt_returnToOwner, if_pos rfl, portAt_take_self]
      rfl
    · rw [portAt_reply_other howner, portAt_notify, if_pos rfl, portAt_returnToOwner, if_neg howner,
        portAt_take_other s howner]
      rfl
    · rw [portAt_reply_other hx, portAt_notify, if_neg hxq, portAt_returnToOwner, if_neg hx,
        portAt_take_other s hx]
  case late =>
    exact portHandling_refused h (body := returnAnswer p)
      (returnAnswer_late ((checkHandle_take s p p 0).trans hcheck) hforced)

end Sys2Proof.Proofs

/-! The obligations on ticks and expiries (sections 7.5 and 7.6). -/

namespace Sys2Proof.Proofs

open Sys2Proof Sys2Proof.Machine Sys2Proof.Safety

section
variable {s t u : State} {p q : Port} {b : BufNo} {l : Live} {id : OfferId} {o : Offer} {n k : Nat}

/-! ### The Deadline Unit -/

/-- A tick that arrives changes the pending count alone (R134). -/
theorem arriveTick_eq (hbound : s.pendingTicks ≤ 255) : arriveTick s =
    { s with pendingTicks := if s.hold then s.pendingTicks else min 255 (s.pendingTicks + 1) } := by
  unfold arriveTick
  split
  · rfl
  · split
    · next hlt => rw [Nat.min_eq_right (by omega)]
    · next hfull =>
      have hmin : min 255 (s.pendingTicks + 1) = s.pendingTicks := by omega
      rw [hmin]

/-! ### The count that a tick handling takes -/

theorem takeTicks_eq (s : State) : takeTicks s =
    { s with pendingTicks := if ticksTaken s = none then 0 else s.pendingTicks
             underway := some (.ticks (ticksInHand s)) } := by
  obtain ⟨k, hunder, hcount, htake⟩ | ⟨hnone, hcount, htake⟩ := takeTicks_cases s
  · have htaken : ticksTaken s ≠ none := by simp [ticksTaken, hunder]
    rw [htake, hcount, if_neg htaken, ← hunder]
  · rw [htake, hcount, if_pos hnone]

/-- A tick handling that goes on keeps the grant (log 10). -/
theorem next_of_ticks {out : Host.Outcome State Fault Refusal} (h : out = .next (arbitrate u))
    (hgrant : granted s .tick = true) (hrst : u.rst = s.rst) (hkept : u.tcGrant = s.tcGrant)
    (hhold : u.hold = s.hold) (hunder : u.underway = some (.ticks k)) : out = .next u := by
  obtain ⟨hrst', hgrant', -, hhold'⟩ := granted_iff.1 hgrant
  have hpresents : grantable u .tick = true := by
    simp [grantable, presents, ticksTaken, hunder, hhold, hhold'.resolve_right (by simp)]
  simp [h, arbitrate, hrst, hrst', hkept, hgrant', hpresents]

/-! ### The two expiries -/

theorem expireOffer_of_offered (hlive : liveAt s o.handle.buf = some l) (hst : l.st = .offered id) :
    expireOffer id o s =
      (s |> setOffer id none |> setLive o.handle.buf { l with st := .held noPorts }
        |> notify o.src (.expired id o.handle .offeror) |> notify o.dst (.expired id o.handle .target)) := by
  rw [expireOffer, endOffer_of_offered hlive hst]

theorem recAt_setLive_eq (s : State) (b c : BufNo) (l : Live) : recAt (setLive b l s) c =
    if c = b then ⟨genAt s b, some l⟩ else recAt s c := by
  rw [setLive, recAt_setRec]

/-- A record written by an effect whose other parts reach no record. -/
theorem recordBecomes_setLive {u : State} (h : ∀ c, recAt t c = recAt (setLive b l u) c)
    (hrec : ∀ c, recAt u c = recAt s c) : RecordBecomes b l s t := by
  have hgen : genAt u b = genAt s b := by rw [genAt, hrec]; rfl
  exact ⟨by rw [h, recAt_setLive_eq, if_pos rfl, hgen],
    fun c hc => by rw [h, recAt_setLive_eq, if_neg hc, hrec]⟩

theorem exec_offerExpiry (hgrant : granted s .tick = true) (hnext : nextDueOffer s = some id)
    (hoffer : offerAt s id = some o) :
    exec (.offerExpiry id) s = .next (arbitrate (expireOffer id o (takeTicks s))) := by
  change execOfferExpiry id s = _
  simp [execOfferExpiry, hgrant, hnext, hoffer, Machine.done]

theorem exec_recallExpiry (hgrant : granted s .tick = true) (hoffers : nextDueOffer s = none)
    (hnext : nextDueRecall s = some b) (hlive : liveAt s b = some l) (hst : l.st = .recalling q n) :
    exec (.recallExpiry b) s = .next (arbitrate (expireRecall b l q (takeTicks s))) := by
  change execRecallExpiry b s = _
  simp [execRecallExpiry, hgrant, hoffers, hnext, hlive, borrowerOf, hst, Machine.done]

theorem expireRecall_unmarked (hmark : perGet l.marks q = false) : expireRecall b l q s =
    (s |> setLive b { l with st := .held noPorts, forced := some q } |> voidAt q ⟨b, genAt s b⟩
      |> notify q (.revoked ⟨b, genAt s b⟩ .expiry) |> notify l.owner (.returned ⟨b, genAt s b⟩ .forced)) := by
  rw [expireRecall, if_neg (by simp [hmark])]
  rfl

theorem expireRecall_marked (hmark : perGet l.marks q = true) : expireRecall b l q s =
    stopJob q .aborted (setLive b { l with
      st := .recalling q 0, forced := some q, pendingRev := some ⟨.expiry, q⟩ } s) := by
  rw [expireRecall, if_pos hmark]

/-- Two ports told of an event. -/
theorem portAt_notify_notify {m : Notice} {n : Notice} (hpq : p ≠ q) :
    portAt (s |> notify p m |> notify q n) p = notified (portAt s p) m ∧
      portAt (s |> notify p m |> notify q n) q = notified (portAt s q) n ∧
      ∀ x, x ≠ p → x ≠ q → portAt (s |> notify p m |> notify q n) x = portAt s x := by
  refine ⟨?_, ?_, fun x hp hq => ?_⟩
  · rw [portAt_notify, if_neg hpq, portAt_notify, if_pos rfl]; rfl
  · rw [portAt_notify, if_pos rfl, portAt_notify, if_neg hpq.symm]; rfl
  · rw [portAt_notify, if_neg hq, portAt_notify, if_neg hp]

end

/-- Settles O36. -/
theorem deadlineTickRule : Obligations.DeadlineTickRule := by
  unfold Obligations.DeadlineTickRule
  refine ⟨fun s hrst hbound => ?tick, fun s hrst hpending hlt => ?count, fun s hrst hpending hfull => ?full⟩
  case tick =>
    have hexec : exec .deadlineTick s = Machine.done (produceTick s) :=
      if_neg (by simp [hrst])
    have harrive : produceTick s = _ := arriveTick_eq (s := restartPrescaler s) hbound
    refine ⟨_, hexec.trans ((done_next _ _).2 rfl), ?_, fun x => by rw [arbitrate_mem, harrive]; rfl, ?_⟩
    · rw [arbitrate_eq, harrive]; rfl
    · rw [arbitrate_pendingTicks, harrive]; rfl
  case count =>
    have hstep : step s = Machine.done { s with prescaler := s.prescaler + 1 } := by
      rw [step_nil s hpending, idle, if_neg (by simp [hrst]), clkPeriod, if_pos hlt]
    exact ⟨_, hstep.trans ((done_next _ _).2 rfl), arbitrate_eq _, fun x => by rw [arbitrate_mem]⟩
  case full =>
    rw [step_nil s hpending, idle, if_neg (by simp [hrst]), clkPeriod, if_neg (by omega)]
    exact (if_neg (by simp [hrst])).symm

/-- Settles O38. -/
theorem expiryRule : Obligations.ExpiryRule := by
  unfold Obligations.ExpiryRule
  refine ⟨fun s id o b l hgrant hnext hoffer hbuf hlive hst hne => ?offer,
    fun s b l q n hgrant hnone hnext hlive hst hmark howner => ?unmarked,
    fun s b l q n hgrant hnone hnext hlive hst hmark => ?marked⟩
  case offer =>
    subst hbuf
    have hexec := exec_offerExpiry hgrant hnext hoffer
    rw [expireOffer_of_offered (s := takeTicks s) (by rwa [takeTicks_eq]) hst, takeTicks_eq] at hexec
    replace hexec := next_of_ticks hexec hgrant rfl rfl rfl rfl
    obtain ⟨hsrc, hdst, hrest⟩ := portAt_notify_notify
      (s := (takeTicks s |> setOffer id none |> setLive o.handle.buf { l with st := .held noPorts }))
      (m := .expired id o.handle .offeror) (n := .expired id o.handle .target) hne
    rw [takeTicks_eq] at hsrc hdst hrest
    refine ⟨_, hexec, rfl, fun x => rfl,
      recordBecomes_setLive (u := takeTicks s) (fun c => by rw [takeTicks_eq]; rfl)
        (fun c => by rw [takeTicks_eq]; rfl), ?_, fun j hj => ?_, hsrc, hdst, hrest⟩
    · exact (offerAt_setOffer _ id id none).trans (if_pos rfl)
    · exact (offerAt_setOffer _ id j none).trans (if_neg hj)
  case unmarked =>
    have hexec := exec_recallExpiry hgrant hnone hnext hlive hst
    rw [expireRecall_unmarked hmark, takeTicks_eq] at hexec
    replace hexec := next_of_ticks hexec hgrant rfl rfl rfl rfl
    obtain ⟨hq, hown, hrest⟩ := portAt_notify_notify
      (s := (takeTicks s |> setLive b { l with st := .held noPorts, forced := some q }
        |> voidAt q ⟨b, genAt s b⟩))
      (m := .revoked ⟨b, genAt s b⟩ .expiry) (n := .returned ⟨b, genAt s b⟩ .forced) howner.symm
    rw [takeTicks_eq] at hq hown hrest
    refine ⟨_, hexec, rfl, fun x => rfl,
      recordBecomes_setLive (u := takeTicks s) (fun c => by rw [takeTicks_eq]; rfl)
        (fun c => by rw [takeTicks_eq]; rfl), hq.trans ?_, hown.trans ?_,
      fun x hx hxo => (hrest x hx hxo).trans ?_⟩
    · rw [portAt_voidAt, if_pos rfl]; rfl
    · rw [portAt_voidAt, if_neg howner]; rfl
    · rw [portAt_voidAt, if_neg hx]; rfl
  case marked =>
    have hexec := exec_recallExpiry hgrant hnone hnext hlive hst
    rw [expireRecall_marked hmark, takeTicks_eq] at hexec
    have hstop := stopJob_eq q .aborted (setLive b { l with
      st := .recalling q 0, forced := some q, pendingRev := some ⟨.expiry, q⟩ } (takeTicks s))
    have hjob := jobStopped_stopJob q .aborted (setLive b { l with
      st := .recalling q 0, forced := some q, pendingRev := some ⟨.expiry, q⟩ } (takeTicks s))
    rw [takeTicks_eq] at hstop hjob
    rw [hstop] at hexec
    replace hexec := next_of_ticks hexec hgrant rfl rfl rfl rfl
    refine ⟨_, hexec, rfl, fun x => rfl,
      recordBecomes_setLive (u := takeTicks s) (fun c => by rw [takeTicks_eq]; rfl)
        (fun c => by rw [takeTicks_eq]; rfl), ?_⟩
    rw [hstop] at hjob
    exact hjob

end Sys2Proof.Proofs

/-! The obligations on the Data Mover's page work (section 2.4 and chapter 9), and HOLD (R194), which
lets the page in progress end. -/

namespace Sys2Proof.Proofs

open Sys2Proof Sys2Proof.Machine Sys2Proof.Safety

/-- The frame of a scrub step's end (R38). -/
def ScrubEnded (pg : PageNo) (served : Bool) (s u : State) : Prop :=
  u = { s with mem := u.mem, pageMap := u.pageMap, scrubQueue := s.scrubQueue.tail,
               freeList := s.freeList ++ [pg], page := none,
               memLast := if served then s.memLast else .mover } ∧
  entryAt u pg = .free ∧ (∀ q, q ≠ pg → entryAt u q = entryAt s q) ∧
  (served = false → PageStored pg (fun _ => 0) s u) ∧ (served = true → u.mem = s.mem)

/-- The frame of a copy page's end, its bytes stored in a page now (R163). -/
def CopyEnded (p : Port) (j : Job) (pg : PageNo) (bytes : List Byte) (s u : State) : Prop :=
  u = { s with mem := u.mem, page := none, memLast := .mover, jobs := u.jobs, reports := u.reports } ∧
  PageStored pg (fun k => bytes.getD k 0) s u ∧ JobJudged p j s u

/-- The frame of a copy page's end, its bytes stored before (R163, log 5). -/
def CopyEndedServed (p : Port) (j : Job) (s u : State) : Prop :=
  u = { s with page := none, jobs := u.jobs, reports := u.reports } ∧ JobJudged p j s u

section
variable {s t u : State} {p : Port} {pg src : PageNo} {j : Job} {bytes : List Byte} {served : Bool}

/-! ### The start of page work -/

theorem nextCopyPort_eq_none (h : ∀ p j, jobAt s p = some j → j.state ≠ .running) :
    nextCopyPort s = none := by
  refine List.find?_eq_none.2 fun p _ => ?_
  unfold runningJob
  cases hjob : jobAt s p with
  | none => simp
  | some j => simpa using h p j hjob

theorem chosenKind_scrub (hrst : s.rst = false) (hpage : s.page = none) (hpaused : s.paused = false)
    (hwork : scrubWork s = true) (hturn : s.nextKind = .scrub ∨ nextCopyPort s = none) :
    chosenKind s = some .scrub := by
  obtain hkind | hnone := hturn
  · simp [chosenKind, hrst, hpage, hpaused, hkind, hwork]
  · cases hkind : s.nextKind <;> simp [chosenKind, hrst, hpage, hpaused, hkind, hwork, hnone]

theorem chosenKind_copy (hrst : s.rst = false) (hpage : s.page = none) (hpaused : s.paused = false)
    (hnext : nextCopyPort s = some p) (hturn : s.nextKind = .copy ∨ scrubWork s = false) :
    chosenKind s = some .copy := by
  obtain hkind | hnone := hturn
  · simp [chosenKind, hrst, hpage, hpaused, hkind, hnext]
  · cases hkind : s.nextKind <;> simp [chosenKind, hrst, hpage, hpaused, hkind, hnext, hnone]

/-! ### The transfers of the Data Mover -/

theorem pageStored_memWriteRun {v : Nat → Byte} (hlen : bytes.length = 64)
    (hv : ∀ k, k < 64 → bytes.getD k 0 = v k) (hmem : t.mem = memWriteRun s.mem (pageAddr pg 0) bytes) :
    PageStored pg v s t := by
  have haddr : pageAddr pg 0 = pg.val * 64 := rfl
  refine ⟨fun k hk => ?_, fun x hx => ?_⟩
  · rw [hmem, haddr, memRead_memWriteRun_inside bytes _ _ k (by omega), hv k hk]
  · rw [hmem, haddr, memRead_memWriteRun_outside _ _ _ _ (by omega)]

theorem serveMover_scrub (hpage : s.page = some (.scrub pg false)) : serveMover s =
    some { s with mem := memWriteRun s.mem (pageAddr pg 0) zeroPage
                  page := some (.scrub pg true)
                  memLast := .mover } := by
  simp [serveMover, hpage]

theorem serveMover_read (hpage : s.page = some (.copyRead p none)) (hsrc : copySource s p = some pg) :
    serveMover s =
      some { s with page := some (.copyRead p (some (memReadRun s.mem (pageAddr pg 0) 64)))
                    memLast := .mover } := by
  simp [serveMover, hpage, hsrc]

theorem serveMover_write (hpage : s.page = some (.copyWrite p bytes false))
    (hdst : copyDest s p = some pg) : serveMover s =
    some { s with mem := memWriteRun s.mem (pageAddr pg 0) bytes
                  page := some (.copyWrite p bytes true)
                  memLast := .mover } := by
  simp [serveMover, hpage, hdst]

theorem copySource_eq (hjob : jobAt s p = some j) :
    copySource s p = resolveIndex s j.src.buf (j.srcStart + j.done) := by
  simp [copySource, hjob]

theorem copyDest_eq (hjob : jobAt s p = some j) :
    copyDest s p = resolveIndex s j.dst.buf (j.dstStart + j.done) := by
  simp [copyDest, hjob]

/-! ### The end of a scrub step -/

theorem pageStored_zeroFilled {zeros : List Byte} (hz : zeros = zeroPage)
    (hmem : t.mem = memWriteRun s.mem (pageAddr pg 0) zeros) : PageStored pg (fun _ => 0) s t := by
  refine pageStored_memWriteRun (hz ▸ length_zeroPage) (fun k hk => ?_) hmem
  rw [hz, zeroPage, List.getD_replicate _ hk]

theorem entryAt_endScrub (q : PageNo) :
    entryAt (endScrub pg s) q = if q = pg then .free else entryAt s q := by
  simp [entryAt, endScrub, Fin.ext_iff]

theorem scrubStepEnd_ended (hpage : s.page = some (.scrub pg served)) :
    ∃ u, scrubStepEnd s = some u ∧ ScrubEnded pg served s u := by
  have hstep : scrubStepEnd s = (serveMover s).map (endScrub pg) := by simp [scrubStepEnd, hpage]
  have hentry (u : State) (hmap : u.pageMap = s.pageMap) : entryAt (endScrub pg u) pg = .free ∧
      ∀ q, q ≠ pg → entryAt (endScrub pg u) q = entryAt s q := by
    refine ⟨by rw [entryAt_endScrub, if_pos rfl], fun q hq => ?_⟩
    rw [entryAt_endScrub, if_neg hq, entryAt, entryAt, hmap]
  cases served with
  | false =>
    obtain ⟨zeros, hz⟩ : ∃ zeros, zeros = zeroPage := ⟨_, rfl⟩
    rw [serveMover_scrub hpage, ← hz, Option.map_some] at hstep
    obtain ⟨hfree, hothers⟩ := hentry { s with mem := memWriteRun s.mem (pageAddr pg 0) zeros
                                               page := some (.scrub pg true)
                                               memLast := .mover } rfl
    exact ⟨_, hstep, rfl, hfree, hothers, fun _ => pageStored_zeroFilled hz rfl, fun h => nomatch h⟩
  | true =>
    have hserve : serveMover s = some s := by simp [serveMover, hpage]
    rw [hserve] at hstep
    obtain ⟨hfree, hothers⟩ := hentry s rfl
    exact ⟨_, hstep, rfl, hfree, hothers, fun h => (nomatch h), fun _ => rfl⟩

/-! ### The end of a copy page -/

theorem judgeJob_frame (p : Port) (s : State) :
    judgeJob p s = { s with jobs := (judgeJob p s).jobs, reports := (judgeJob p s).reports } := by
  unfold judgeJob
  split
  · rfl
  · dsimp only
    split
    · rfl
    · split <;> rfl

theorem judgeJob_of_stopping {c : StopCause} (hjob : jobAt s p = some j) (hstop : j.state = .stopping c) :
    judgeJob p s = endJob p { j with done := j.done + 1 } (endCauseOf c) s := by
  simp [judgeJob, hjob, hstop]

theorem judgeJob_of_running (hjob : jobAt s p = some j) (hrun : j.state = .running) : judgeJob p s =
    if j.done + 1 = j.count then endJob p { j with done := j.done + 1 } .ok s
    else setJob p (some { j with done := j.done + 1 }) s := by
  simp [judgeJob, hjob, hrun]

theorem jobAt_endJob (q : Port) (c : EndCause) :
    jobAt (endJob p j c s) q = if q = p then none else jobAt s q :=
  jobAt_setJob s p q none

theorem jobJudged_judgeJob (hjob : jobAt s p = some j) : JobJudged p j s (judgeJob p s) := by
  refine ⟨fun q hq => ?_, fun hrun hmore => ?_, fun hrun hdone => ?_, fun c hstop => ?_⟩
  · cases hstate : j.state with
    | stopping c =>
      rw [judgeJob_of_stopping hjob hstate]
      exact (jobAt_endJob q _).trans (if_neg hq)
    | running =>
      rw [judgeJob_of_running hjob hstate]
      split
      · exact (jobAt_endJob q _).trans (if_neg hq)
      · exact (jobAt_setJob s p q _).trans (if_neg hq)
  · rw [judgeJob_of_running hjob hrun, if_neg hmore]
    exact ⟨(jobAt_setJob s p p _).trans (if_pos rfl), rfl⟩
  · rw [judgeJob_of_running hjob hrun, if_pos hdone]
    exact ⟨(jobAt_endJob p _).trans (if_pos rfl), rfl⟩
  · rw [judgeJob_of_stopping hjob hstop]
    exact ⟨(jobAt_endJob p _).trans (if_pos rfl), rfl⟩

theorem copyWriteEnd_ended (hpage : s.page = some (.copyWrite p bytes false)) (hlen : bytes.length = 64)
    (hjob : jobAt s p = some j) (hdst : resolveIndex s j.dst.buf (j.dstStart + j.done) = some pg) :
    ∃ u, copyWriteEnd s = some u ∧ CopyEnded p j pg bytes s u := by
  have hstep : copyWriteEnd s = (serveMover s).map endWrite := by simp [copyWriteEnd, hpage]
  rw [serveMover_write hpage ((copyDest_eq hjob).trans hdst)] at hstep
  have hframe := judgeJob_frame p { s with mem := memWriteRun s.mem (pageAddr pg 0) bytes
                                           page := none
                                           memLast := .mover }
  have hmem := congrArg State.mem hframe
  refine ⟨_, hstep, hframe.trans ?_, pageStored_memWriteRun hlen (fun _ _ => rfl) hmem,
    jobJudged_judgeJob (s := { s with mem := memWriteRun s.mem (pageAddr pg 0) bytes
                                      page := none
                                      memLast := .mover }) hjob⟩
  rw [← hmem]
  rfl

theorem copyWriteEnd_ended_served (hpage : s.page = some (.copyWrite p bytes true))
    (hjob : jobAt s p = some j) : ∃ u, copyWriteEnd s = some u ∧ CopyEndedServed p j s u := by
  have hserve : serveMover s = some s := by simp [serveMover, hpage]
  have hstep : copyWriteEnd s = some (judgeJob p { s with page := none }) := by
    simp [copyWriteEnd, hpage, hserve, endWrite]
  exact ⟨_, hstep, judgeJob_frame p { s with page := none },
    jobJudged_judgeJob (s := { s with page := none }) hjob⟩

/-! ### The end of a copy page's read -/

theorem copyReadEnd_of_captured (hpage : s.page = some (.copyRead p (some bytes))) :
    copyReadEnd s = some { s with page := some (.copyWrite p bytes false) } := by
  simp [copyReadEnd, hpage, serveMover, endRead]

theorem copyReadEnd_of_waiting (hpage : s.page = some (.copyRead p none)) (hjob : jobAt s p = some j)
    (hsrc : resolveIndex s j.src.buf (j.srcStart + j.done) = some src) :
    copyReadEnd s = some { s with
      page := some (.copyWrite p (memReadRun s.mem (pageAddr src 0) 64) false), memLast := .mover } := by
  simp [copyReadEnd, hpage, serveMover_read hpage ((copySource_eq hjob).trans hsrc), endRead]

/-! ### HOLD lets the page in progress end -/

theorem finishPage_write (hpage : s.page = some (.copyWrite p bytes served)) :
    finishPage s = copyWriteEnd s := by
  simp [finishPage, hpage]

theorem finishPage_captured (hpage : s.page = some (.copyRead p (some bytes))) :
    finishPage s = copyWriteEnd { s with page := some (.copyWrite p bytes false) } := by
  simp [finishPage, hpage, copyReadEnd_of_captured hpage]

theorem finishPage_waiting (hpage : s.page = some (.copyRead p none)) (hjob : jobAt s p = some j)
    (hsrc : resolveIndex s j.src.buf (j.srcStart + j.done) = some src) :
    finishPage s = copyWriteEnd { s with
      page := some (.copyWrite p (memReadRun s.mem (pageAddr src 0) 64) false), memLast := .mover } := by
  simp [finishPage, hpage, copyReadEnd_of_waiting hpage hjob hsrc]

/-- A copy page in any phase whose write has not been served runs to its end (R194 step 2). -/
theorem finishPage_copyEnded (hjob : jobAt s p = some j) (hlen : bytes.length = 64)
    (hdst : resolveIndex s j.dst.buf (j.dstStart + j.done) = some pg)
    (hphase : s.page = some (.copyRead p (some bytes)) ∨ s.page = some (.copyWrite p bytes false) ∨
      (s.page = some (.copyRead p none) ∧
        ∃ src, resolveIndex s j.src.buf (j.srcStart + j.done) = some src ∧
          ∀ k, k < 64 → bytes.getD k 0 = memRead s.mem (src.val * 64 + k))) :
    ∃ u, finishPage s = some u ∧ CopyEnded p j pg bytes s u := by
  obtain hpage | hpage | ⟨hpage, src, hsrc, hbytes⟩ := hphase
  · obtain ⟨u, hu, hended⟩ := copyWriteEnd_ended (s := { s with page := some (.copyWrite p bytes false) })
      rfl hlen hjob hdst
    exact ⟨u, (finishPage_captured hpage).trans hu, hended⟩
  · rw [finishPage_write hpage]
    exact copyWriteEnd_ended hpage hlen hjob hdst
  · obtain ⟨u, hu, hframe, ⟨hstored, hother⟩, hjudged⟩ := copyWriteEnd_ended
      (s := { s with page := some (.copyWrite p (memReadRun s.mem (pageAddr src 0) 64) false)
                     memLast := .mover }) rfl (length_memReadRun _ _ _) hjob hdst
    refine ⟨u, (finishPage_waiting hpage hjob hsrc).trans hu, hframe, ⟨fun k hk => ?_, hother⟩, hjudged⟩
    exact (hstored k hk).trans ((getD_memReadRun _ _ _ _ hk).trans (hbytes k hk).symm)

end

/-! ### Maintenance requests -/

section
variable {s u : State} {r : Request} {ps : List Byte} {f : List Byte → Option MaintAnswer}
  {a : MaintAnswer} {m : MaintState}

/-- The handling of a maintenance request that the Table Controller has granted (R192). -/
theorem maintHandling_answered (h : MaintReady s r ps) (hf : f ps = some a) :
    maintHandling r s f = .next (endHandling .maintenance (respond s a)) :=
  (maintHandling_next r s f _).2 (.inl ⟨ps, a, h.2, h.1, hf, rfl⟩)

/-- A maintenance request that changes nothing but its response. -/
theorem maintHandling_reports (h : MaintReady s r ps) (hf : f ps = some a)
    (hrespond : respond s a = { s with maint := m }) : ∃ t, maintHandling r s f = .next t ∧
      t = { s with maint := m, tcLast := .maintenance, tcGrant := t.tcGrant } ∧ SameBytes s t := by
  refine ⟨_, maintHandling_answered h hf, ?_, fun x => ?_⟩
  · rw [endHandling_eq, hrespond]
  · rw [endHandling_mem, hrespond]

theorem onlyMaintenance_of_hold (h : u.hold = true) (r : Requester)
    (hgrant : grantable (endHandling .maintenance u) r = true) : r = .maintenance := by
  refine maintenance_of_hold ?_ hgrant
  rw [endHandling_eq]
  exact h

/-- HOLD outside HOLD, when the page in progress has an end (R194). -/
theorem exec_hold (h : MaintReady s .hold []) (hhold : s.hold = false)
    (hfinish : finishPage { s with paused := true } = some u) :
    exec .hold s = .next (endHandling .maintenance { u with hold := true, maint := .ready .ok [1] }) := by
  refine maintHandling_answered (f := fun _ => holdAnswer s) h
    (a := .ok ({ u with hold := true }, [1])) ?_
  rw [holdAnswer, if_neg (by simp [hhold]), hfinish]
  rfl

end

/-- Settles O41. -/
theorem scrubRule : Obligations.ScrubRule := by
  unfold Obligations.ScrubRule
  refine ⟨fun s pg rest hrst hpage hpaused hqueue hturn => ?start,
    fun s pg rest served hrst hpage hqueue => ?ended⟩
  case start =>
    have hkind := chosenKind_scrub hrst hpage hpaused (by simp [scrubWork, hqueue])
      (hturn.imp_right nextCopyPort_eq_none)
    have hexec : exec .scrubStepStart s =
        Machine.done { s with page := some (.scrub pg false), nextKind := .copy } := by
      change execScrubStepStart s = _
      simp [execScrubStepStart, hkind, startScrub, hqueue]
    exact ⟨_, hexec.trans ((done_next _ _).2 rfl), arbitrate_eq _, fun x => by rw [arbitrate_mem]⟩
  case ended =>
    obtain ⟨u, hu, hframe, hfree, hothers, hstored, hkept⟩ := scrubStepEnd_ended hpage
    have hexec : exec .scrubStepEnd s = Machine.done u := by
      change execScrubStepEnd s = _
      simp [execScrubStepEnd, hrst, hu, doneOrStuck]
    refine ⟨_, hexec.trans ((done_next _ _).2 rfl), ?_, (entryAt_arbitrate u pg).trans hfree,
      fun q hq => (entryAt_arbitrate u q).trans (hothers q hq), fun h => ?_,
      fun h => (arbitrate_mem u).trans (hkept h)⟩
    · rw [hqueue] at hframe
      rw [arbitrate_eq, hframe]
      rfl
    · rw [arbitrate_eq]
      exact hstored h

/-- Settles O42. -/
theorem copyPageRule : Obligations.CopyPageRule := by
  unfold Obligations.CopyPageRule
  refine ⟨fun s p hrst hpage hpaused hnext hturn => ?start, fun s p j pg hrst hpage hjob hsrc => ?read,
    fun s p bytes hrst hpage => ?captured, fun s p j pg bytes hrst hpage hlen hjob hdst => ?write,
    fun s p j bytes hrst hpage hjob => ?served⟩
  case start =>
    have hkind := chosenKind_copy hrst hpage hpaused hnext (hturn.imp_right fun h => by simp [scrubWork, h])
    have hexec : exec .copyPageStart s = Machine.done
        { s with page := some (.copyRead p none), nextKind := .scrub, lastCopy := p } := by
      change execCopyPageStart s = _
      simp [execCopyPageStart, hkind, startCopyPage, hnext]
    exact ⟨_, hexec.trans ((done_next _ _).2 rfl), arbitrate_eq _, fun x => by rw [arbitrate_mem]⟩
  case read =>
    have hexec : exec .copyPageReadEnd s = doneOrStuck (copyReadEnd s) := if_neg (by simp [hrst])
    rw [copyReadEnd_of_waiting hpage hjob hsrc] at hexec
    exact ⟨_, _, hexec.trans ((done_next _ _).2 rfl), arbitrate_eq _, fun x => by rw [arbitrate_mem],
      length_memReadRun _ _ _, fun k hk => getD_memReadRun _ _ _ k hk⟩
  case captured =>
    have hexec : exec .copyPageReadEnd s = doneOrStuck (copyReadEnd s) := if_neg (by simp [hrst])
    rw [copyReadEnd_of_captured hpage] at hexec
    exact ⟨_, hexec.trans ((done_next _ _).2 rfl), arbitrate_eq _, fun x => by rw [arbitrate_mem]⟩
  case write =>
    obtain ⟨u, hu, hframe, hstored, hjudged⟩ := copyWriteEnd_ended hpage hlen hjob hdst
    have hexec := exec_copyPageWriteEnd hrst
    rw [hu] at hexec
    refine ⟨_, hexec.trans ((done_next _ _).2 rfl), ?_, ?_, ?_⟩
    · rw [arbitrate_eq, hframe]
    · rw [arbitrate_eq]; exact hstored
    · rw [arbitrate_eq]; exact hjudged
  case served =>
    obtain ⟨u, hu, hframe, hjudged⟩ := copyWriteEnd_ended_served hpage hjob
    have hexec := exec_copyPageWriteEnd hrst
    rw [hu] at hexec
    refine ⟨_, hexec.trans ((done_next _ _).2 rfl), ?_, fun x => ?_, ?_⟩
    · rw [arbitrate_eq, hframe]
    · rw [arbitrate_mem, hframe]
    · rw [arbitrate_eq]; exact hjudged

/-- Settles O44. -/
theorem holdAndRelease : Obligations.HoldAndRelease := by
  unfold Obligations.HoldAndRelease
  refine ⟨fun s h hhold hpage => ?none, fun s pg rest served h hhold hpage hqueue => ?scrub,
    fun s p j bytes pg h hhold hjob hlen hdst hphase => ?copy,
    fun s p j bytes h hhold hjob hpage => ?served, fun s h hhold => ?again, fun s h => ?release⟩
  case none =>
    have hfinish : finishPage { s with paused := true } = some { s with paused := true } := by
      simp [finishPage, hpage]
    exact ⟨_, exec_hold h hhold hfinish, endHandling_eq _ _, fun x => by rw [endHandling_mem],
      onlyMaintenance_of_hold rfl⟩
  case scrub =>
    obtain ⟨u, hu, hframe, hfree, hothers, hstored, hkept⟩ :=
      scrubStepEnd_ended (s := { s with paused := true }) hpage
    have hfinish : finishPage { s with paused := true } = some u := by
      rw [← hu]; simp [finishPage, hpage]
    refine ⟨_, exec_hold h hhold hfinish, ?_, ?_, fun q hq => ?_, fun hs => ?_, fun hs => ?_,
      onlyMaintenance_of_hold rfl⟩
    · rw [endHandling_eq, hframe]
      dsimp only
      rw [hqueue]
      rfl
    · rw [endHandling_eq]; exact hfree
    · rw [endHandling_eq]; exact hothers q hq
    · rw [endHandling_eq]; exact hstored hs
    · rw [endHandling_mem]; exact hkept hs
  case copy =>
    obtain ⟨u, hu, hframe, hstored, hjudged⟩ :=
      finishPage_copyEnded (s := { s with paused := true }) hjob hlen hdst hphase
    refine ⟨_, exec_hold h hhold hu, ?_, ?_, ?_, onlyMaintenance_of_hold rfl⟩
    · rw [endHandling_eq, hframe]
    · rw [endHandling_eq]; exact hstored
    · rw [endHandling_eq]; exact hjudged
  case served =>
    obtain ⟨u, hu, hframe, hjudged⟩ :=
      copyWriteEnd_ended_served (s := { s with paused := true }) hpage hjob
    refine ⟨_, exec_hold h hhold ((finishPage_write (s := { s with paused := true }) hpage).trans hu), ?_,
      fun x => ?_, ?_, onlyMaintenance_of_hold rfl⟩
    · rw [endHandling_eq, hframe]
    · rw [endHandling_mem]; rw [hframe]
    · rw [endHandling_eq]; exact hjudged
  case again =>
    exact maintHandling_reports (f := fun _ => holdAnswer s) (a := .ok (s, [2])) h
      (by simp [holdAnswer, hhold]) rfl
  case release =>
    refine ⟨_, maintHandling_answered (f := fun _ => some (releaseAnswer s)) h rfl, ?_, fun x => ?_⟩
    · rw [endHandling_eq, releaseAnswer]
      cases hhold : s.hold <;> simp [respond, hhold]
    · rw [endHandling_mem, releaseAnswer]
      split <;> rfl

end Sys2Proof.Proofs

/-! The obligations on the maintenance requests that inspect, that access the Page Memory, that detach a
port and that clear every table (sections 11.4 to 11.6). -/

namespace Sys2Proof.Proofs

open Sys2Proof Sys2Proof.Machine Sys2Proof.Safety

theorem portOfNum_eq_none {n : Nat} : portOfNum n = none ↔ 3 < n := by
  match n with
  | 0 | 1 | 2 | 3 => simp [portOfNum]
  | n + 4 => simp [portOfNum]

/-! ### The bytes of the responses (section 12.4) -/

theorem portByte_eq (p : Port) : portByte p = b1 (portBits (some p)) := by cases p <;> rfl

theorem optPortByte_eq (o : Option Port) : optPortByte o = b1 (portBits o) := by
  cases o with
  | none => rfl
  | some p => exact portByte_eq p

theorem livePresence_eq (l : Live) : livePresence l =
    1 + 2 * (borrowerOf l).isSome.toNat + 4 + 8 + 16 + 32 + 64 * (offerRefOf l).isSome.toNat +
      128 * (countdownOf l).isSome.toNat + 256 + 512 * l.pendingRev.isSome.toNat +
      1024 * l.forced.isSome.toNat := by
  simp only [livePresence, presence, Bool.toNat_true]
  omega

theorem recordBytes_eq (r : BufRec) : recordBytes r = bufferData r := by
  rcases r with ⟨gen, _ | l⟩
  · rfl
  · have hpresence := livePresence_eq l
    have howner := portByte_eq l.owner
    have hborrower := optPortByte_eq (borrowerOf l)
    have hforced := optPortByte_eq l.forced
    rcases l with ⟨owner, st, length, head, tail, marks, rev, forced⟩
    simp only [recordBytes, hpresence, howner, hborrower, hforced]
    cases rev with
    | none => cases st <;> rfl
    | some rv =>
      obtain ⟨kind, port⟩ := rv
      simp only [portByte_eq]
      cases st <;> cases kind <;> rfl

theorem entryBytes_eq (e : PageEntry) : entryBytes e = pageEntryData e := by
  rcases e with _ | _ | ⟨b, _ | n⟩ <;> rfl

theorem offerBytes_eq (o : Option Offer) : offerBytes o = offerData o := by
  cases o with
  | none => rfl
  | some o =>
    rw [offerBytes, portByte_eq, portByte_eq]
    rcases o with ⟨_ | _, src, dst, h, n⟩ <;> rfl

theorem dirBytes_eq (n : Nat) (o : Option DirEntry) : byteOf n :: dirEntryBytes o = dirData n o := by
  cases o with
  | none => rfl
  | some e =>
    rw [dirEntryBytes, portByte_eq]
    rcases e with ⟨name, h, p, _ | _⟩ <;> rfl

theorem slotBytes_eq (w : WindowSlot) : slotBytes w = slotData w := by
  rcases w with _ | ⟨h, mode, i, k, n, e, o⟩ | ⟨h, mode, i, k, n, e, o⟩
  · rfl
  · cases mode <;> cases e <;> cases o <;> rfl
  · cases mode <;> cases e <;> cases o <;> rfl

theorem portBytes_eq (s : State) (p : Port) : portBytes s p = portData s p := by
  simp only [portBytes, portData, slotBytes_eq]
  refine congrArg₂ (· ++ ·) (congrArg₂ (· ++ ·) (congrArg (· ++ _) (congrArg (· ++ _) (congrArg (· ++ _)
    (congrArg₂ (· ++ ·) ?head ?fault)))) ?job) ?walk
  case head =>
    simp only [countsBytes, bytes16, b2, List.cons_append, List.nil_append, List.cons.injEq, and_true,
      true_and]
    refine ⟨?state, ?cause, ?kind, rfl, rfl, rfl, rfl, ?slot, rfl, ?lost, rfl⟩
    case state => cases (portAt s p).state <;> rfl
    case cause => cases (portAt s p).lastCause <;> rfl
    case kind =>
      cases (portAt s p).lastCause with
      | fault k => cases k <;> rfl
      | _ => rfl
    case slot => cases (portAt s p).cmd.state <;> rfl
    case lost => cases (portAt s p).lost <;> rfl
  case fault =>
    rcases (portAt s p).fault with _ | ⟨kind, off, acc, more⟩
    · rfl
    · cases kind <;> cases acc <;> rfl
  case job =>
    unfold jobBytes
    cases jobAt s p with
    | some j => rcases j with ⟨src, i, dst, k, n, d, _ | c⟩ <;> rfl
    | none => cases s.reports.find? (fun r => r.port = p) <;> rfl
  case walk =>
    unfold walkBytes
    split
    · cases s.walkPhase <;> rfl
    · rfl

theorem poolBytes_eq (s : State) : poolBytes s = poolData s := by
  have hpage (o : Option PageNo) : optPageBytes o = b2 ((o.map Fin.val).getD 0) := by cases o <;> rfl
  have hpaused : byteOfBool s.paused = b1 s.paused.toNat := by cases s.paused <;> rfl
  have hjobs : allPorts.countP (fun p => (jobAt s p).isSome) =
      (jobAt s .a).isSome.toNat + (jobAt s .b).isSome.toNat + (jobAt s .c).isSome.toNat +
        (jobAt s .d).isSome.toNat := by
    simp only [allPorts, List.countP_cons, List.countP_nil, Bool.toNat, Bool.cond_eq_ite]
    omega
  have hpresence (x y z : Bool) : presence [x, y, z] = x.toNat + 2 * y.toNat + 4 * z.toNat := by
    simp only [presence]; omega
  rw [poolBytes, hpage, hpage, hpage, hpaused, hjobs, hpresence]
  rfl

/-! ### READ_MEM and WRITE_MEM -/

section
variable {s u : State} {ps : List Byte} {pg : PageNo} {off n : Nat} {p : Port}

theorem pageNoOf_val (pg : PageNo) : pageNoOf pg.val = some pg := by
  rw [pageNoOf, dif_pos pg.isLt]

theorem memoryParams_of_run (hpage : numAt ps 0 = pg.val) (hoff : (byteAt ps 2).toNat = off)
    (hcount : (byteAt ps 3).toNat = n) (hn : 1 ≤ n) (hend : off + n ≤ 64) :
    memoryParams ps = .ok (pg, off, n) := by
  simp only [memoryParams, hpage, pageNoOf_val, hoff, hcount]
  rw [if_neg (by omega), if_neg (by omega), if_neg (by omega)]

theorem memoryParams_range (hoff : (byteAt ps 2).toNat = off) (hcount : (byteAt ps 3).toNat = n)
    (hbad : 8192 ≤ numAt ps 0 ∨ 64 ≤ off ∨ n = 0 ∨ 64 < off + n) : memoryParams ps = .error .range := by
  unfold memoryParams pageNoOf
  by_cases hpage : numAt ps 0 < 8192
  · rw [dif_pos hpage]
    simp only [hoff, hcount]
    split_ifs with h1 h2 h3
    · rfl
    · rfl
    · rfl
    · omega
  · rw [dif_neg hpage]

/-- The service of a request outside the Table Controller (R192). -/
theorem maintService_answered {r : Request} {f : List Byte → Option MaintAnswer} {a : MaintAnswer}
    (hrst : s.rst = false) (hheld : heldRequest s r = some ps) (hf : f ps = some a) :
    maintService r s f = .next (arbitrate (respond s a)) :=
  (maintService_next r s f _).2 (.inl ⟨ps, a, hheld, hrst, hf, rfl⟩)

theorem getD_writeData {i : Nat} (hi : i < n) : (writeData ps n).getD i 0 = ps.getD (4 + i) 0 := by
  simp only [writeData, List.getD_eq_getElem?_getD, List.getElem?_take, List.getElem?_drop, if_pos hi]

theorem length_writeData (h : ps.length = 4 + n) : (writeData ps n).length = n := by
  simp only [writeData, List.length_take, List.length_drop]
  omega

theorem exec_writeMem_range (h : MaintReady s .writeMem ps) (hparams : memoryParams ps = .error .range) :
    ∃ t, exec .writeMem s = .next t ∧
      t = { s with maint := .ready .range [], tcLast := .maintenance, tcGrant := t.tcGrant } ∧
      SameBytes s t :=
  maintHandling_reports (f := fun ps => writeMemAnswer ps s) (a := .error .range) h
    (by simp only [writeMemAnswer, hparams]) rfl

theorem exec_writeMem_notChained (h : MaintReady s .writeMem ps)
    (hparams : memoryParams ps = .ok (pg, off, n))
    (hplace : entryAt s pg = .free ∨ entryAt s pg = .scrub) : ∃ t, exec .writeMem s = .next t ∧
      t = { s with maint := .ready .notChained [], tcLast := .maintenance, tcGrant := t.tcGrant } ∧
      SameBytes s t := by
  have hnone : chainedTo s pg = none := by
    obtain he | he := hplace <;> simp [chainedTo, he]
  exact maintHandling_reports (f := fun ps => writeMemAnswer ps s) (a := .error .notChained) h
    (by simp only [writeMemAnswer, hparams, hnone]) rfl

/-! ### FORCE_DETACH -/

/-- A teardown cause while the maintenance requester has the grant meets no take (R74). -/
theorem teardownCause_of_maintenance (hgrant : granted s .maintenance = true)
    (hatt : attached s p = true) (c : TeardownCause) : teardownCause p c s = startStep p c s := by
  have hmeet : meetTake p s = s := by
    obtain ⟨-, h⟩ | ⟨⟨hp, -⟩, -⟩ := meetTake_cases p s
    · exact h
    · have hm := (granted_iff.1 hgrant).2.1
      rw [(granted_iff.1 hp).2.1] at hm
      cases hm
  obtain ⟨-, h⟩ | ⟨hno, -⟩ := teardownCause_cases p c s
  · rw [h, hmeet]; rfl
  · rw [hatt] at hno; cases hno

/-! ### CLEAR_ALL -/

theorem clearedRec_vacantRec : clearedRec vacantRec = vacantRec := rfl

theorem tabGet_clearedTable {bufs : List (Nat × BufRec)} (h : tabWf vacantRec 1024 bufs = true)
    (k : Nat) : tabGet vacantRec (clearedTable bufs) k = clearedRec (tabGet vacantRec bufs k) := by
  have hlisted {r : BufRec} (hr : (k, r) ∈ bufs) : tabGet vacantRec bufs k = r := tabGet_of_mem h hr
  by_cases hvacant : clearedRec (tabGet vacantRec bufs k) = vacantRec
  · rw [hvacant]
    by_contra hne
    obtain ⟨hmapped, hkept⟩ := List.mem_filter.1 (mem_of_tabGet hne)
    obtain ⟨⟨k', r⟩, hr, he⟩ := List.mem_map.1 hmapped
    obtain ⟨rfl, hrec⟩ := Prod.mk.inj he
    rw [hlisted hr] at hvacant
    exact hne (hrec.symm.trans hvacant)
  · have hne : tabGet vacantRec bufs k ≠ vacantRec := fun he => hvacant (by rw [he, clearedRec_vacantRec])
    refine tabGet_of_mem (wf_clearedTable h) (List.mem_filter.2 ⟨?_, by simpa using hvacant⟩)
    exact List.mem_map.2 ⟨_, mem_of_tabGet hne, rfl⟩

theorem recAt_clearAllState (h : TableLaw s) (b : BufNo) : recAt (clearAllState s) b =
    match liveAt s b with
    | none => recAt s b
    | some _ => ⟨genAt s b + 1, none⟩ := by
  have hrec : recAt (clearAllState s) b = clearedRec (recAt s b) := tabGet_clearedTable h.1 b.val
  rw [hrec, clearedRec, liveAt]
  cases hlive : (recAt s b).live <;> rfl

theorem portAt_clearAllState (p : Port) :
    portAt (clearAllState s) p = clearedPort (portAt s p) := by
  cases p <;> rfl

end

/-- Settles O45: each answer is the request's own bytes, which are the bytes of section 12.4. -/
theorem inspections : Obligations.Inspections := by
  unfold Obligations.Inspections
  refine ⟨fun s i r ps data h hrequest => ?reports, fun s i r ps h hrequest => ?range,
    fun s hrst hheld => ?pool⟩
  case reports =>
    obtain ⟨b, rfl, rfl, hnum, rfl⟩ | ⟨pg, rfl, rfl, hnum, rfl⟩ | ⟨id, rfl, rfl, hnum, rfl⟩ |
      ⟨rfl, rfl, hpos, rfl⟩ | ⟨p, rfl, rfl, hport, rfl⟩ := hrequest
    · refine maintHandling_reports (f := fun ps => some (readBufferAnswer ps s)) h rfl ?_
      simp only [readBufferAnswer, hnum, bufNoOf, b.isLt, dite_true, respond, recordBytes_eq]
    · refine maintHandling_reports (f := fun ps => some (readPageEntryAnswer ps s)) h rfl ?_
      simp only [readPageEntryAnswer, hnum, pageNoOf_val, respond, entryBytes_eq]
    · refine maintHandling_reports (f := fun ps => some (readOfferAnswer ps s)) h rfl ?_
      simp only [readOfferAnswer, offerIdOf_of_toNat hnum, respond, offerBytes_eq]
    · refine maintHandling_reports (f := fun ps => some (readDirAnswer ps s)) h rfl ?_
      simp only [readDirAnswer, if_neg (by omega : ¬63 < (byteAt ps 0).toNat), respond, dirBytes_eq]
    · refine maintHandling_reports (f := fun ps => some (readPortAnswer ps s)) h rfl ?_
      simp only [readPortAnswer, hport, respond, portBytes_eq]
  case range =>
    obtain ⟨rfl, rfl, hnum⟩ | ⟨rfl, rfl, hnum⟩ | ⟨rfl, rfl, hnum⟩ | ⟨rfl, rfl, hnum⟩ |
      ⟨rfl, rfl, hnum⟩ := hrequest
    · refine maintHandling_reports (f := fun ps => some (readBufferAnswer ps s)) h rfl ?_
      simp only [readBufferAnswer, bufNoOf, dif_neg (Nat.not_lt.2 hnum), respond]
    · refine maintHandling_reports (f := fun ps => some (readPageEntryAnswer ps s)) h rfl ?_
      simp only [readPageEntryAnswer, pageNoOf, dif_neg (Nat.not_lt.2 hnum), respond]
    · refine maintHandling_reports (f := fun ps => some (readOfferAnswer ps s)) h rfl ?_
      simp only [readOfferAnswer, offerIdOf, offerNoOf, dif_neg (Nat.not_lt.2 hnum), respond]
    · refine maintHandling_reports (f := fun ps => some (readDirAnswer ps s)) h rfl ?_
      simp only [readDirAnswer, if_pos (by omega : 63 < (byteAt ps 0).toNat), respond]
    · refine maintHandling_reports (f := fun ps => some (readPortAnswer ps s)) h rfl ?_
      have hnone : portOf (byteAt ps 0) = none := portOfNum_eq_none.2 (by omega)
      simp only [readPortAnswer, hnone, respond]
  case pool =>
    have hexec : exec .readPool s = .next (arbitrate { s with maint := .ready .ok (poolBytes s) }) :=
      maintService_answered (f := fun _ => some (.ok (s, poolBytes s))) hrst hheld rfl
    rw [poolBytes_eq] at hexec
    exact ⟨_, hexec, arbitrate_eq _, fun x => by rw [arbitrate_mem]⟩

/-- Settles O46. -/
theorem memoryRequests : Obligations.MemoryRequests := by
  unfold Obligations.MemoryRequests
  refine ⟨fun s u ps pg off n hrst hheld hpage hoff hcount hn hend hgrant => ?read,
    fun s u ps pg off n b nx h hpage hoff hcount hn hend hlen hentry hgrant => ?write,
    fun s ps pg off n h hpage hoff hcount hn hend hplace => ?notChained,
    fun s ps off n hoff hcount hbad => ⟨fun hrst hheld => ?readRange, fun h => ?writeRange⟩⟩
  case read =>
    have hexec : exec .readMem s = .next (arbitrate { u with
        maint := .ready .ok (memReadRun u.mem (pageAddr pg off) n) }) := by
      refine maintService_answered (f := fun ps => readMemAnswer ps s)
        (a := .ok (u, memReadRun u.mem (pageAddr pg off) n)) hrst hheld ?_
      simp only [readMemAnswer, memoryParams_of_run hpage hoff hcount hn hend, hgrant]
      rfl
    exact ⟨_, _, hexec, arbitrate_eq _, fun x => by rw [arbitrate_mem], length_memReadRun _ _ _,
      fun i hi => getD_memReadRun _ _ _ i hi⟩
  case write =>
    have hchained : chainedTo s pg = some b := chainedTo_eq_some.2 ⟨nx, hentry⟩
    have hdata := length_writeData hlen
    refine ⟨_, maintHandling_answered (f := fun ps => writeMemAnswer ps s) (a := .ok
      ({ u with mem := memWriteRun u.mem (pageAddr pg off) (writeData ps n) }, bytes16 b.val)) h ?_,
      ?_, fun i hi => ?_, fun x hx => ?_⟩
    · simp only [writeMemAnswer, memoryParams_of_run hpage hoff hcount hn hend, hchained, hgrant]
      rfl
    · rw [endHandling_eq]; rfl
    · rw [endHandling_mem]
      exact (memRead_memWriteRun_inside _ _ _ i (by omega)).trans (getD_writeData hi)
    · rw [endHandling_mem]
      refine memRead_memWriteRun_outside _ _ _ x ?_
      rw [hdata]
      exact hx
  case notChained =>
    exact exec_writeMem_notChained h (memoryParams_of_run hpage hoff hcount hn hend) hplace
  case readRange =>
    have hexec : exec .readMem s = .next (arbitrate { s with maint := .ready .range [] }) :=
      maintService_answered (f := fun ps => readMemAnswer ps s) (a := .error .range) hrst hheld
        (by simp only [readMemAnswer, memoryParams_range hoff hcount hbad])
    exact ⟨_, hexec, arbitrate_eq _, fun x => by rw [arbitrate_mem]⟩
  case writeRange =>
    exact exec_writeMem_range h (memoryParams_range hoff hcount hbad)

/-- Settles O48. -/
theorem forceDetachRule : Obligations.ForceDetachRule := by
  unfold Obligations.ForceDetachRule
  refine ⟨fun s ps p h hport => ⟨fun hatt => ?attached, fun hatt => ?other⟩, fun s ps h hnum => ?range⟩
  case attached =>
    have hcode : byteOf (portStateCode (portAt s p).state) = 1 := by
      rw [show (portAt s p).state = .attached by simpa [attached] using hatt]; rfl
    have hanswer : forceDetachAnswer ps s = .ok (startStep p .forceDetach s, [1]) := by
      simp only [forceDetachAnswer, hport, hcode, teardownCause_of_maintenance h.1 hatt]
    have hjob := jobStopped_startStep p .forceDetach s
    have hwalk := walkJoined_startStep p .forceDetach s
    have hports := portAt_startStep p .forceDetach s
    refine ⟨_, maintHandling_answered (f := fun ps => some (forceDetachAnswer ps s)) h
      (congrArg some hanswer), ?_, fun x => ?_, fun q hq => ?_, ?_, ?_, ?_⟩
    · rw [endHandling_eq, startStep_frame]; rfl
    · rw [endHandling_mem, startStep_frame]; rfl
    · rw [portAt_endHandling]; exact (hports q).trans (if_neg hq)
    · rw [portAt_endHandling]
      exact ((hports p).trans (if_pos rfl)).symm ▸ tornDown_startStepPort .forceDetach (portAt s p)
    · rw [endHandling_eq]; exact hjob
    · rw [endHandling_eq]; exact hwalk
  case other =>
    have hcode : byteOf (portStateCode (portAt s p).state) =
        if (portAt s p).state = .teardown then 2 else 0 := by
      cases hs : (portAt s p).state with
      | detached => rfl
      | attached => simp [attached, hs] at hatt
      | teardown => rfl
    have hcause : teardownCause p .forceDetach s = s := by simp [teardownCause, hatt]
    refine maintHandling_reports (f := fun ps => some (forceDetachAnswer ps s)) h rfl ?_
    simp only [forceDetachAnswer, hport, hcode, hcause, respond]
  case range =>
    have hnone : portOf (byteAt ps 0) = none := portOfNum_eq_none.2 hnum
    refine maintHandling_reports (f := fun ps => some (forceDetachAnswer ps s)) h rfl ?_
    simp only [forceDetachAnswer, hnone, respond]

/-- Settles O49. -/
theorem clearAllRule : Obligations.ClearAllRule := by
  unfold Obligations.ClearAllRule
  refine ⟨fun s h hhold => ?refused, fun s h hhold hlaw => ?cleared⟩
  case refused =>
    exact maintHandling_reports (f := fun _ => some (clearAllAnswer s)) h rfl
      (by simp [clearAllAnswer, hhold, respond])
  case cleared =>
    refine ⟨_, maintHandling_answered (f := fun _ => some (clearAllAnswer s)) (a := .ok (clearAllState s, []))
      h (by simp [clearAllAnswer, hhold]), ?_, fun x => ?_, fun b => ?_, fun p => ?_⟩
    · rw [endHandling_eq]; rfl
    · rw [endHandling_mem]; rfl
    · rw [recAt_endHandling]; exact recAt_clearAllState hlaw b
    · rw [portAt_endHandling]; exact portAt_clearAllState p

end Sys2Proof.Proofs

/-! The obligations on the SPI frames (sections 11.1 and 11.2) and on device reset. -/

namespace Sys2Proof.Proofs

open Sys2Proof Sys2Proof.Machine Sys2Proof.Safety

section
variable {s t u : State} {code item port lo hi : Byte} {ps more : List Byte} {r : Request} {it : CfgItem}
  {n : Nat}

/-! ### Frames -/

theorem shiftStatus_succ (n : Nat) (s : State) : shiftStatus (n + 1) s =
    { s with sdo := maintStatus s.maint s.hold :: List.replicate n 0 } := by
  simp [shiftStatus, List.take_replicate]

theorem requestFrameStep_cons (hidle : s.maint = .idle) : requestFrameStep (code :: ps) s =
    takeRequest code ps
      { s with sdo := maintStatus .idle s.hold :: List.replicate (ps.length + 1) 0 } := by
  simp only [requestFrameStep, hidle, List.length_cons, shiftStatus_succ]

theorem requestFrameStep_nil : requestFrameStep [] s =
    { s with sdo := [maintStatus s.maint s.hold] } := by
  unfold requestFrameStep
  split
  · next h => cases h
  · exact shiftStatus_succ 0 s

theorem requestFrameStep_of_not_idle (hidle : s.maint ≠ .idle) (bytes : List Byte) :
    requestFrameStep bytes s =
      { s with sdo := maintStatus s.maint s.hold :: List.replicate bytes.length 0 } := by
  cases hmaint : s.maint with
  | idle => exact absurd hmaint hidle
  | pending req => simp [requestFrameStep, hmaint, shiftStatus_succ]
  | ready status data => simp [requestFrameStep, hmaint, shiftStatus_succ]

theorem takeRequest_short (hr : requestOf code = some r) (hshort : ps.length < requestLength r ps) :
    takeRequest code ps s = s := by
  simp only [takeRequest, hr, if_pos hshort]

theorem takeRequest_held (hr : requestOf code = some r) (hlong : requestLength r ps ≤ ps.length)
    (hread : r ≠ .readConfig) (hwrite : r ≠ .writeConfig) : takeRequest code ps s =
    { s with maint := .pending ⟨code, ps.take (requestLength r ps)⟩ } := by
  simp only [takeRequest, hr, if_neg (Nat.not_lt.2 hlong)]

theorem takeRequest_readConfig : takeRequest 0x01 (item :: port :: more) s =
    readConfig (item :: port :: more) s := by
  have hr : requestOf 0x01 = some .readConfig := rfl
  simp only [takeRequest, hr]
  exact if_neg (by simp [requestLength])

theorem takeRequest_writeConfig : takeRequest 0x02 (item :: port :: lo :: hi :: more) s =
    writeConfig (item :: port :: lo :: hi :: more) s := by
  have hr : requestOf 0x02 = some .writeConfig := rfl
  simp only [takeRequest, hr]
  exact if_neg (by simp [requestLength])

theorem exec_requestFrame (hrst : s.rst = false) (bytes : List Byte) :
    exec (.requestFrame bytes) s = .next (arbitrate (requestFrameStep bytes s)) :=
  if_neg (by simp [hrst])

theorem exec_fetchFrame (hrst : s.rst = false) (n : Nat) :
    exec (.fetchFrame n) s = .next (arbitrate (fetchFrameStep n s)) :=
  if_neg (by simp [hrst])

/-! ### Configuration -/

theorem writeConfig_of_item (hitem : cfgItemOf item port = some it)
    (hin : cfgInRange (lo.toNat + 256 * hi.toNat) it = true) :
    writeConfig (item :: port :: lo :: hi :: more) s =
      { s with maint := .ready .ok (bytes16 (cfgGet s.cfg it))
               cfg := cfgSet s.cfg (lo.toNat + 256 * hi.toNat) it } := by
  have hbytes : cfgItemOf (byteAt (item :: port :: lo :: hi :: more) 0)
      (byteAt (item :: port :: lo :: hi :: more) 1) = some it := hitem
  simp only [writeConfig, hbytes]
  exact if_pos hin

theorem writeConfig_refused (hbad : ∀ it, cfgItemOf item port = some it →
      cfgInRange (lo.toNat + 256 * hi.toNat) it = false) :
    writeConfig (item :: port :: lo :: hi :: more) s = { s with maint := .ready .range [] } := by
  unfold writeConfig
  split
  · rfl
  · next it hit => exact if_neg fun hin => Bool.noConfusion ((hbad it hit).symm.trans hin)

theorem cfgGet_cfgSet_self {c : Cfg} {v : Nat} (hin : cfgInRange v it = true) :
    cfgGet (cfgSet c v it) it = v := by
  cases it with
  | policy p =>
    have hv : v ≤ 1 := by simpa [cfgInRange] using hin
    obtain rfl | rfl : v = 0 ∨ v = 1 := by omega
    · simp [cfgGet, cfgSet, policyNum]
    · simp [cfgGet, cfgSet, policyNum]
  | _ => simp [cfgGet, cfgSet]

theorem cfgGet_cfgSet_other {c : Cfg} {v : Nat} {jt : CfgItem} (hne : jt ≠ it) :
    cfgGet (cfgSet c v it) jt = cfgGet c jt := by
  have hport {q p : Port} (f : Port → CfgItem) (h : f q ≠ f p) : q ≠ p := fun he => h (by rw [he])
  cases it with
  | bufQuota p =>
    cases jt with
    | bufQuota q => simp [cfgGet, cfgSet, hport _ hne]
    | _ => rfl
  | pageQuota p =>
    cases jt with
    | pageQuota q => simp [cfgGet, cfgSet, hport _ hne]
    | _ => rfl
  | policy p =>
    cases jt with
    | policy q => simp [cfgGet, cfgSet, hport _ hne]
    | _ => rfl
  | offerTicks =>
    cases jt with
    | offerTicks => exact absurd rfl hne
    | _ => rfl
  | recallTicks =>
    cases jt with
    | recallTicks => exact absurd rfl hne
    | _ => rfl
  | tickDiv =>
    cases jt with
    | tickDiv => exact absurd rfl hne
    | _ => rfl

theorem cfgItemOf_eq_none : cfgItemOf item port = none ↔
    item.toNat = 0 ∨ 6 < item.toNat ∨ (item.toNat ≤ 3 ∧ 3 < port.toNat) := by
  unfold cfgItemOf portOf
  generalize item.toNat = n
  match n with
  | 0 | 4 | 5 | 6 => simp
  | 1 | 2 | 3 => simp [portOfNum_eq_none]
  | n + 7 => simp

/-! ### FETCH -/

theorem length_padTo (bs : List Byte) : (padTo n bs).length = n := by simp [padTo]

theorem getD_padTo (bs : List Byte) {i : Nat} (hi : i < n) : (padTo n bs).getD i 0 = bs.getD i 0 := by
  simp only [padTo, List.getD_eq_getElem?_getD, List.getElem?_take, if_pos hi, List.getElem?_append]
  split
  · rfl
  · next hlen =>
    rw [List.getElem?_eq_none (Nat.not_lt.1 hlen), List.getElem?_replicate]
    split <;> rfl

/-! ### What a device reset does to the Page Memory (log 7) -/

/-- A byte that an abandoned run changes is a byte of the run, and reads as the run's. -/
theorem memRead_memAbandonRun {stored : Nat → Bool} (vs : List Byte) (m : Memory) (a x : Nat)
    (h : memRead (memAbandonRun stored m a vs) x ≠ memRead m x) :
    a ≤ x ∧ x < a + vs.length ∧ memRead (memAbandonRun stored m a vs) x = vs.getD (x - a) 0 := by
  induction vs generalizing m a with
  | nil => exact absurd rfl h
  | cons v vs ih =>
    simp only [memAbandonRun] at h ⊢
    by_cases hlater : memRead (memAbandonRun stored (if stored a then memWrite m a v else m) (a + 1) vs) x =
        memRead (if stored a then memWrite m a v else m) x
    · rw [hlater] at h ⊢
      split at h
      · next hstored =>
        rw [memRead_memWrite] at h
        split at h
        · next hx => subst hx; simp [hstored]
        · exact absurd rfl h
      · exact absurd rfl h
    · obtain ⟨hlo, hhi, hread⟩ := ih _ _ hlater
      refine ⟨by omega, by rw [List.length_cons]; omega, hread.trans ?_⟩
      obtain ⟨k, rfl⟩ : ∃ k, x = a + 1 + k := ⟨x - (a + 1), by omega⟩
      rw [show a + 1 + k - (a + 1) = k by omega, show a + 1 + k - a = k + 1 by omega]
      rfl

theorem memRead_abandonPageWork (x : Nat) (h : memRead (abandonPageWork s) x ≠ memRead s.mem x) :
    (∃ pg, s.page = some (.scrub pg false) ∧ pg.val * 64 ≤ x ∧ x < pg.val * 64 + 64 ∧
      memRead (abandonPageWork s) x = 0) ∨
    (∃ p bytes pg, s.page = some (.copyWrite p bytes false) ∧ copyDest s p = some pg ∧
      pg.val * 64 ≤ x ∧ x < pg.val * 64 + bytes.length ∧
      memRead (abandonPageWork s) x = bytes.getD (x - pg.val * 64) 0) := by
  unfold abandonPageWork at h ⊢
  split at h
  · next pg hpage =>
    obtain ⟨zeros, hz⟩ : ∃ zeros, zeros = zeroPage := ⟨_, rfl⟩
    simp only [← hz] at h ⊢
    obtain ⟨hlo, hhi, hread⟩ := memRead_memAbandonRun _ _ _ x h
    rw [hz, length_zeroPage] at hhi
    refine .inl ⟨pg, hpage, hlo, hhi, hread.trans ?_⟩
    rw [pageAddr] at hlo hhi ⊢
    rw [hz, zeroPage, List.getD_replicate _ (by omega)]
  · next p bytes hpage =>
    split at h
    · exact absurd rfl h
    · next pg hdest =>
      obtain ⟨hlo, hhi, hread⟩ := memRead_memAbandonRun _ _ _ x h
      exact .inr ⟨p, bytes, pg, hpage, hdest, hlo, hhi, hread⟩
  · exact absurd rfl h

theorem memRead_abandonWriteMem {m : Memory} (x : Nat) (h : memRead (abandonWriteMem s m) x ≠ memRead m x) :
    ∃ ps pg off n b nx, MaintReady s .writeMem ps ∧ memoryParams ps = .ok (pg, off, n) ∧
      entryAt s pg = .chained b nx ∧ pg.val * 64 + off ≤ x ∧ x < pg.val * 64 + off + n ∧
      memRead (abandonWriteMem s m) x = ps.getD (4 + (x - (pg.val * 64 + off))) 0 := by
  unfold abandonWriteMem at h ⊢
  split at h
  · next req hmaint =>
    split at h
    · next hheld =>
      rw [if_pos hheld] at ⊢
      simp only [Bool.and_eq_true, decide_eq_true_eq] at hheld
      obtain ⟨hreq, hgrant⟩ := hheld
      split at h
      · exact absurd rfl h
      · next pg off n hparams =>
        split at h
        · next hchained =>
          rw [if_pos hchained]
          obtain ⟨b, hb⟩ := Option.isSome_iff_exists.1 hchained
          obtain ⟨nx, hentry⟩ := chainedTo_eq_some.1 hb
          obtain ⟨hlo, hhi, hread⟩ := memRead_memAbandonRun _ _ _ x h
          have hlen : (writeData req.params n).length ≤ n := List.length_take_le _ _
          rw [pageAddr] at hlo hhi
          refine ⟨req.params, pg, off, n, b, nx, ⟨hgrant, ?_⟩, hparams, hentry, hlo, by omega,
            hread.trans (getD_writeData (by rw [pageAddr]; omega))⟩
          simp [heldRequest, hmaint, hreq]
        · exact absurd rfl h
    · exact absurd rfl h
  · exact absurd rfl h

/-! ### The Scrub Queue after a reset -/

theorem getElem?_pagesFrom {k n i : Nat} (hi : i < n) :
    (pagesFrom k n)[i]? = some (Fin.ofNat 8192 (k + i)) := by
  induction n generalizing k i with
  | zero => omega
  | succ n ih =>
    cases i with
    | zero => rfl
    | succ i =>
      rw [pagesFrom, List.getElem?_cons_succ, ih (by omega), show k + 1 + i = k + (i + 1) by omega]

theorem length_pagesFrom (k n : Nat) : (pagesFrom k n).length = n := by
  induction n generalizing k with
  | zero => rfl
  | succ n ih => rw [pagesFrom, List.length_cons, ih]

theorem portAt_resetDevice (p : Port) :
    portAt (resetDevice s) p = HostPort.reset (portAt s p).prst :=
  perGet_perOf _ _

theorem perGet_same {α : Type} (x : α) (p : Port) : perGet ⟨x, x, x, x⟩ p = x := by cases p <;> rfl

end

/-- Settles O43. -/
theorem frameRule : Obligations.FrameRule := by
  unfold Obligations.FrameRule
  refine ⟨fun s code ps hrst hidle hnone => ?unknownCode,
    fun s code ps r hrst hidle hr hread hwrite hlong => ?held, fun s bytes hrst hcase => ?discarded,
    fun s item port more hrst hidle => ?readConfig,
    fun s item port lo hi more it hrst hidle hitem hin => ?writeConfig,
    fun s item port lo hi more hrst hidle hbad => ?refused, fun _ _ => cfgItemOf_eq_none,
    fun v it => ?range, fun s n status data hrst hready hn => ?fetched, fun s n hrst hn hcase => ?noResponse,
    fun s n first hrst hn _ _ => ?unknownFrame⟩
  case unknownCode =>
    have hexec := exec_requestFrame hrst (code :: ps)
    rw [requestFrameStep_cons hidle] at hexec
    simp only [takeRequest, hnone] at hexec
    exact ⟨_, hexec, arbitrate_eq _, fun x => by rw [arbitrate_mem]⟩
  case held =>
    have hexec := exec_requestFrame hrst (code :: ps)
    rw [requestFrameStep_cons hidle, takeRequest_held hr hlong hread hwrite] at hexec
    exact ⟨_, hexec, arbitrate_eq _, fun x => by rw [arbitrate_mem]⟩
  case discarded =>
    have hstep : requestFrameStep bytes s =
        { s with sdo := maintStatus s.maint s.hold :: List.replicate bytes.length 0 } := by
      by_cases hidle : s.maint = .idle
      · obtain hno | rfl | ⟨code, ps, r, rfl, hr, hshort⟩ := hcase
        · exact absurd hidle hno
        · exact requestFrameStep_nil
        · rw [requestFrameStep_cons hidle, takeRequest_short hr hshort, hidle]
          rfl
      · exact requestFrameStep_of_not_idle hidle bytes
    have hexec := exec_requestFrame hrst bytes
    rw [hstep] at hexec
    exact ⟨_, hexec, arbitrate_eq _, fun x => by rw [arbitrate_mem]⟩
  case readConfig =>
    have hexec := exec_requestFrame hrst (0x01 :: item :: port :: more)
    rw [requestFrameStep_cons hidle, takeRequest_readConfig] at hexec
    refine ⟨_, hexec, (arbitrate_eq _).trans ?_, fun x => ?_⟩
    · unfold Machine.readConfig
      cases hitem : cfgItemOf item port <;> simp [byteAt, hitem]
    · rw [arbitrate_mem]
      unfold Machine.readConfig
      split <;> rfl
  case writeConfig =>
    have hexec := exec_requestFrame hrst (0x02 :: item :: port :: lo :: hi :: more)
    rw [requestFrameStep_cons hidle, takeRequest_writeConfig, writeConfig_of_item hitem hin] at hexec
    refine ⟨_, hexec, (arbitrate_eq _).trans ?_, fun x => by rw [arbitrate_mem], ?_, fun jt hne => ?_⟩
    · rw [arbitrate_cfg]; rfl
    · rw [arbitrate_cfg]; exact cfgGet_cfgSet_self hin
    · rw [arbitrate_cfg]; exact cfgGet_cfgSet_other hne
  case refused =>
    have hexec := exec_requestFrame hrst (0x02 :: item :: port :: lo :: hi :: more)
    rw [requestFrameStep_cons hidle, takeRequest_writeConfig, writeConfig_refused hbad] at hexec
    exact ⟨_, hexec, arbitrate_eq _, fun x => by rw [arbitrate_mem]⟩
  case range => cases it <;> simp [cfgInRange]
  case fetched =>
    have hstep : fetchFrameStep n s =
        { s with sdo := padTo n (maintStatus s.maint s.hold :: statusCode status :: data)
                 maint := if 2 ≤ n then .idle else s.maint } := by
      simp only [fetchFrameStep, hready]
    have hexec := exec_fetchFrame hrst n
    rw [hstep] at hexec
    refine ⟨_, hexec, (arbitrate_eq _).trans (by rw [arbitrate_sdo]), fun x => by rw [arbitrate_mem], ?_,
      fun i hi => ?_⟩
    · rw [arbitrate_sdo]; exact length_padTo _
    · rw [arbitrate_sdo]; exact getD_padTo _ hi
  case noResponse =>
    obtain ⟨k, rfl⟩ : ∃ k, n = k + 1 := ⟨n - 1, by omega⟩
    have hstep : fetchFrameStep (k + 1) s = shiftStatus (k + 1) s := by
      obtain hidle | ⟨req, hpending⟩ := hcase
      · simp only [fetchFrameStep, hidle]
      · simp only [fetchFrameStep, hpending]
    have hexec := exec_fetchFrame hrst (k + 1)
    rw [hstep, shiftStatus_succ] at hexec
    exact ⟨_, hexec, arbitrate_eq _, fun x => by rw [arbitrate_mem]⟩
  case unknownFrame =>
    obtain ⟨k, rfl⟩ : ∃ k, n = k + 1 := ⟨n - 1, by omega⟩
    have hexec : exec (.unknownFrame first (k + 1)) s = .next (arbitrate (shiftStatus (k + 1) s)) :=
      if_neg (by simp [hrst])
    rw [shiftStatus_succ] at hexec
    exact ⟨_, hexec, arbitrate_eq _, fun x => by rw [arbitrate_mem]⟩

/-- Settles O4: every record and block reads as after device reset, and a byte of the Page Memory is
changed by one of the two abandoned writes. -/
theorem deviceResetValues : Obligations.DeviceResetValues := by
  unfold Obligations.DeviceResetValues
  intro s hrst
  have hexec : exec .deviceReset s = .next (resetDevice s) := if_neg (by simp [hrst])
  have hports (p : Port) := portAt_resetDevice (s := s) p
  refine ⟨_, hexec, fun _ => rfl, fun _ => rfl, fun _ => rfl, rfl, fun p => perGet_same _ p, rfl, rfl, rfl, rfl,
    length_pagesFrom 0 8192, fun pg => ?queue, rfl, fun p => perGet_same _ p, rfl, rfl, rfl, rfl, rfl, rfl,
    rfl, fun p => ⟨perGet_same _ p, perGet_same _ p, perGet_same _ p⟩, rfl, rfl, rfl, fun p => ?port, rfl, rfl,
    rfl, fun x hx => ?memory⟩
  case queue =>
    refine (getElem?_pagesFrom pg.isLt).trans (congrArg some (Fin.ext ?_))
    rw [Nat.zero_add]
    exact Nat.mod_eq_of_lt pg.isLt
  case port => rw [hports]; exact ⟨rfl, rfl, rfl, rfl, rfl, rfl, rfl, rfl, rfl, rfl, rfl, rfl⟩
  case memory =>
    change memRead (abandonWriteMem s (abandonPageWork s)) x ≠ _ at hx
    by_cases hwrite : memRead (abandonWriteMem s (abandonPageWork s)) x = memRead (abandonPageWork s) x
    · rw [hwrite] at hx
      obtain ⟨pg, hpage, hlo, hhi, hread⟩ | ⟨p, bytes, pg, hpage, hdest, hlo, hhi, hread⟩ :=
        memRead_abandonPageWork x hx
      · exact .inl ⟨pg, hpage, hlo, hhi, hwrite.trans hread⟩
      · exact .inr (.inl ⟨p, bytes, pg, hpage, hdest, hlo, hhi, hwrite.trans hread⟩)
    · exact .inr (.inr (memRead_abandonWriteMem x hwrite))

end Sys2Proof.Proofs

/-! The obligation on COPY (section 9.2): its marks, its job, its refusals, and its handling that runs on
after a teardown start (log 27). -/

namespace Sys2Proof.Proofs

open Sys2Proof Sys2Proof.Machine Sys2Proof.Safety

/-- The marks and the job of an accepted COPY (R161). -/
def withJob (p : Port) (j : Job) (s : State) : State :=
  s |> mark j.src.buf p |> mark j.dst.buf p |> setJob p (some j)

section
variable {s t u : State} {p q : Port} {b c src dst : BufNo} {l ls ld : Live} {i j n : Nat} {job : Job}
  {slot : CmdSlot} {r : Result} {cause : StopCause}

/-! ### The checks -/

theorem copyChecks_congr (hsrc : checkHandle t p 0 = checkHandle s p 0)
    (hdst : checkHandle t p 4 = checkHandle s p 4) (hparam : ∀ k, param t p k = param s p k)
    (hrec : ∀ b, recAt t b = recAt s b) : copyChecks p t = copyChecks p s := by
  have hhandle (b : BufNo) : handleAt t b = handleAt s b := by simp only [handleAt, genAt, hrec]
  simp only [copyChecks, hsrc, hdst, hparam, hhandle]

theorem copyChecks_take (s : State) (p : Port) :
    copyChecks p (updPort p takeCommand s) = copyChecks p s :=
  copyChecks_congr (checkHandle_take s p p 0) (checkHandle_take s p p 4) (param_take s p p) fun _ => rfl

theorem copyChecks_accepts (hsrc : checkHandle s p 0 = .ok (src, ls))
    (hdst : checkHandle s p 4 = .ok (dst, ld)) (hi : i = (param s p 3).toNat)
    (hj : j = (param s p 7).toNat) (hn : n = (param s p 8).toNat) (hlow : 1 ≤ n) (hhigh : n ≤ 32)
    (hread : access ls p ≠ .none) (hwrite : access ld p = .readWrite) (hsrcEnd : i + n ≤ ls.length)
    (hdstEnd : j + n ≤ ld.length) (happart : src = dst → i + n ≤ j ∨ j + n ≤ i) :
    copyChecks p s = .ok ⟨⟨src, genAt s src⟩, i, ⟨dst, genAt s dst⟩, j, n, 0, .running⟩ := by
  have hreadOk : allows (access ls p) .read = true := by cases h : access ls p <;> simp_all [allows]
  have hwriteOk : allows (access ld p) .write = true := by rw [hwrite]; rfl
  have hoverlap : ¬(src = dst ∧ runsOverlap i j n = true) := by
    rintro ⟨hsame, hover⟩
    have := happart hsame
    simp only [runsOverlap, Bool.and_eq_true, decide_eq_true_eq] at hover
    omega
  simp only [copyChecks, hsrc, hdst, ← hi, ← hj, ← hn]
  rw [if_neg (by omega), if_neg (by simp [hreadOk]), if_neg (by simp [hwriteOk]), if_neg (by omega),
    if_neg (by omega), if_neg hoverlap]
  rfl

/-- A job that the checks answer is new: RUNNING, with no page done. -/
theorem copyChecks_new (h : copyChecks p s = .ok job) : job.done = 0 ∧ job.state = .running := by
  unfold copyChecks at h
  split at h
  · cases h
  · split at h
    · cases h
    · dsimp only at h
      split_ifs at h
      cases h
      exact ⟨rfl, rfl⟩

/-! ### The marks -/

theorem mark_frame (b : BufNo) (p : Port) (s : State) :
    mark b p s = { s with buffers := (mark b p s).buffers } := by
  unfold mark
  split <;> rfl

theorem recAt_mark (hlive : liveAt s b = some l) : recAt (mark b p s) c =
    if c = b then ⟨genAt s b, some { l with marks := perSet l.marks p true }⟩ else recAt s c := by
  simp only [mark, hlive, recAt_setLive_eq]

theorem liveAt_of_recAt {g : Byte} {o : Option Live} (h : recAt s b = ⟨g, o⟩) : liveAt s b = o := by
  rw [liveAt, h]

section
variable (hsrc : liveAt s job.src.buf = some ls) (hdst : liveAt s job.dst.buf = some ld)
include hsrc hdst

/-- The two records of a new job carry its mark, which one record takes once (R161). -/
theorem recAt_withJob (c : BufNo) : recAt (withJob p job s) c =
    if c = job.src.buf then ⟨genAt s job.src.buf, some { ls with marks := perSet ls.marks p true }⟩
    else if c = job.dst.buf then ⟨genAt s job.dst.buf, some { ld with marks := perSet ld.marks p true }⟩
    else recAt s c := by
  change recAt (mark job.dst.buf p (mark job.src.buf p s)) c = _
  by_cases hsame : job.dst.buf = job.src.buf
  · have hrec := recAt_mark (p := p) (c := job.src.buf) hsrc
    rw [if_pos rfl] at hrec
    rw [hsame, recAt_mark (liveAt_of_recAt hrec), recAt_mark hsrc, genAt, hrec]
    simp only [perSet_perSet]
    split <;> rfl
  · have hrec := recAt_mark (p := p) (c := job.dst.buf) hsrc
    rw [if_neg hsame] at hrec
    have hlive : liveAt (mark job.src.buf p s) job.dst.buf = some ld := by rw [liveAt, hrec]; exact hdst
    rw [recAt_mark hlive, recAt_mark hsrc, genAt, hrec]
    by_cases hc : c = job.dst.buf
    · rw [if_pos hc, if_neg (hc ▸ hsame), if_pos hc]; rfl
    · rw [if_neg hc, if_neg hc]

theorem holdsRevocation_withJob :
    (holdsRevocation (withJob p job s) job.src.buf || holdsRevocation (withJob p job s) job.dst.buf) =
      (ls.pendingRev.isSome || ld.pendingRev.isSome) := by
  have hs := recAt_withJob (p := p) hsrc hdst job.src.buf
  have hd := recAt_withJob (p := p) hsrc hdst job.dst.buf
  rw [if_pos rfl] at hs
  simp only [holdsRevocation, liveAt_of_recAt hs]
  split at hd
  · next hsame =>
    have hlive : ls = ld := Option.some.inj (hsrc.symm.trans ((congrArg (liveAt s) hsame.symm).trans hdst))
    simp only [liveAt_of_recAt hd, hlive]
  · rw [if_pos rfl] at hd
    simp only [liveAt_of_recAt hd]

end

theorem withJob_frame : withJob p job s =
    { s with buffers := (withJob p job s).buffers, jobs := (withJob p job s).jobs } := by
  rw [withJob, mark_frame, mark_frame]
  rfl

theorem portAt_withJob (q : Port) : portAt (withJob p job s) q = portAt s q := by
  rw [withJob_frame]; rfl

theorem jobAt_withJob (q : Port) :
    jobAt (withJob p job s) q = if q = p then some job else jobAt s q := by
  have hjobs : (mark job.dst.buf p (mark job.src.buf p s)).jobs = s.jobs := by
    rw [mark_frame, mark_frame]
  rw [withJob, jobAt_setJob]
  split
  · rfl
  · rw [jobAt, hjobs]; rfl

/-! ### The new job -/

theorem stopJob_stopJob (p : Port) (c : StopCause) (s : State) :
    stopJob p c (stopJob p c s) = stopJob p c s := by
  obtain h | ⟨j, hjob, hrun, ⟨hpage, h⟩ | ⟨hpage, h⟩⟩ := stopJob_cases p c s
  · rw [h, h]
  · rw [h]
    simp [stopJob]
  · rw [h]
    have hnone : jobAt (endJob p j (endCauseOf c) s) p = none := (jobAt_endJob p _).trans (if_pos rfl)
    simp [stopJob, hnone]

theorem createJob_withJob : createJob p job (mark job.dst.buf p (mark job.src.buf p s)) =
    if holdsRevocation (withJob p job s) job.src.buf || holdsRevocation (withJob p job s) job.dst.buf then
      stopJob p .aborted (withJob p job s)
    else withJob p job s := rfl

/-- An accepted COPY of an ATTACHED port without a requested cancel (R161). -/
theorem acceptCopy_attached (hstate : (portAt s p).state ≠ .teardown)
    (hcancel : (portAt s p).cmd.cancelRequested = false) : acceptCopy p job s =
    if holdsRevocation (withJob p job s) job.src.buf || holdsRevocation (withJob p job s) job.dst.buf then
      stopJob p .aborted (withJob p job s)
    else withJob p job s := by
  have hport (u : State) (hu : portAt u p = portAt s p) : jobCreated p u = u := by
    rw [jobCreated, if_neg (by rwa [hu]), if_neg (by simp [hu, hcancel])]
  rw [acceptCopy, createJob_withJob]
  split
  · refine hport _ ?_
    rw [stopJob_eq]
    exact portAt_withJob p
  · exact hport _ (portAt_withJob p)

/-- An accepted COPY whose port is in TEARDOWN: its job is stopped in the same handling (R74, R161). -/
theorem acceptCopy_teardown (hstate : (portAt s p).state = .teardown) :
    acceptCopy p job s = stopJob p .aborted (withJob p job s) := by
  have hport (u : State) (hu : portAt u p = portAt s p) : jobCreated p u = stopJob p .aborted u := by
    rw [jobCreated, if_pos (by rwa [hu])]
  rw [acceptCopy, createJob_withJob]
  split
  · rw [hport, stopJob_stopJob]
    rw [stopJob_eq]
    exact portAt_withJob p
  · exact hport _ (portAt_withJob p)

/-- What a stop leaves of a new job (R165). -/
theorem stopJob_withJob (hstate : job.state = .running) (hdone : job.done = 0) :
    (∀ q, q ≠ p → jobAt (stopJob p .aborted (withJob p job s)) q = jobAt s q) ∧
    (copyPageOf s.page p = false → jobAt (stopJob p .aborted (withJob p job s)) p = none ∧
      (stopJob p .aborted (withJob p job s)).reports =
        s.reports ++ [⟨p, job.src, job.dst, 0, .aborted⟩]) ∧
    (copyPageOf s.page p = true →
      jobAt (stopJob p .aborted (withJob p job s)) p = some { job with state := .stopping .aborted } ∧
      (stopJob p .aborted (withJob p job s)).reports = s.reports) := by
  have hreports : (withJob p job s).reports = s.reports := by rw [withJob_frame]
  have hpage : (withJob p job s).page = s.page := by rw [withJob_frame]
  have hjob : jobAt (withJob p job s) p = some job := (jobAt_withJob p).trans (if_pos rfl)
  obtain ⟨hothers, hstop⟩ := jobStopped_stopJob p .aborted (withJob p job s)
  simp only [hjob, hstate, hreports, hpage, hdone, endCauseOf] at hstop
  refine ⟨fun q hq => (hothers q hq).trans ((jobAt_withJob q).trans (if_neg hq)), fun hno => ?_, fun hyes => ?_⟩
  · simpa [hno] using hstop
  · simpa [hyes, hdone] using hstop

/-- What an accepted COPY leaves, whether its job goes on or is stopped at once. -/
theorem acceptedCopy_frame (h : u = withJob p job s ∨ u = stopJob p .aborted (withJob p job s)) :
    u = { s with buffers := u.buffers, jobs := u.jobs, reports := u.reports } ∧
      (∀ c, recAt u c = recAt (withJob p job s) c) ∧ ∀ q, q ≠ p → jobAt u q = jobAt s q := by
  have hothers (q : Port) (hq : q ≠ p) : jobAt (withJob p job s) q = jobAt s q :=
    (jobAt_withJob q).trans (if_neg hq)
  obtain rfl | rfl := h
  · exact ⟨by rw [withJob_frame], fun _ => rfl, hothers⟩
  · refine ⟨by rw [stopJob_eq, withJob_frame], fun c => by rw [stopJob_eq]; rfl, fun q hq => ?_⟩
    exact ((jobStopped_stopJob p .aborted _).1 q hq).trans (hothers q hq)

/-! ### The handling -/

theorem exec_copy_of_taken (h : Taken s p (some .copy)) :
    exec (.copy p) s = .next (endHandling (.port p) (copyFrom p (updPort p takeCommand s))) :=
  (portHandling_next p _ s _ _).2 (.inl ⟨h, rfl⟩)

theorem exec_copy_of_ready (h : Ready s p .copy) (hchecks : copyChecks p s = .ok job) :
    exec (.copy p) s = .next (endHandling (.port p) (acceptCopy p job (updPort p takeCommand s))) := by
  have hadm : admitted (updPort p takeCommand s) p = true :=
    (admitted_iff _ _).2 (.inl ((attached_take s p p).trans h.2))
  rw [exec_copy_of_taken h.1, copyFrom, if_pos hadm, copyChecks_take, hchecks]

/-- The refusal of a COPY, and what it leaves (R73). -/
theorem refuseCopy_effect (r : Result) :
    endHandling (.port p) (refuseCopy p r (updPort p takeCommand s)) =
        { s with ports := (endHandling (.port p) (refuseCopy p r (updPort p takeCommand s))).ports
                 tcLast := .port p
                 tcGrant := (endHandling (.port p) (refuseCopy p r (updPort p takeCommand s))).tcGrant } ∧
      SameBytes s (endHandling (.port p) (refuseCopy p r (updPort p takeCommand s))) ∧
      portAt (endHandling (.port p) (refuseCopy p r (updPort p takeCommand s))) p =
        withoutCancel (answered (portAt s p) r []) ∧
      OtherPorts p s (endHandling (.port p) (refuseCopy p r (updPort p takeCommand s))) := by
  have hrefuse : refuseCopy p r (updPort p takeCommand s) =
      updPort p (fun hp => withoutCancel (answered hp r [])) s := by
    rw [refuseCopy, complete_take_eq]
    exact updPort_updPort p _ _ s
  rw [hrefuse]
  refine ⟨?_, fun x => by rw [endHandling_mem]; rfl, ?_, fun q hq => ?_⟩
  · rw [endHandling_eq]; rfl
  · rw [portAt_endHandling, portAt_updPort, if_pos rfl]
  · rw [portAt_endHandling, portAt_updPort, if_neg hq]

/-- A handling that runs on (R74; log 27). -/
theorem portHandling_runsOn {k : Option Command} {f : State → State} (h : RunsOn s p k slot) :
    portHandling p k s f = .next (endHandling (.port p) (runOn p slot f s)) := by
  obtain ⟨hgrant, hunder, hcode, -⟩ := h
  have htaken : slotTaken s p = some slot := by simp [slotTaken, hunder]
  exact (portHandling_next p k s f _).2 (.inr (.inl ⟨slot, htaken, hgrant, hcode, rfl⟩))

/-- The state that a handling which runs on reads: the slot that was taken stands at its port. -/
def rereading (p : Port) (slot : CmdSlot) (s : State) : State :=
  updPort p (fun hp => { hp with cmd := slot }) s

theorem portAt_rereading (q : Port) : portAt (rereading p slot s) q =
    if q = p then { portAt s p with cmd := slot } else portAt s q :=
  portAt_updPort _ _ _ _

theorem admitted_rereading {k : Option Command} (h : RunsOn s p k slot) :
    admitted (rereading p slot s) p = true := by
  have htaken : slotTaken (rereading p slot s) p = some slot := by
    simp [slotTaken, rereading, updPort, h.2.1]
  exact (admitted_iff _ _).2 (.inr ⟨slot, htaken⟩)

theorem portAt_beforeStart (q : Port) : portAt (beforeStart s p slot) q =
    if q = p then { portAt s p with state := .attached, cmd := { slot with state := .pending } }
    else portAt s q :=
  portAt_updPort _ _ _ _

theorem param_rereading (k : Nat) :
    param (rereading p slot s) p k = param (beforeStart s p slot) p k := by
  simp only [param, portAt_rereading, portAt_beforeStart, if_pos]

theorem paramNum_rereading (k : Nat) :
    paramNum (rereading p slot s) p k = paramNum (beforeStart s p slot) p k := by
  simp only [paramNum, portAt_rereading, portAt_beforeStart, if_pos]

theorem checkHandle_rereading (k : Nat) :
    checkHandle (rereading p slot s) p k = checkHandle (beforeStart s p slot) p k := by
  simp only [checkHandle, param_rereading, paramNum_rereading]
  rfl

theorem copyChecks_rereading :
    copyChecks p (rereading p slot s) = copyChecks p (beforeStart s p slot) :=
  copyChecks_congr (checkHandle_rereading 0) (checkHandle_rereading 4) param_rereading fun _ => rfl

theorem exec_copy_of_runsOn (h : RunsOn s p (some .copy) slot)
    (hchecks : copyChecks p (beforeStart s p slot) = .ok job) :
    exec (.copy p) s = .next (endHandling (.port p) (updPort p (fun hp => { hp with cmd := (portAt s p).cmd })
      { stopJob p .aborted (withJob p job (rereading p slot s)) with underway := none })) := by
  have hteardown : (portAt (rereading p slot s) p).state = .teardown := by
    obtain ⟨-, -, -, -, -, hstate, -⟩ := h
    rw [portAt_rereading, if_pos rfl]
    exact hstate
  have hfrom : copyFrom p (rereading p slot s) = stopJob p .aborted (withJob p job (rereading p slot s)) := by
    rw [copyFrom, if_pos (admitted_rereading h), copyChecks_rereading, hchecks]
    exact acceptCopy_teardown hteardown
  refine (portHandling_runsOn (f := copyFrom p) h).trans ?_
  rw [← hfrom]
  rfl

end

/-- Settles O35. -/
theorem copyRule : Obligations.CopyRule := by
  unfold Obligations.CopyRule
  refine ⟨fun s p src dst ls ld i j n h hsrc hdst hi hj hn hlow hhigh hread hwrite hsrcEnd hdstEnd happart
    hcancel => ?accepted, fun s p r h hchecks => ?refused, fun s p slot j ls ld h hchecks hsrc hdst => ?runsOn⟩
  case accepted =>
    obtain ⟨-, hsrcLive, -⟩ := checkHandle_ok hsrc
    obtain ⟨-, hdstLive, -⟩ := checkHandle_ok hdst
    have hchecks := copyChecks_accepts hsrc hdst hi hj hn hlow hhigh hread hwrite hsrcEnd hdstEnd happart
    have hexec := exec_copy_of_ready h hchecks
    generalize hjob : (⟨⟨src, genAt s src⟩, i, ⟨dst, genAt s dst⟩, j, n, 0, .running⟩ : Job) = job at hexec
    have hsrcBuf : job.src = ⟨src, genAt s src⟩ := by rw [← hjob]
    have hdstBuf : job.dst = ⟨dst, genAt s dst⟩ := by rw [← hjob]
    have hnew : job.state = .running ∧ job.done = 0 := by rw [← hjob]; exact ⟨rfl, rfl⟩
    have hstate : (portAt (updPort p takeCommand s) p).state ≠ .teardown := by
      have hatt : (portAt s p).state = .attached := by simpa [attached] using h.2
      rw [portAt_take_self]
      simp [takeCommand, hatt]
    have hrecs := recAt_withJob (p := p) (s := updPort p takeCommand s) (job := job) (ls := ls) (ld := ld)
      (by rw [hsrcBuf]; exact hsrcLive) (by rw [hdstBuf]; exact hdstLive)
    have hholds := holdsRevocation_withJob (p := p) (s := updPort p takeCommand s) (job := job) (ls := ls)
      (ld := ld) (by rw [hsrcBuf]; exact hsrcLive) (by rw [hdstBuf]; exact hdstLive)
    obtain ⟨hjobSrc, hjobDst⟩ : job.src.buf = src ∧ job.dst.buf = dst := by
      rw [hsrcBuf, hdstBuf]; exact ⟨rfl, rfl⟩
    rw [hjobSrc, hjobDst] at hrecs
    rw [acceptCopy_attached hstate (by rw [portAt_take_self]; exact hcancel), hholds] at hexec
    generalize hu : (if (ls.pendingRev.isSome || ld.pendingRev.isSome) = true then
      stopJob p .aborted (withJob p job (updPort p takeCommand s))
      else withJob p job (updPort p takeCommand s)) = u at hexec
    obtain ⟨hframe, hrec, hjobs⟩ := acceptedCopy_frame (p := p) (job := job)
      (s := updPort p takeCommand s) (u := u) (by rw [← hu]; split <;> simp)
    have hports (q : Port) : portAt u q = portAt (updPort p takeCommand s) q := by rw [hframe]; rfl
    refine ⟨_, hexec, ?frame, ?bytes, ?srcRec, ?dstRec, fun c hcs hcd => ?otherRec, ?port,
      fun q hq => ?otherPort, fun q hq => ?otherJob, fun hls hld => ?going, fun hrev hpage => ?stopped⟩
    case frame => rw [endHandling_eq, hframe]; rfl
    case bytes => intro x; rw [endHandling_mem, hframe]; rfl
    case srcRec => rw [recAt_endHandling, hrec, hrecs, if_pos rfl]; rfl
    case dstRec =>
      rw [recAt_endHandling, hrec, hrecs]
      split
      · next hsame =>
        subst hsame
        obtain rfl : ls = ld := Option.some.inj (hsrcLive.symm.trans hdstLive)
        rfl
      · rw [if_pos rfl]; rfl
    case otherRec => rw [recAt_endHandling, hrec, hrecs, if_neg hcs, if_neg hcd]; rfl
    case port => rw [portAt_endHandling, hports, portAt_take_self]; rfl
    case otherPort => rw [portAt_endHandling, hports, portAt_take_other s hq]
    case otherJob => rw [endHandling_eq]; exact hjobs q hq
    case going =>
      rw [endHandling_eq, ← hu, hls, hld]
      exact ⟨(jobAt_withJob p).trans (if_pos rfl), by
        change (withJob p job (updPort p takeCommand s)).reports = _
        rw [withJob_frame]; rfl⟩
    case stopped =>
      have hsome : (ls.pendingRev.isSome || ld.pendingRev.isSome) = true := by
        simpa [Option.isSome_iff_ne_none] using hrev
      obtain ⟨-, hended, -⟩ := stopJob_withJob (p := p) (s := updPort p takeCommand s) hnew.1 hnew.2
      rw [hsrcBuf, hdstBuf] at hended
      rw [endHandling_eq, ← hu, if_pos hsome]
      exact hended hpage
  case refused =>
    have hadm : admitted (updPort p takeCommand s) p = true :=
      (admitted_iff _ _).2 (.inl ((attached_take s p p).trans h.2))
    have hexec : exec (.copy p) s =
        .next (endHandling (.port p) (refuseCopy p r (updPort p takeCommand s))) := by
      rw [exec_copy_of_taken h.1, copyFrom, if_pos hadm, copyChecks_take, hchecks]
    exact ⟨_, hexec, refuseCopy_effect r⟩
  case runsOn =>
    have hexec := exec_copy_of_runsOn h hchecks
    obtain ⟨hdone, hrun⟩ := copyChecks_new hchecks
    have hrecs := recAt_withJob (p := p) (s := rereading p slot s) (job := j) hsrc hdst
    obtain ⟨hjobs, hended, hstopped⟩ := stopJob_withJob (p := p) (s := rereading p slot s) hrun hdone
    obtain ⟨hframe, hrec, -⟩ := acceptedCopy_frame (p := p) (job := j) (s := rereading p slot s) (.inr rfl)
    have hports (q : Port) : portAt (stopJob p .aborted (withJob p j (rereading p slot s))) q =
        portAt (rereading p slot s) q := by rw [hframe]; rfl
    refine ⟨_, hexec, ?frame, ?bytes, fun q => ?port, ?srcRec, ?dstRec, fun c hcs hcd => ?otherRec,
      fun q hq => ?otherJob, fun hpage => ?ended, fun hpage => ?stopping⟩
    case frame => rw [endHandling_eq, hframe]; rfl
    case bytes => intro x; rw [endHandling_mem, hframe]; rfl
    case port =>
      rw [portAt_endHandling, portAt_updPort]
      by_cases hq : q = p
      · rw [if_pos hq]
        change { portAt (stopJob p .aborted (withJob p j (rereading p slot s))) p with
          cmd := (portAt s p).cmd } = _
        rw [hports, portAt_rereading, if_pos rfl, hq]
      · rw [if_neg hq]
        exact (hports q).trans ((portAt_rereading q).trans (if_neg hq))
    case srcRec => rw [recAt_endHandling]; exact (hrec _).trans ((hrecs _).trans (if_pos rfl))
    case dstRec =>
      rw [recAt_endHandling]
      refine (hrec _).trans ((hrecs _).trans ?_)
      split
      · next hsame =>
        rw [hsame] at hdst ⊢
        obtain rfl : ls = ld := Option.some.inj (hsrc.symm.trans hdst)
        rfl
      · rw [if_pos rfl]; rfl
    case otherRec =>
      rw [recAt_endHandling]
      exact (hrec c).trans ((hrecs c).trans ((if_neg hcs).trans (if_neg hcd)))
    case otherJob => rw [endHandling_eq]; exact hjobs q hq
    case ended => rw [endHandling_eq]; exact hended hpage
    case stopping => rw [endHandling_eq]; exact hstopped hpage

end Sys2Proof.Proofs

/-! Handlings that run on (R74, R143; log 27): a command's checks and effects do not see its own port's
teardown start, apart from the port itself. -/

namespace Sys2Proof.Proofs

open Sys2Proof Sys2Proof.Machine Sys2Proof.Safety

/-- A state with another Host Port at a port, and another handling in progress. -/
def withPort (p : Port) (hp : HostPort) (w : Option Underway) (y : State) : State :=
  { y with ports := perSet y.ports p hp, underway := w }

/-- Two answers of a command's checks that agree on everything but a port, the handling in progress and
the result area. -/
def Alike (p : Port) (hp : HostPort) (w : Option Underway) : Answer → Answer → Prop
  | .error r, .error r' => r' = r
  | .ok (u, _), .ok (v, _) => v = withPort p hp w u
  | _, _ => False

/-- A port as a teardown start leaves it, which still holds the parameters of the command taken. -/
def RunsWith (p : Port) (hp : HostPort) (y : State) : Prop :=
  hp.state ≠ .attached ∧ Bare hp ∧ hp.cmd.postedParams = (portAt y p).cmd.postedParams

theorem eq_portByte_of_portOf {v : Byte} {q : Port} (h : portOf v = some q) : v = portByte q := by
  refine BitVec.eq_of_toNat_eq ?_
  unfold portOf portOfNum at h
  split at h <;> cases h <;> assumption

section
variable {y u : State} {p q : Port} {hp : HostPort} {w : Option Underway} {b : BufNo} {l : Live}
  {id : OfferId} {o : Offer}

/-! ### What a port's replacement leaves -/

theorem portAt_withPort (q : Port) :
    portAt (withPort p hp w y) q = if q = p then hp else portAt y q :=
  perGet_perSet _ _ _ _

theorem attached_withPort (hq : q ≠ p) : attached (withPort p hp w y) q = attached y q := by
  rw [attached, attached, portAt_withPort, if_neg hq]

theorem queueAdmits_withPort (hq : q ≠ p) : queueAdmits (withPort p hp w y) q = queueAdmits y q := by
  rw [queueAdmits, queueAdmits, portAt_withPort, if_neg hq]

theorem overPages_withPort (n : Nat) : overPages (withPort p hp w y) p n = overPages y p n := rfl

theorem overQuota_withPort (n : Nat) : overQuota (withPort p hp w y) p n = overQuota y p n := rfl

theorem lowestVacant_withPort : lowestVacant (withPort p hp w y) = lowestVacant y := rfl

theorem lowestFreeOffer_withPort : lowestFreeOffer (withPort p hp w y) = lowestFreeOffer y := rfl

theorem freeList_withPort : (withPort p hp w y).freeList = y.freeList := rfl

theorem dir_withPort : (withPort p hp w y).dir = y.dir := rfl

theorem liveAt_withPort (b : BufNo) : liveAt (withPort p hp w y) b = liveAt y b := rfl

theorem offerAt_withPort (id : OfferId) : offerAt (withPort p hp w y) id = offerAt y id := rfl

theorem updPort_withPort {f : HostPort → HostPort} (hf : f hp = hp) :
    updPort q f (withPort p hp w y) = withPort p hp w (updPort q f y) := by
  have hports : perSet (perSet y.ports p hp) q (f (perGet (perSet y.ports p hp) q)) =
      perSet (perSet y.ports q (f (perGet y.ports q))) p hp := by
    cases p <;> cases q <;> simp [perSet, perGet, hf]
  exact congrArg (fun x => { y with ports := x, underway := w }) hports

theorem updPorts_withPort {f : Port → HostPort → HostPort} (hf : f p hp = hp) :
    updPorts f (withPort p hp w y) = withPort p hp w (updPorts f y) := by
  have hports : perOf (fun q => f q (perGet (perSet y.ports p hp) q)) =
      perSet (perOf fun q => f q (perGet y.ports q)) p hp := by
    cases p <;> simp [perSet, perGet, perOf, hf]
  exact congrArg (fun x => { y with ports := x, underway := w }) hports

section
variable (h : RunsWith p hp y)
include h

theorem param_withPort (i : Nat) : param (withPort p hp w y) p i = param y p i := by
  rw [param, param, portAt_withPort, if_pos rfl, h.2.2]

theorem paramNum_withPort (i : Nat) : paramNum (withPort p hp w y) p i = paramNum y p i := by
  rw [paramNum, paramNum, portAt_withPort, if_pos rfl, h.2.2]

theorem checkHandle_withPort (i : Nat) :
    checkHandle (withPort p hp w y) p i = checkHandle y p i := by
  simp only [checkHandle, param_withPort h, paramNum_withPort h]
  rfl

theorem matchOffer_withPort (b : BufNo) :
    matchOffer p b (withPort p hp w y) = matchOffer p b y := by
  simp only [matchOffer, param_withPort h]
  rfl
end

theorem alike_ok {v : State} {area area' : List Byte} (h : withPort p hp w u = v) :
    Alike p hp w (.ok (u, area)) (.ok (v, area')) := h.symm

theorem alike_ite {c : Prop} [Decidable c] {x x' z z' : Answer} (hx : c → Alike p hp w x x')
    (hz : ¬c → Alike p hp w z z') : Alike p hp w (if c then x else z) (if c then x' else z') := by
  split
  · next hc => exact hx hc
  · next hc => exact hz hc

/-! ### What the requests of a handling do at such a port -/

section
variable (hstate : hp.state ≠ .attached) (hbare : Bare hp)

include hstate in
theorem notify_withPort (q : Port) (n : Notice) :
    notify q n (withPort p hp w y) = withPort p hp w (notify q n y) :=
  updPort_withPort (if_neg hstate)

include hbare in
theorem onSlots_of_bare {f : WindowSlot → WindowSlot} (hf : f .empty = .empty) : onSlots f hp = hp := by
  rcases hp with ⟨st, cause, w0, w1, saved⟩
  obtain ⟨rfl, rfl, rfl, -⟩ := hbare
  simp only [onSlots, hf]

include hbare in
theorem voidAt_withPort (q : Port) (h : Handle) :
    voidAt q h (withPort p hp w y) = withPort p hp w (voidAt q h y) :=
  updPort_withPort (onSlots_of_bare hbare rfl)

include hstate hbare in
theorem notify_voidAt_withPort (q r : Port) (h : Handle) (n : Notice) :
    notify q n (voidAt r h (withPort p hp w y)) = withPort p hp w (notify q n (voidAt r h y)) := by
  rw [voidAt_withPort hbare, notify_withPort hstate]

include hbare in
theorem returnToOwner_withPort (q : Port) :
    returnToOwner b l q (withPort p hp w y) = withPort p hp w (returnToOwner b l q y) :=
  voidAt_withPort (y := setLive b { l with st := .held noPorts } y) hbare q (handleAt y b)

include hbare in
theorem leaveShare_withPort (q : Port) :
    leaveShare b l q (withPort p hp w y) = withPort p hp w (leaveShare b l q y) :=
  voidAt_withPort (y := setLive b { l with st := .held (perSet (shareOf l) q false) } y) hbare q
    (handleAt y b)

theorem endOffer_withPort : endOffer id o (withPort p hp w y) = withPort p hp w (endOffer id o y) := by
  have hlive : liveAt (setOffer id none (withPort p hp w y)) o.handle.buf =
      liveAt (setOffer id none y) o.handle.buf := rfl
  unfold endOffer
  simp only [hlive]
  split
  · rfl
  · split <;> rfl

include hstate hbare in
theorem retire_withPort (cause : Cause) (caller : Option Port) :
    retire b l cause caller (withPort p hp w y) = withPort p hp w (retire b l cause caller y) := by
  have hrevoke : revokeAll l (handleAt y b) cause caller (withPort p hp w y) =
      withPort p hp w (revokeAll l (handleAt y b) cause caller y) := by
    refine updPorts_withPort ?_
    dsimp only
    rw [onSlots_of_bare hbare rfl]
    split
    · exact if_neg hstate
    · rfl
  simp only [retire]
  rw [show handleAt (withPort p hp w y) b = handleAt y b from rfl, hrevoke]
  rfl

include hstate hbare in
theorem trimPort_of_bare (caller : Port) (h : Handle) (n : Nat) (q : Port) :
    trimPort caller h n q hp = hp := by
  rw [trimPort, onSlots_of_bare hbare rfl]
  split
  · exact if_neg hstate
  · rfl
end

/-! ### The commands -/

section
variable (h : RunsWith p hp y)
include h

theorem alike_clearFault : Alike p hp w (clearFaultAnswer p y) (clearFaultAnswer p (withPort p hp w y)) := by
  obtain ⟨-, ⟨-, -, -, -, -, hfault⟩, -⟩ := h
  refine updPort_withPort ?_
  rw [← hfault]

theorem alike_clearLost : Alike p hp w (clearLostAnswer p y) (clearLostAnswer p (withPort p hp w y)) := by
  obtain ⟨-, ⟨-, -, -, -, hlost, -⟩, -⟩ := h
  refine updPort_withPort ?_
  rw [← hlost]

theorem alike_alloc : Alike p hp w (allocAnswer p y) (allocAnswer p (withPort p hp w y)) := by
  simp only [allocAnswer, param_withPort h, overQuota_withPort, lowestVacant_withPort, freeList_withPort]
  refine alike_ite (fun _ => rfl) fun _ => alike_ite (fun _ => rfl) fun _ => ?_
  cases lowestVacant y with
  | none => rfl
  | some b =>
    refine alike_ite (fun _ => rfl) fun _ => ?_
    split <;> rfl

theorem alike_extend : Alike p hp w (extendAnswer p y) (extendAnswer p (withPort p hp w y)) := by
  simp only [extendAnswer, param_withPort h, checkHandle_withPort h, overPages_withPort, freeList_withPort]
  cases checkHandle y p 0 with
  | error r => rfl
  | ok x =>
    refine alike_ite (fun _ => rfl) fun _ => alike_ite (fun _ => rfl) fun _ =>
      alike_ite (fun _ => rfl) fun _ => alike_ite (fun _ => rfl) fun _ => alike_ite (fun _ => rfl) fun _ =>
      alike_ite (fun _ => rfl) fun _ => ?_
    split
    · exact alike_ok (updPorts_withPort (onSlots_of_bare h.2.1 rfl)).symm
    · rfl

theorem alike_trim : Alike p hp w (trimAnswer p y) (trimAnswer p (withPort p hp w y)) := by
  simp only [trimAnswer, param_withPort h, checkHandle_withPort h]
  cases checkHandle y p 0 with
  | error r => rfl
  | ok x =>
    exact alike_ite (fun _ => rfl) fun _ => alike_ite (fun _ => rfl) fun _ =>
      alike_ite (fun _ => rfl) fun _ => alike_ite (fun _ => rfl) fun _ => alike_ite (fun _ => rfl) fun _ =>
      alike_ok (updPorts_withPort (trimPort_of_bare h.1 h.2.1 _ _ _ _)).symm

theorem alike_free : Alike p hp w (freeAnswer p y) (freeAnswer p (withPort p hp w y)) := by
  simp only [freeAnswer, checkHandle_withPort h]
  cases checkHandle y p 0 with
  | error r => rfl
  | ok x =>
    exact alike_ite (fun _ => rfl) fun _ => alike_ite (fun _ => rfl) fun _ =>
      alike_ite (fun _ => rfl) fun _ => alike_ok (retire_withPort h.1 h.2.1 _ _).symm

theorem alike_info : Alike p hp w (infoAnswer p y) (infoAnswer p (withPort p hp w y)) := by
  simp only [infoAnswer, checkHandle_withPort h]
  cases checkHandle y p 0 <;> rfl

theorem alike_map : Alike p hp w (mapAnswer p y) (mapAnswer p (withPort p hp w y)) := by
  simp only [mapAnswer, param_withPort h, checkHandle_withPort h]
  cases checkHandle y p 0 with
  | error r => rfl
  | ok x =>
    cases windowOf (param y p 3) with
    | none => rfl
    | some win =>
      cases mapModeOf (param y p 4) with
      | none => rfl
      | some mode =>
        exact alike_ite (fun _ => rfl) fun _ => alike_ite (fun _ => rfl) fun _ =>
          alike_ok (updPort_withPort (f := takeInstall win _) (if_neg h.1)).symm

/-! ### The share set -/

theorem alike_share : Alike p hp w (shareAnswer p y) (shareAnswer p (withPort p hp w y)) := by
  simp only [shareAnswer, param_withPort h, checkHandle_withPort h]
  cases checkHandle y p 0 with
  | error r => rfl
  | ok x =>
    refine alike_ite (fun _ => rfl) fun _ => alike_ite (fun _ => rfl) fun _ => ?_
    cases portOf (param y p 3) with
    | none => rfl
    | some q =>
      refine alike_ite (fun _ => rfl) fun hq => ?_
      rw [attached_withPort hq, queueAdmits_withPort hq]
      exact alike_ite (fun _ => rfl) fun _ => alike_ite (fun _ => rfl) fun _ =>
        alike_ite (fun _ => rfl) fun _ => alike_ok (notify_withPort h.1 _ _).symm

theorem alike_unshare : Alike p hp w (unshareAnswer p y) (unshareAnswer p (withPort p hp w y)) := by
  simp only [unshareAnswer, param_withPort h, checkHandle_withPort h]
  cases checkHandle y p 0 with
  | error r => rfl
  | ok x =>
    refine alike_ite (fun _ => rfl) fun _ => ?_
    cases portOf (param y p 3) with
    | none => rfl
    | some q =>
      refine alike_ite (fun _ => rfl) fun _ => alike_ite (fun _ => rfl) fun _ =>
        alike_ite (fun _ => rfl) fun _ => alike_ok ?_
      rw [leaveShare_withPort h.2.1]
      exact (notify_withPort h.1 _ _).symm

theorem alike_leave : Alike p hp w (leaveAnswer p y) (leaveAnswer p (withPort p hp w y)) := by
  simp only [leaveAnswer, checkHandle_withPort h]
  cases checkHandle y p 0 with
  | error r => rfl
  | ok x =>
    refine alike_ite (fun _ => rfl) fun _ => alike_ite (fun _ => rfl) fun _ => alike_ok ?_
    rw [leaveShare_withPort h.2.1]
    exact (notify_withPort h.1 _ _).symm

/-! ### The Directory -/

theorem alike_publish : Alike p hp w (publishAnswer p y) (publishAnswer p (withPort p hp w y)) := by
  simp only [publishAnswer, param_withPort h, paramNum_withPort h, checkHandle_withPort h, dir_withPort]
  cases checkHandle y p 0 with
  | error r => rfl
  | ok x =>
    refine alike_ite (fun _ => rfl) fun _ => ?_
    cases dirModeOf (param y p 5) with
    | none => rfl
    | some mode =>
      exact alike_ite (fun _ => rfl) fun _ => alike_ite (fun _ => rfl) fun _ =>
        alike_ite (fun _ => rfl) fun _ => alike_ite (fun _ => rfl) fun _ => rfl

theorem alike_unpublish : Alike p hp w (unpublishAnswer p y) (unpublishAnswer p (withPort p hp w y)) := by
  simp only [unpublishAnswer, paramNum_withPort h, dir_withPort]
  refine alike_ite (fun _ => rfl) fun _ => ?_
  cases dirFind y.dir (paramNum y p 0) with
  | none => rfl
  | some e => exact alike_ite (fun _ => rfl) fun _ => rfl

theorem alike_lookup : Alike p hp w (lookupAnswer p y) (lookupAnswer p (withPort p hp w y)) := by
  simp only [lookupAnswer, paramNum_withPort h, dir_withPort]
  refine alike_ite (fun _ => rfl) fun _ => ?_
  cases dirFind y.dir (paramNum y p 0) <;> rfl

theorem alike_next : Alike p hp w (nextAnswer p y) (nextAnswer p (withPort p hp w y)) := by
  simp only [nextAnswer, paramNum_withPort h, dir_withPort]
  cases dirNext y.dir (paramNum y p 0) <;> rfl

/-- The entry a SUBSCRIBE finds names a buffer that its publisher owns (R111), another port than the
caller. -/
theorem alike_subscribe (hdir : ∀ e ∈ y.dir, ∀ l, liveAt y e.handle.buf = some l → l.owner = e.publisher) :
    Alike p hp w (subscribeAnswer p y) (subscribeAnswer p (withPort p hp w y)) := by
  simp only [subscribeAnswer, paramNum_withPort h, dir_withPort, liveAt_withPort]
  refine alike_ite (fun _ => rfl) fun _ => ?_
  cases hfind : dirFind y.dir (paramNum y p 0) with
  | none => rfl
  | some e =>
    dsimp only
    cases hlive : liveAt y e.handle.buf with
    | none => rfl
    | some l =>
      refine alike_ite (fun _ => rfl) fun howner => ?_
      have hpub : e.publisher ≠ p := hdir e (List.mem_of_find?_eq_some hfind) l hlive ▸ howner
      rw [attached_withPort hpub, queueAdmits_withPort howner]
      exact alike_ite (fun _ => rfl) fun _ => alike_ite (fun _ => rfl) fun _ =>
        alike_ite (fun _ => rfl) fun _ => alike_ite (fun _ => rfl) fun _ => alike_ite (fun _ => rfl) fun _ =>
        alike_ok (notify_withPort h.1 _ _).symm

/-! ### Offers, lending and recall -/

theorem alike_offer (kind : OfferKind) :
    Alike p hp w (offerAnswer kind p y) (offerAnswer kind p (withPort p hp w y)) := by
  simp only [offerAnswer, param_withPort h, checkHandle_withPort h, lowestFreeOffer_withPort]
  cases checkHandle y p 0 with
  | error r => rfl
  | ok x =>
    refine alike_ite (fun _ => rfl) fun _ => alike_ite (fun _ => rfl) fun _ =>
      alike_ite (fun _ => rfl) fun _ => alike_ite (fun _ => rfl) fun hself => ?_
    cases hq : portOf (param y p 3) with
    | none => rfl
    | some q =>
      have hne : q ≠ p := by
        rintro rfl
        exact hself (eq_portByte_of_portOf hq)
      dsimp only
      rw [attached_withPort hne, queueAdmits_withPort hne]
      refine alike_ite (fun _ => rfl) fun _ => alike_ite (fun _ => rfl) fun _ => ?_
      cases lowestFreeOffer y with
      | none => rfl
      | some id => exact alike_ite (fun _ => rfl) fun _ => alike_ok (notify_withPort h.1 _ _).symm

/-- The offer that an ACCEPT matches names another port as its offeror (R120). -/
theorem alike_accept (hoffers : ∀ id o, offerAt y id = some o → o.src ≠ o.dst) :
    Alike p hp w (acceptAnswer p y) (acceptAnswer p (withPort p hp w y)) := by
  simp only [acceptAnswer, checkHandle_withPort h, matchOffer_withPort h, overQuota_withPort]
  cases checkHandle y p 0 with
  | error r => rfl
  | ok x =>
    dsimp only
    cases hmatch : matchOffer p x.1 y with
    | error r => rfl
    | ok m =>
      obtain ⟨-, hoffer, -, hdst⟩ := matchOffer_ok hmatch
      have hsrc : m.2.src ≠ p := hdst ▸ hoffers _ _ hoffer
      dsimp only
      rw [attached_withPort hsrc]
      refine alike_ite (fun _ => rfl) fun _ => alike_ite (fun _ => rfl) fun _ => ?_
      cases m.2.kind with
      | lend =>
        exact alike_ok (u := (acceptLend p m.1 x.1 x.2 y).1) (notify_voidAt_withPort h.1 h.2.1 _ _ _ _).symm
      | give =>
        exact alike_ite (fun _ => rfl) fun _ => alike_ok (u := (acceptGive p m.1 x.1 x.2 y).1)
          (notify_voidAt_withPort h.1 h.2.1 _ _ _ _).symm

theorem alike_decline : Alike p hp w (declineAnswer p y) (declineAnswer p (withPort p hp w y)) := by
  simp only [declineAnswer, checkHandle_withPort h, matchOffer_withPort h]
  cases checkHandle y p 0 with
  | error r => rfl
  | ok x =>
    dsimp only
    cases matchOffer p x.1 y with
    | error r => rfl
    | ok m =>
      refine alike_ok ?_
      rw [endOffer_withPort]
      exact (notify_withPort h.1 _ _).symm

theorem alike_withdraw : Alike p hp w (withdrawAnswer p y) (withdrawAnswer p (withPort p hp w y)) := by
  simp only [withdrawAnswer, checkHandle_withPort h, offerAt_withPort]
  cases checkHandle y p 0 with
  | error r => rfl
  | ok x =>
    refine alike_ite (fun _ => rfl) fun _ => ?_
    cases offerRefOf x.2 with
    | none => rfl
    | some id =>
      dsimp only
      cases offerAt y id with
      | none => rfl
      | some o =>
        refine alike_ok ?_
        rw [endOffer_withPort]
        exact (notify_withPort h.1 _ _).symm

theorem alike_recall : Alike p hp w (recallAnswer p y) (recallAnswer p (withPort p hp w y)) := by
  simp only [recallAnswer, checkHandle_withPort h, paramNum_withPort h]
  cases checkHandle y p 0 with
  | error r => rfl
  | ok x =>
    refine alike_ite (fun _ => rfl) fun _ => ?_
    split
    · exact alike_ok (notify_withPort h.1 _ _).symm
    · rfl

theorem alike_return : Alike p hp w (returnAnswer p y) (returnAnswer p (withPort p hp w y)) := by
  simp only [returnAnswer, checkHandle_withPort h]
  cases checkHandle y p 0 with
  | error r => rfl
  | ok x =>
    refine alike_ite (fun _ => rfl) fun _ => alike_ite (fun _ => rfl) fun _ =>
      alike_ite (fun _ => rfl) fun _ => alike_ok ?_
    rw [returnToOwner_withPort h.2.1]
    exact (notify_withPort h.1 _ _).symm

end
end

/-! ### The end of a handling that runs on -/

section
variable {s u : State} {p q : Port} {c : Command} {k : Option Command} {slot : CmdSlot} {r : Result}
  {body : State → Answer}

theorem takeCompletion_idle {hp : HostPort} (h : hp.cmd.state = .idle) (r : Result) (area : List Byte) :
    takeCompletion r area hp = hp := by
  rw [takeCompletion, if_neg (by simp [h])]

theorem rereading_eq (s : State) (p : Port) (slot : CmdSlot) : rereading p slot s =
    withPort p { portAt s p with cmd := slot } s.underway
      (updPort p takeCommand (beforeStart s p slot)) := by
  simp only [rereading, withPort, beforeStart, updPort, perSet_perSet]

theorem runsWith_of_runsOn (h : RunsOn s p k slot) : RunsWith p { portAt s p with cmd := slot }
    (updPort p takeCommand (beforeStart s p slot)) := by
  obtain ⟨-, -, -, -, -, hstate, hbare⟩ := h
  refine ⟨by simp [hstate], hbare, ?_⟩
  rw [portAt_take_self, portAt_beforeStart, if_pos rfl]
  rfl

theorem ready_beforeStart (h : RunsOn s p (some c) slot) : Ready (beforeStart s p slot) p c := by
  obtain ⟨hgrant, -, hcode, -⟩ := h
  obtain ⟨hrst, htc, -, hhold⟩ := granted_iff.1 hgrant
  have hport : portAt (beforeStart s p slot) p =
      { portAt s p with state := .attached, cmd := { slot with state := .pending } } := by
    rw [portAt_beforeStart, if_pos rfl]
  refine ⟨⟨granted_iff.2 ⟨hrst, htc, ?_, hhold⟩, ?_, rfl⟩, ?_⟩
  · simp [presents, hport]
  · rw [postedCommand, hport]
    exact hcode
  · simp [attached, hport]

/-- The state a handling leaves that runs on, over the one it would have left (R74, R143). -/
theorem runOn_eq_withPort {f : State → State} {y : State}
    (hf : f (rereading p slot s) = withPort p { portAt s p with cmd := slot } s.underway y) :
    runOn p slot f s = withPort p (portAt s p) none y := by
  have hrun : runOn p slot f s = updPort p (fun hp => { hp with cmd := (portAt s p).cmd })
      { f (rereading p slot s) with underway := none } := rfl
  rw [hrun, hf]
  simp only [withPort, updPort, portAt, perGet_perSet, if_pos, perSet_perSet]

theorem completeAnswer_alike {hp : HostPort} {w : Option Underway} {y : State} (hidle : hp.cmd.state = .idle)
    (h : Alike p hp w (body y) (body (withPort p hp w y))) :
    completeAnswer p (withPort p hp w y) (body (withPort p hp w y)) =
      withPort p hp w (completeAnswer p y (body y)) := by
  have hcomplete (r : Result) (area area' : List Byte) (v : State) :
      complete p r area (withPort p hp w v) = withPort p hp w (complete p r area' v) := by
    have hnone : complete p r area (withPort p hp w v) = withPort p hp w v := by
      rw [complete, updPort, portAt_withPort, if_pos rfl, takeCompletion_idle hidle]
      simp only [withPort, perSet_perSet]
    rw [hnone]
    simp only [withPort, complete, updPort, perSet_perSet]
  cases hy : body y with
  | error r =>
    cases hx : body (withPort p hp w y) with
    | error r' =>
      rw [hx, hy] at h
      obtain rfl : r' = r := h
      exact hcomplete r' [] [] y
    | ok x => rw [hx, hy] at h; exact h.elim
  | ok x =>
    cases hx : body (withPort p hp w y) with
    | error r' => rw [hx, hy] at h; exact h.elim
    | ok x' =>
      rw [hx, hy] at h
      have hv : x'.1 = withPort p hp w x.1 := h
      change complete p .ok x'.2 x'.1 = withPort p hp w (complete p .ok x.2 x.1)
      rw [hv]
      exact hcomplete .ok x'.2 x.2 x.1

/-- A command that its port's teardown start overtook leaves what it would have left, but for the port
(R74, R143). -/
theorem runsOn_effect (h : RunsOn s p (some c) slot)
    (hexec : portHandling p (some c) (beforeStart s p slot) (fromAttached p body) = .next u)
    (halike : Alike p { portAt s p with cmd := slot } s.underway
      (body (updPort p takeCommand (beforeStart s p slot)))
      (body (withPort p { portAt s p with cmd := slot } s.underway
        (updPort p takeCommand (beforeStart s p slot)))))
    (hacts : ∀ t area, body (updPort p takeCommand (beforeStart s p slot)) = .ok (t, area) →
      Acts (updPort p takeCommand (beforeStart s p slot)) False
        (updPort p takeCommand (beforeStart s p slot)) t) :
    ∃ t, portHandling p (some c) s (fromAttached p body) = .next t ∧
      t = { u with ports := t.ports, tcGrant := t.tcGrant } ∧ SameBytes u t ∧
      portAt t p = portAt s p ∧ OtherPorts p u t := by
  have hidle : slot.state = .idle := h.2.2.2.1
  generalize hy : completeAnswer p (updPort p takeCommand (beforeStart s p slot))
    (body (updPort p takeCommand (beforeStart s p slot))) = y
  have hu : u = endHandling (.port p) y := by
    rw [portHandling_fromAttached_of_ready (ready_beforeStart h), hy] at hexec
    exact (Host.Outcome.next.inj hexec).symm
  have hunder : y.underway = none := by
    rw [← hy, underway_of_acts (Acts.completeAnswer hacts)]
    rfl
  have hrun : runOn p slot (fromAttached p body) s = withPort p (portAt s p) none y := by
    refine runOn_eq_withPort ?_
    rw [fromAttached, if_pos (admitted_rereading h), rereading_eq, completeAnswer_alike hidle halike, hy]
  refine ⟨_, (portHandling_runsOn h).trans (by rw [hrun]), ?_, fun x => ?_, ?_, fun q hq => ?_⟩
  · have hframe := endHandling_eq (.port p) y
    rw [← hu] at hframe
    rw [endHandling_eq, hframe]
    simp only [withPort, hunder]
  · rw [hu, endHandling_mem, endHandling_mem]; rfl
  · rw [portAt_endHandling, portAt_withPort, if_pos rfl]
  · rw [hu, portAt_endHandling, portAt_endHandling, portAt_withPort, if_neg hq]

/-- A handling that runs on and only completes changes nothing (R70, R74). -/
theorem runsOn_completes {f : State → State} (h : RunsOn s p k slot)
    (hf : f (rereading p slot s) = complete p r [] (rereading p slot s)) :
    ∃ t, portHandling p k s f = .next t ∧
      t = { s with ports := t.ports, underway := none, tcLast := .port p, tcGrant := t.tcGrant } ∧
      SameBytes s t ∧ ∀ q, portAt t q = portAt s q := by
  have hidle : slot.state = .idle := h.2.2.2.1
  have hrun : runOn p slot f s = withPort p (portAt s p) none s := by
    refine runOn_eq_withPort (hf.trans ?_)
    have hself : portAt (rereading p slot s) p = { portAt s p with cmd := slot } := by
      rw [portAt_rereading, if_pos rfl]
    rw [complete, updPort, hself, takeCompletion_idle (hp := { portAt s p with cmd := slot }) hidle]
    simp only [rereading, updPort, withPort, perSet_perSet]
  refine ⟨_, (portHandling_runsOn h).trans (by rw [hrun]), ?_, fun x => ?_, fun q => ?_⟩
  · rw [endHandling_eq]; rfl
  · rw [endHandling_mem]; rfl
  · rw [portAt_endHandling, portAt_withPort]
    split
    · next hq => rw [hq]
    · rfl

/-! ### Commands from a port that is not ATTACHED -/

theorem not_admitted_of_taken (h : Taken s p k) (hatt : attached s p = false) :
    admitted (updPort p takeCommand s) p = false := by
  rw [admitted_take, admitted, hatt, h.2.2]
  rfl

/-- A handling that is taken and completes at once. -/
theorem taken_completes {f : State → State} (h : Taken s p k)
    (hf : f (updPort p takeCommand s) = complete p r [] (updPort p takeCommand s)) :
    ∃ t, portHandling p k s f = .next t ∧
      t = { s with ports := t.ports, tcLast := .port p, tcGrant := t.tcGrant } ∧ SameBytes s t ∧
      portAt t p = answered (portAt s p) r [] ∧ OtherPorts p s t := by
  have hframe := directoryReply_frame p r [] s.dir s
  rw [directoryReply_dir] at hframe
  refine ⟨directoryReply p r [] s.dir s, (portHandling_next p k s f _).2 (.inl ⟨h, ?_⟩), hframe,
    sameBytes_directoryReply p r [] s.dir s, portAt_directoryReply_self p r [] s.dir s,
    otherPorts_directoryReply p r [] s.dir s⟩
  rw [hf]
  rfl

theorem taken_detached (h : Taken s p (some c)) (hatt : attached s p = false) :
    ∃ t, portHandling p (some c) s (fromAttached p body) = .next t ∧
      t = { s with ports := t.ports, tcLast := .port p, tcGrant := t.tcGrant } ∧ SameBytes s t ∧
      portAt t p = answered (portAt s p) .detached [] ∧ OtherPorts p s t :=
  taken_completes h (by rw [fromAttached, not_admitted_of_taken h hatt]; rfl)
end

/-- Settles O16. -/
theorem unknownCodesAndDetachedPorts : Obligations.UnknownCodesAndDetachedPorts := by
  unfold Obligations.UnknownCodesAndDetachedPorts
  refine ⟨fun s p h => taken_completes h rfl, fun s p i c hi h hatt => ?detached, fun s p h hatt => ?copy,
    fun s u p i c slot hi h hdir hoffers hexec => ?runsOn, fun s p i c slot hi h => ?completes⟩
  case detached =>
    simp only [List.mem_cons, Prod.mk.injEq, List.not_mem_nil, or_false] at hi
    obtain ⟨rfl, rfl⟩ | hi := hi
    · exact taken_completes h (by rw [detachFrom, attached_take, hatt]; rfl)
    · rcases hi with ⟨rfl, rfl⟩ | ⟨rfl, rfl⟩ | ⟨rfl, rfl⟩ | ⟨rfl, rfl⟩ | ⟨rfl, rfl⟩ | ⟨rfl, rfl⟩ | ⟨rfl, rfl⟩ |
        ⟨rfl, rfl⟩ | ⟨rfl, rfl⟩ | ⟨rfl, rfl⟩ | ⟨rfl, rfl⟩ | ⟨rfl, rfl⟩ | ⟨rfl, rfl⟩ | ⟨rfl, rfl⟩ | ⟨rfl, rfl⟩ |
        ⟨rfl, rfl⟩ | ⟨rfl, rfl⟩ | ⟨rfl, rfl⟩ | ⟨rfl, rfl⟩ | ⟨rfl, rfl⟩ | ⟨rfl, rfl⟩ | ⟨rfl, rfl⟩ | ⟨rfl, rfl⟩
      all_goals exact taken_detached h hatt
  case copy =>
    have hadm := not_admitted_of_taken h hatt
    have hexec : exec (.copy p) s =
        .next (endHandling (.port p) (refuseCopy p .detached (updPort p takeCommand s))) := by
      rw [exec_copy_of_taken h, copyFrom, if_neg (by simp [hadm])]
    exact ⟨_, hexec, refuseCopy_effect .detached⟩
  case runsOn =>
    have hwith := runsWith_of_runsOn h
    have hadm : admitted (updPort p takeCommand (beforeStart s p slot)) p = true := by
      rw [admitted_take]
      exact (admitted_iff _ _).2 (.inl (ready_beforeStart h).2)
    simp only [List.mem_cons, Prod.mk.injEq, List.not_mem_nil, or_false] at hi
    rcases hi with ⟨rfl, rfl⟩ | ⟨rfl, rfl⟩ | ⟨rfl, rfl⟩ | ⟨rfl, rfl⟩ | ⟨rfl, rfl⟩ | ⟨rfl, rfl⟩ | ⟨rfl, rfl⟩ |
      ⟨rfl, rfl⟩ | ⟨rfl, rfl⟩ | ⟨rfl, rfl⟩ | ⟨rfl, rfl⟩ | ⟨rfl, rfl⟩ | ⟨rfl, rfl⟩ | ⟨rfl, rfl⟩ | ⟨rfl, rfl⟩ |
      ⟨rfl, rfl⟩ | ⟨rfl, rfl⟩ | ⟨rfl, rfl⟩ | ⟨rfl, rfl⟩ | ⟨rfl, rfl⟩ | ⟨rfl, rfl⟩ | ⟨rfl, rfl⟩ | ⟨rfl, rfl⟩
    · exact runsOn_effect h hexec (alike_clearFault hwith) fun _ _ => acts_clearFaultAnswer
    · exact runsOn_effect h hexec (alike_clearLost hwith) fun _ _ => acts_clearLostAnswer
    · exact runsOn_effect h hexec (alike_alloc hwith) fun _ _ => acts_allocAnswer
    · exact runsOn_effect h hexec (alike_extend hwith) fun _ _ => acts_extendAnswer
    · exact runsOn_effect h hexec (alike_trim hwith) fun _ _ => acts_trimAnswer
    · exact runsOn_effect h hexec (alike_free hwith) fun _ _ => acts_freeAnswer
    · exact runsOn_effect h hexec (alike_info hwith) fun _ _ => acts_infoAnswer
    · exact runsOn_effect h hexec (alike_map hwith) fun _ _ => acts_mapAnswer
    · exact runsOn_effect h hexec (alike_share hwith) fun _ _ => acts_shareAnswer
    · exact runsOn_effect h hexec (alike_unshare hwith) fun _ _ => acts_unshareAnswer
    · exact runsOn_effect h hexec (alike_leave hwith) fun _ _ => acts_leaveAnswer
    · exact runsOn_effect h hexec (alike_publish hwith) fun _ _ => acts_publishAnswer
    · exact runsOn_effect h hexec (alike_unpublish hwith) fun _ _ => acts_unpublishAnswer
    · exact runsOn_effect h hexec (alike_lookup hwith) fun _ _ => acts_lookupAnswer
    · exact runsOn_effect h hexec (alike_next hwith) fun _ _ => acts_nextAnswer
    · refine runsOn_effect h hexec (alike_subscribe hwith fun e he l hl => ?_) fun _ _ => acts_subscribeAnswer
      obtain ⟨-, -, hentries⟩ := hdir
      obtain ⟨-, -, l', hl', -, howner⟩ := hentries e he
      exact Option.some.inj (hl'.symm.trans hl) ▸ howner
    · exact runsOn_effect h hexec (alike_offer hwith .lend) fun _ _ => acts_offerAnswer hadm
    · exact runsOn_effect h hexec (alike_offer hwith .give) fun _ _ => acts_offerAnswer hadm
    · exact runsOn_effect h hexec (alike_accept hwith hoffers) fun _ _ => acts_acceptAnswer id
    · exact runsOn_effect h hexec (alike_decline hwith) fun _ _ => acts_declineAnswer
    · exact runsOn_effect h hexec (alike_withdraw hwith) fun _ _ => acts_withdrawAnswer
    · exact runsOn_effect h hexec (alike_recall hwith) fun _ _ => acts_recallAnswer
    · exact runsOn_effect h hexec (alike_return hwith) fun _ _ => acts_returnAnswer
  case completes =>
    simp only [List.mem_cons, Prod.mk.injEq, List.not_mem_nil, or_false] at hi
    have hstate : (portAt (rereading p slot s) p).state = .teardown := by
      obtain ⟨-, -, -, -, -, hstate, -⟩ := h
      rw [portAt_rereading, if_pos rfl]
      exact hstate
    obtain ⟨rfl, rfl⟩ | ⟨rfl, rfl⟩ | ⟨rfl, rfl⟩ := hi
    · exact runsOn_completes h rfl
    · refine runsOn_completes (f := fun s => completeAnswer p s (attachAnswer p s)) (r := .detached) h ?_
      simp [attachAnswer, hstate, completeAnswer]
    · refine runsOn_completes (f := detachFrom p) (r := .detached) h ?_
      simp [detachFrom, attached, hstate]

end Sys2Proof.Proofs

/-! Stops that reach several jobs (R25, R165). -/

namespace Sys2Proof.Proofs

open Sys2Proof Sys2Proof.Machine Sys2Proof.Safety

section
variable {s t u : State} {p q : Port} {P Q : Port → Prop}

theorem stopped_congr (hjob : jobAt t q = jobAt s q) (hpage : t.page = s.page) : stopped t q = stopped s q := by
  simp only [stopped, hjob, hpage]

/-- A stop reaches a job once: what it leaves, a further stop leaves (R165). -/
theorem stopped_again (hjob : jobAt t q = (stopped s q).1) : stopped t q = ((stopped s q).1, []) := by
  have hfixed : ∀ j, (stopped s q).1 = some j → ∃ c, j.state = .stopping c := by
    unfold stopped
    cases jobAt s q with
    | none => simp
    | some j =>
      cases hstate : j.state with
      | stopping c =>
        simp only [hstate]
        rintro _ ⟨rfl⟩
        exact ⟨c, hstate⟩
      | running =>
        simp only [hstate]
        split
        · rintro _ ⟨rfl⟩; exact ⟨_, rfl⟩
        · simp
  cases hleft : (stopped s q).1 with
  | none =>
    rw [hleft] at hjob
    simp [stopped, hjob]
  | some j =>
    rw [hleft] at hjob
    obtain ⟨c, hc⟩ := hfixed j hleft
    simp [stopped, hjob, hc]

/-- Every report that a stop of a port makes is the port's. -/
theorem stopped_reports (s : State) (p q : Port) :
    (stopped s p).2.filter (fun r => r.port = q) = if q = p then (stopped s p).2 else [] := by
  unfold stopped
  cases jobAt s p with
  | none => simp
  | some j =>
    cases hstate : j.state with
    | stopping c => simp [hstate]
    | running =>
      by_cases hq : q = p
      · simp only [hstate, if_pos hq]; split <;> simp [hq]
      · simp only [hstate, if_neg hq]; split <;> simp [Ne.symm hq]

theorem jobsStopped_one (p : Port) (s : State) :
    JobsStopped (fun q => q = p) s (stopJob p .aborted s) := by
  obtain ⟨hothers, hstop⟩ := jobStopped_stopJob p .aborted s
  have hleft : jobAt (stopJob p .aborted s) p = (stopped s p).1 ∧
      (stopJob p .aborted s).reports = s.reports ++ (stopped s p).2 := by
    unfold stopped
    cases hjob : jobAt s p with
    | none => simpa [hjob] using hstop
    | some j =>
      cases hstate : j.state with
      | stopping c => simpa [hjob, hstate] using hstop
      | running => cases hpage : copyPageOf s.page p <;> simpa [hjob, hstate, hpage, endCauseOf] using hstop
  refine ⟨(stopped s p).2, hleft.2, fun q => ⟨?_, fun hq => ⟨hothers q hq, ?_⟩⟩⟩
  · rintro rfl
    exact ⟨hleft.1, by rw [stopped_reports, if_pos rfl]⟩
  · rw [stopped_reports, if_neg hq]

theorem jobsStopped_of_eq (hjobs : t.jobs = s.jobs) (hreports : t.reports = s.reports) (hP : ∀ q, ¬P q) :
    JobsStopped P s t :=
  ⟨[], by rw [hreports, List.append_nil],
    fun q => ⟨fun h => absurd h (hP q), fun _ => ⟨by rw [jobAt, hjobs]; rfl, rfl⟩⟩⟩

theorem jobsStopped_trans (h : JobsStopped P s t) (k : JobsStopped Q t u) (hpage : t.page = s.page) :
    JobsStopped (fun q => P q ∨ Q q) s u := by
  obtain ⟨new, hnew, hjobs⟩ := h
  obtain ⟨new', hnew', hjobs'⟩ := k
  refine ⟨new ++ new', by rw [hnew', hnew, List.append_assoc], fun q => ?_⟩
  rw [List.filter_append]
  obtain ⟨hin, hout⟩ := hjobs q
  obtain ⟨hin', hout'⟩ := hjobs' q
  by_cases hP : P q
  · refine ⟨fun _ => ?_, fun hno => absurd (.inl hP) hno⟩
    obtain ⟨hjob, hrep⟩ := hin hP
    by_cases hQ : Q q
    · obtain ⟨hjob', hrep'⟩ := hin' hQ
      rw [hjob', hrep', hrep, stopped_again hjob, List.append_nil]
      exact ⟨rfl, rfl⟩
    · obtain ⟨hjob', hrep'⟩ := hout' hQ
      rw [hjob', hrep', hrep, hjob, List.append_nil]
      exact ⟨rfl, rfl⟩
  · obtain ⟨hjob, hrep⟩ := hout hP
    by_cases hQ : Q q
    · refine ⟨fun _ => ?_, fun hno => absurd (.inr hQ) hno⟩
      obtain ⟨hjob', hrep'⟩ := hin' hQ
      rw [hjob', hrep', hrep, stopped_congr hjob hpage, List.nil_append]
      exact ⟨rfl, rfl⟩
    · refine ⟨fun h => absurd h (not_or.2 ⟨hP, hQ⟩), fun _ => ?_⟩
      obtain ⟨hjob', hrep'⟩ := hout' hQ
      rw [hjob', hrep', hrep, hjob]
      exact ⟨rfl, rfl⟩

theorem jobsStopped_congr (h : JobsStopped P s t) (hPQ : ∀ q, P q ↔ Q q) : JobsStopped Q s t := by
  obtain rfl : P = Q := funext fun q => propext (hPQ q)
  exact h

/-- Stops of the ports of a list (R25). -/
theorem jobsStopped_stopJobs (ps : List Port) (s : State) :
    JobsStopped (fun q => q ∈ ps) s (stopJobs ps s) := by
  induction ps generalizing s with
  | nil => exact jobsStopped_of_eq rfl rfl fun _ => List.not_mem_nil
  | cons p ps ih =>
    refine jobsStopped_congr (jobsStopped_trans (jobsStopped_one p s) (ih (stopJob p .aborted s)) (by rw [stopJob_eq])) fun q => ?_
    exact List.mem_cons.symm

theorem jobsStopped_marks (m : PortSet) (s : State) :
    JobsStopped (fun q => perGet m q = true) s (stopJobs (portsIn m) s) :=
  jobsStopped_congr (jobsStopped_stopJobs (portsIn m) s) fun q => mem_portsIn m q

end

end Sys2Proof.Proofs

/-! The obligation on the teardown walk (section 10.4). -/

namespace Sys2Proof.Proofs

open Sys2Proof Sys2Proof.Machine Sys2Proof.Safety

section
variable {s t u : State} {p q : Port} {rest : List Port} {b : BufNo} {l : Live} {id : OfferId} {o : Offer}
  {r : Requester} {n : Notice} {P : Port → Prop} {c : StopCause}

/-! ### What the end of a handling keeps -/

theorem jobStopped_endHandling (h : JobStopped p c s u) : JobStopped p c s (endHandling r u) := by
  rw [endHandling_eq]; exact h

theorem jobsStopped_endHandling (h : JobsStopped P s u) : JobsStopped P s (endHandling r u) := by
  rw [endHandling_eq]; exact h

theorem portAt_endHandling_notify_self :
    portAt (endHandling r (notify q n u)) q = notified (portAt u q) n := by
  rw [portAt_endHandling, portAt_notify, if_pos rfl]; rfl

theorem portAt_endHandling_notify_other (hpq : p ≠ q) :
    portAt (endHandling r (notify q n u)) p = portAt u p := by
  rw [portAt_endHandling, portAt_notify, if_neg hpq]

/-! ### The step that the active walk makes -/

/-- The walk at a record: phase BUFFERS, with the record's number as its position (R181). -/
def walkAt (b : BufNo) (s : State) : State := { s with walkPhase := .buffers, walkPos := b.val }

theorem exec_walkStep (hgrant : granted s .teardown = true) (h : stepWalk s = u) :
    exec .walkStep s = .next (endHandling .teardown u) := by
  subst h
  exact (handling_next .teardown s stepWalk _).2 (.inl ⟨hgrant, rfl⟩)

theorem stepWalk_offer (hlist : s.walkList = p :: rest) (hphase : s.walkPhase = .offers)
    (hnext : nextRelatedOffer s p s.walkPos = some (id, o)) :
    stepWalk s = settleOffer p id o { s with walkPos := id.val } := by
  simp [stepWalk, hlist, hphase, hnext]

theorem stepWalk_buffer (hlist : s.walkList = p :: rest)
    (hnext : (s.walkPhase = .offers ∧ nextRelatedOffer s p s.walkPos = none ∧
        nextRelatedBuffer s p 0 = some (b, l)) ∨
      (s.walkPhase = .buffers ∧ nextRelatedBuffer s p s.walkPos = some (b, l))) :
    stepWalk s = settleBuffer p b l (walkAt b s) := by
  obtain ⟨hphase, hoffer, hbuf⟩ | ⟨hphase, hbuf⟩ := hnext
  · simp [stepWalk, hlist, hphase, hoffer, walkBuffers, hbuf, walkAt]
  · simp [stepWalk, hlist, hphase, walkBuffers, hbuf, walkAt]

theorem stepWalk_end (hlist : s.walkList = p :: rest)
    (hnext : (s.walkPhase = .offers ∧ nextRelatedOffer s p s.walkPos = none ∧
        nextRelatedBuffer s p 0 = none) ∨
      (s.walkPhase = .buffers ∧ nextRelatedBuffer s p s.walkPos = none)) :
    stepWalk s = Machine.endWalk p s := by
  obtain ⟨hphase, hoffer, hbuf⟩ | ⟨hphase, hbuf⟩ := hnext
  · simp [stepWalk, hlist, hphase, hoffer, walkBuffers, hbuf]
  · simp [stepWalk, hlist, hphase, walkBuffers, hbuf]

/-- The walk waits at a record with a pending revocation (R186). -/
theorem not_grantable_of_pendingRev (hphase : t.walkPhase = .buffers) (hpos : t.walkPos = b.val)
    (hlive : liveAt t b = some l) (hrev : l.pendingRev ≠ none) : grantable t .teardown = false := by
  have hwaits : walkWaits t = true := by
    simp [walkWaits, hphase, hpos, bufNoOf_eq_some.2 (rfl : b.val = b.val), hlive,
      Option.isSome_iff_ne_none.2 hrev]
  simp [grantable, presents, hwaits]

/-! ### What a step does at a record -/

theorem revokedAtRetirement_peerLost :
    revokedAtRetirement l .peerLost none q = true ↔ access l q ≠ .none := by
  simp [revokedAtRetirement]

theorem borrowerOf_of_shared (h : perGet (shareOf l) p = true) : borrowerOf l = none := by
  unfold shareOf at h
  unfold borrowerOf
  cases hst : l.st <;> simp [hst, noPorts] at h ⊢

theorem settleBuffer_owned (howner : l.owner = p) : settleBuffer p b l s = settleOwned p b l s :=
  if_pos howner

theorem settleBuffer_borrowed (howner : l.owner ≠ p) (hborrower : borrowerOf l = some p) :
    settleBuffer p b l s = settleBorrowed p b l s := by
  rw [settleBuffer, if_neg howner, if_pos hborrower]

theorem settleBuffer_shared (howner : l.owner ≠ p) (hshare : perGet (shareOf l) p = true) :
    settleBuffer p b l s = settleShared p b l s := by
  rw [settleBuffer, if_neg howner, if_neg (by simp [borrowerOf_of_shared hshare])]

/-- At an owned record with marks the owner's teardown takes the place of every revocation that does
not retire the record (R183). -/
theorem settleOwned_marked (howner : l.owner = p) (hmarks : isEmptySet l.marks = false)
    (hforce : ∀ q, l.pendingRev ≠ some ⟨.forceFree, q⟩) :
    settleOwned p b l s =
      stopJobs (portsIn l.marks) (setLive b { l with pendingRev := some ⟨.teardown, p⟩ } s) := by
  cases hrev : l.pendingRev with
  | none => simp [settleOwned, hmarks, hrev, awaitRetirement]
  | some old =>
    obtain ⟨kind, q⟩ := old
    cases kind with
    | forceFree => exact absurd hrev (hforce q)
    | expiry => simp [settleOwned, hmarks, hrev, awaitRetirement, retires]
    | teardown =>
      by_cases hq : q = p <;> simp [settleOwned, hmarks, hrev, awaitRetirement, retires, howner, hq]

/-- A waiting revocation that no teardown replaces is left as it is (R183 to R186). -/
theorem settleBuffer_waiting
    (h : (l.owner = p ∧ isEmptySet l.marks = false ∧ ∃ q, l.pendingRev = some ⟨.forceFree, q⟩) ∨
      (l.owner ≠ p ∧ l.pendingRev ≠ none)) : settleBuffer p b l s = s := by
  obtain ⟨howner, hmarks, q, hrev⟩ | ⟨howner, hrev⟩ := h
  · rw [settleBuffer_owned howner, settleOwned, if_neg (by simp [hmarks]), hrev]
  · have hsome := Option.isSome_iff_ne_none.2 hrev
    rw [settleBuffer, if_neg howner, settleBorrowed, settleShared, if_pos hsome, if_pos hsome, ite_self]

/-- A step that leaves a revocation waiting at a record and asks jobs to stop (R183 to R185). -/
theorem walk_held {l' : Live} (hgrant : granted s .teardown = true) (hstep : stepWalk s = u)
    (hu : u = { setLive b l' (walkAt b s) with jobs := u.jobs, reports := u.reports })
    (hrev : l'.pendingRev ≠ none) :
    exec .walkStep s = .next (endHandling .teardown u) ∧
      endHandling .teardown u =
        { s with buffers := (endHandling .teardown u).buffers
                 jobs := (endHandling .teardown u).jobs
                 reports := (endHandling .teardown u).reports
                 walkPhase := .buffers
                 walkPos := b.val
                 tcLast := .teardown
                 tcGrant := (endHandling .teardown u).tcGrant } ∧
      SameBytes s (endHandling .teardown u) ∧ RecordBecomes b l' s (endHandling .teardown u) ∧
      grantable (endHandling .teardown u) .teardown = false := by
  have hrecord : RecordBecomes b l' s (endHandling .teardown u) :=
    recordBecomes_setLive (u := s) (fun c => by rw [recAt_endHandling, hu]; rfl) fun _ => rfl
  refine ⟨exec_walkStep hgrant hstep, by rw [endHandling_eq, hu]; rfl,
    fun x => by rw [endHandling_mem, hu]; rfl, hrecord, ?_⟩
  exact not_grantable_of_pendingRev (by rw [endHandling_eq, hu]; rfl) (by rw [endHandling_eq, hu]; rfl)
    (congrArg BufRec.live hrecord.1) hrev

end

/-- Settles O39. -/
theorem walkStepRule : Obligations.WalkStepRule := by
  unfold Obligations.WalkStepRule
  refine ⟨fun s p rest id o b l hgrant hlist hphase hnext hbuf hlive hst hne => ?offer,
    fun s p rest b l hgrant hlist hnext hlive => ?record, fun s p rest hgrant hlist hnext => ?ended⟩
  case offer =>
    subst hbuf
    have hstep := stepWalk_offer hlist hphase hnext
    rw [settleOffer, endOffer_of_offered (s := { s with walkPos := id.val }) hlive hst] at hstep
    have hrecord {q : Port} {n : Notice} : RecordBecomes o.handle.buf { l with st := .held noPorts } s
        (endHandling .teardown (notify q n (setLive o.handle.buf { l with st := .held noPorts }
          (setOffer id none { s with walkPos := id.val })))) :=
      recordBecomes_setLive (u := s) (fun c => recAt_endHandling _ _ c) fun _ => rfl
    have hfree (j : OfferId) {q : Port} {n : Notice} :
        offerAt (endHandling .teardown (notify q n (setLive o.handle.buf { l with st := .held noPorts }
          (setOffer id none { s with walkPos := id.val })))) j = if j = id then none else offerAt s j :=
      (offerAt_endHandling _ _ j).trans (offerAt_setOffer _ id j none)
    by_cases hsrc : o.src = p
    · rw [if_pos hsrc] at hstep
      refine ⟨_, exec_walkStep hgrant hstep, by rw [endHandling_eq]; rfl,
        fun x => by rw [endHandling_mem]; rfl, hrecord, (hfree id).trans (if_pos rfl),
        fun j hj => (hfree j).trans (if_neg hj), fun _ => ?_, fun h => absurd hsrc h⟩
      exact ⟨portAt_endHandling_notify_self, fun q hq => portAt_endHandling_notify_other hq⟩
    · rw [if_neg hsrc] at hstep
      refine ⟨_, exec_walkStep hgrant hstep, by rw [endHandling_eq]; rfl,
        fun x => by rw [endHandling_mem]; rfl, hrecord, (hfree id).trans (if_pos rfl),
        fun j hj => (hfree j).trans (if_neg hj), fun h => absurd h hsrc, fun _ => ?_⟩
      exact ⟨portAt_endHandling_notify_self, fun q hq => portAt_endHandling_notify_other hq⟩
  case record =>
    have hstep := stepWalk_buffer hlist hnext
    refine ⟨fun howner hmarks => ?retired, fun howner hborrower hrev hmark => ?returned,
      fun howner hshare hrev hmark => ?left, fun howner hmarks hforce => ?held,
      fun howner hborrower hrev hmark => ?heldBorrowed, fun howner hshare hrev hmark => ?heldShared,
      fun h => ?waiting⟩
    case retired =>
      rw [settleBuffer_owned howner, settleOwned, if_pos hmarks] at hstep
      have hexec := exec_walkStep hgrant hstep
      refine ⟨_, hexec, by rw [endHandling_eq]; rfl, fun x => by rw [endHandling_mem]; rfl, ?_, ?_,
        fun q => ?_, fun q => ?_⟩
      · obtain ⟨hself, hothers⟩ := recordRetired_retire b l .peerLost none (walkAt b s)
        exact ⟨by rw [recAt_endHandling]; exact hself,
          fun c hc => by rw [recAt_endHandling]; exact hothers c hc⟩
      · rw [endHandling_eq]; exact pagesScrubbed_retire b l .peerLost none (walkAt b s)
      · rw [endHandling_eq]
        refine (countsAt_retire b l .peerLost none (walkAt b s) q).trans ?_
        rw [howner]
        split
        · next hq => subst hq; rfl
        · rfl
      · rw [portAt_endHandling, portAt_retire]
        by_cases haccess : access l q = .none
        · rw [if_neg (by simp [revokedAtRetirement_peerLost, haccess]), if_pos haccess]; rfl
        · rw [if_pos (revokedAtRetirement_peerLost.2 haccess), if_neg haccess]; rfl
    case returned =>
      rw [settleBuffer_borrowed howner hborrower, settleBorrowed, if_neg (by simp [hrev]),
        if_neg (by simp [hmark])] at hstep
      refine ⟨_, exec_walkStep hgrant hstep, by rw [endHandling_eq]; rfl,
        fun x => by rw [endHandling_mem]; rfl,
        recordBecomes_setLive (u := s) (fun c => recAt_endHandling _ _ c) fun _ => rfl, ?_, ?_,
        fun x hx hxo => ?_⟩
      · rw [portAt_endHandling_notify_other howner.symm, portAt_returnToOwner, if_pos rfl]; rfl
      · rw [portAt_endHandling_notify_self, portAt_returnToOwner, if_neg howner]; rfl
      · rw [portAt_endHandling_notify_other hxo, portAt_returnToOwner, if_neg hx]; rfl
    case left =>
      rw [settleBuffer_shared howner hshare, settleShared, if_neg (by simp [hrev]),
        if_neg (by simp [hmark])] at hstep
      refine ⟨_, exec_walkStep hgrant hstep, by rw [endHandling_eq]; rfl,
        fun x => by rw [endHandling_mem]; rfl,
        recordBecomes_setLive (u := s) (fun c => recAt_endHandling _ _ c) fun _ => rfl, ?_, ?_,
        fun x hx hxo => ?_⟩
      · rw [portAt_endHandling_notify_other howner.symm, portAt_leaveShare, if_pos rfl]; rfl
      · rw [portAt_endHandling_notify_self, portAt_leaveShare, if_neg howner]; rfl
      · rw [portAt_endHandling_notify_other hxo, portAt_leaveShare, if_neg hx]; rfl
    case held =>
      rw [settleBuffer_owned howner, settleOwned_marked howner hmarks hforce] at hstep
      obtain ⟨hexec, hframe, hbytes, hrecord, hwaits⟩ := walk_held hgrant hstep (stopJobs_eq _ _) (by simp)
      exact ⟨_, hexec, hframe, hbytes, hrecord, jobsStopped_endHandling (jobsStopped_marks l.marks _), hwaits⟩
    case heldBorrowed =>
      rw [settleBuffer_borrowed howner hborrower, settleBorrowed, if_neg (by simp [hrev]),
        if_pos hmark] at hstep
      obtain ⟨hexec, hframe, hbytes, hrecord, hwaits⟩ := walk_held hgrant hstep (stopJob_eq _ _ _) (by simp)
      exact ⟨_, hexec, hframe, hbytes, hrecord, jobStopped_endHandling (jobStopped_stopJob p .aborted _), hwaits⟩
    case heldShared =>
      rw [settleBuffer_shared howner hshare, settleShared, if_neg (by simp [hrev]), if_pos hmark] at hstep
      obtain ⟨hexec, hframe, hbytes, hrecord, hwaits⟩ := walk_held hgrant hstep (stopJob_eq _ _ _) (by simp)
      exact ⟨_, hexec, hframe, hbytes, hrecord, jobStopped_endHandling (jobStopped_stopJob p .aborted _), hwaits⟩
    case waiting =>
      rw [settleBuffer_waiting h] at hstep
      have hrev : l.pendingRev ≠ none := by
        obtain ⟨-, -, q, hrev⟩ | ⟨-, hrev⟩ := h
        · simp [hrev]
        · exact hrev
      exact ⟨_, exec_walkStep hgrant hstep, by rw [endHandling_eq]; rfl,
        fun x => by rw [endHandling_mem]; rfl, not_grantable_of_pendingRev (by rw [endHandling_eq]; rfl)
          (by rw [endHandling_eq]; rfl)
          ((congrArg BufRec.live (recAt_endHandling .teardown (walkAt b s) b)).trans hlive) hrev⟩
  case ended =>
    have hexec := exec_walkStep hgrant (stepWalk_end hlist hnext)
    refine ⟨_, hexec, by rw [endHandling_eq, Machine.endWalk, hlist]; rfl,
      fun x => by rw [endHandling_mem]; rfl, ?_, fun q hq => ?_⟩
    · rw [portAt_endHandling, Machine.endWalk, portAt_updPort, if_pos rfl]; rfl
    · rw [portAt_endHandling, Machine.endWalk, portAt_updPort, if_neg hq]; rfl

end Sys2Proof.Proofs

/-! The obligation on tick handlings (section 7.5). The two passes visit what the tables list; a visit
of an unlisted entry or record would do nothing. -/

namespace Sys2Proof.Proofs

open Sys2Proof Sys2Proof.Machine Sys2Proof.Safety

section
variable {s t u : State} {p q : Port} {b c : BufNo} {l : Live} {id : OfferId} {o : Offer} {n k : Nat}
  {ids : List OfferId} {bufs : List BufNo} {r : BufRec}

theorem portAt_notify_iff {m : Notice} : portAt (notify p m s) q =
    if p = q then notified (portAt s q) m else portAt s q := by
  rw [portAt_notify]
  by_cases hpq : p = q
  · subst hpq; simp only [if_true]; rfl
  · rw [if_neg hpq, if_neg (Ne.symm hpq)]

/-! ### Visits in ascending order -/

/-- Visits of every number, those outside an ascending list doing nothing. -/
theorem foldl_finRange {α : Type} {f : α → Fin n → α} {is : List (Fin n)} (hsorted : is.Pairwise (· < ·))
    (hout : ∀ i, i ∉ is → ∀ x, f x i = x) (x : α) : (List.finRange n).foldl f x = is.foldl f x := by
  have hfilter : (List.finRange n).filter (· ∈ is) = is :=
    List.Pairwise.eq_of_mem_iff ((List.pairwise_lt_finRange n).filter _) hsorted fun i => by simp
  have hskip : (fun x i => if i ∈ is then f x i else x) = f := by
    funext x i
    split
    · rfl
    · next hi => exact (hout i hi x).symm
  rw [← hfilter, List.foldl_filter]
  simpa using (congrArg (fun g => (List.finRange n).foldl g x) hskip).symm

theorem pairwise_offersInUse (hlaw : TableLaw s) : (offersInUse s).Pairwise (· < ·) := by
  obtain ⟨-, -, hwf⟩ := hlaw
  simp only [tabWf, Bool.and_eq_true, decide_eq_true_eq] at hwf
  refine hwf.1.filterMap _ fun x y hxy i hi j hj => ?_
  rw [Fin.lt_def, ← offerNoOf_eq_some.1 hi, ← offerNoOf_eq_some.1 hj]
  exact hxy

theorem pairwise_recordsListed (hlaw : TableLaw s) : (recordsListed s).Pairwise (· < ·) := by
  obtain ⟨hwf, -⟩ := hlaw
  simp only [tabWf, Bool.and_eq_true, decide_eq_true_eq] at hwf
  refine hwf.1.filterMap _ fun x y hxy i hi j hj => ?_
  rw [Fin.lt_def, ← bufNoOf_eq_some.1 hi, ← bufNoOf_eq_some.1 hj]
  exact hxy

theorem offerAt_of_not_mem (h : id ∉ offersInUse s) : offerAt s id = none := by
  by_contra hne
  exact h (List.mem_filterMap.2 ⟨_, mem_of_tabGet hne, offerNoOf_eq_some.2 rfl⟩)

theorem recAt_of_not_mem (h : b ∉ recordsListed s) : recAt s b = vacantRec := by
  by_contra hne
  exact h (List.mem_filterMap.2 ⟨_, mem_of_tabGet hne, bufNoOf_eq_some.2 rfl⟩)

theorem nodup_of_ascending {is : List (Fin n)} (h : is.Pairwise (· < ·)) : is.Nodup :=
  h.imp fun hlt => hlt.ne

/-! ### The offer pass -/

/-- An entry after its visit in a tick handling of `k` ticks (R135). -/
def offerAfter (k : Nat) : Option Offer → Option Offer
  | none => none
  | some o => if k < o.countdown then some { o with countdown := o.countdown - k } else none

/-- A record whose offer has ended (R9): HELD by the same owner when it is OFFERED under the id. -/
def heldAgain (id : OfferId) (r : BufRec) : BufRec :=
  match r.live with
  | none => r
  | some l => if l.st = .offered id then ⟨r.gen, some { l with st := .held noPorts }⟩ else r

/-- A record after an entry's visit (R136): its offer has ended when the entry is due and names it. -/
def offerEnded (s : State) (k : Nat) (b : BufNo) (r : BufRec) (id : OfferId) : BufRec :=
  match dueOffer s k id with
  | none => r
  | some o => if b = o.handle.buf then heldAgain id r else r

/-- What the visits of some entries in a tick handling of `k` ticks leave, where the entries read as in
`s` before their visits (R135, R136). -/
structure OffersVisited (k : Nat) (ids : List OfferId) (s u t : State) : Prop where
  frame : t = { u with ports := t.ports, buffers := t.buffers, offers := t.offers }
  offers : ∀ id, offerAt t id = if id ∈ ids then offerAfter k (offerAt u id) else offerAt u id
  records : ∀ b, recAt t b = ids.foldl (offerEnded s k b) (recAt u b)
  ports : ∀ q, portAt t q = ids.foldl (offerVisit s k q) (portAt u q)

theorem heldAgain_offered (hlive : r.live = some l) (hst : l.st = .offered id) :
    heldAgain id r = ⟨r.gen, some { l with st := .held noPorts }⟩ := by
  simp [heldAgain, hlive, hst]

theorem heldAgain_other (h : ∀ l, r.live = some l → l.st ≠ .offered id) : heldAgain id r = r := by
  unfold heldAgain
  cases hlive : r.live with
  | none => rfl
  | some l => exact if_neg (h l hlive)

theorem offerEnded_other (h : ∀ l, r.live = some l → l.st ≠ .offered id) : offerEnded s k b r id = r := by
  unfold offerEnded
  cases dueOffer s k id with
  | none => rfl
  | some o => simp only [heldAgain_other h, ite_self]

theorem recAt_endOffer (b : BufNo) : recAt (endOffer id o s) b =
    if b = o.handle.buf then heldAgain id (recAt s b) else recAt s b := by
  by_cases hb : b = o.handle.buf
  · subst hb
    rw [if_pos rfl]
    cases hlive : liveAt s o.handle.buf with
    | none => rw [heldAgain_other fun l hl => by cases hlive.symm.trans hl]; simp [endOffer, hlive]
    | some l =>
      by_cases hst : l.st = .offered id
      · rw [heldAgain_offered hlive hst, endOffer_of_offered hlive hst, recAt_setLive_eq, if_pos rfl]; rfl
      · rw [heldAgain_other fun l' hl => by cases hlive.symm.trans hl; exact hst]; simp [endOffer, hlive, hst]
  · rw [if_neg hb]
    obtain h | ⟨l, -, -, h⟩ := endOffer_cases id o s
    · rw [h]; rfl
    · rw [h, recAt_setLive_eq, if_neg hb]; rfl

theorem offerAt_endOffer (j : OfferId) : offerAt (endOffer id o s) j = if j = id then none else offerAt s j := by
  obtain h | ⟨l, -, -, h⟩ := endOffer_cases id o s <;> rw [h]
  · exact offerAt_setOffer s id j none
  · exact offerAt_setOffer s id j none

theorem endOffer_frame : endOffer id o s =
    { s with buffers := (endOffer id o s).buffers, offers := (endOffer id o s).offers } := by
  obtain h | ⟨l, -, -, h⟩ := endOffer_cases id o s <;> rw [h] <;> rfl

/-- An entry's visit (R135, R136). -/
theorem offersVisited_one (hs : offerAt u id = offerAt s id) : OffersVisited k [id] s u (tickOffer k u id) := by
  have hmem (j : OfferId) : j ∈ [id] ↔ j = id := List.mem_singleton
  cases hoffer : offerAt u id with
  | none =>
    have hdue : dueOffer s k id = none := by simp [dueOffer, ← hs, hoffer]
    have hvisit : tickOffer k u id = u := by simp [tickOffer, hoffer]
    rw [hvisit]
    refine ⟨rfl, fun j => ?_, fun b => by simp [offerEnded, hdue], fun q => by simp [offerVisit, hdue]⟩
    split
    · next hj => rw [(hmem j).1 hj, hoffer]; rfl
    · rfl
  | some o =>
    by_cases hlt : k < o.countdown
    · have hdue : dueOffer s k id = none := by simp [dueOffer, ← hs, hoffer, hlt]
      have hvisit : tickOffer k u id = setOffer id (some { o with countdown := o.countdown - k }) u := by
        simp [tickOffer, hoffer, hlt]
      rw [hvisit]
      refine ⟨rfl, fun j => ?_, fun b => by simp [offerEnded, hdue], fun q => by simp [offerVisit, hdue]⟩
      rw [offerAt_setOffer]
      simp only [hmem]
      split
      · next hj => rw [hj, hoffer]; exact (if_pos hlt).symm
      · rfl
    · have hdue : dueOffer s k id = some o := by simp [dueOffer, ← hs, hoffer]; omega
      have hvisit : tickOffer k u id = expireOffer id o u := by simp [tickOffer, hoffer, hlt]
      rw [hvisit]
      refine ⟨?_, fun j => ?_, fun b => ?_, fun q => ?_⟩
      · rw [expireOffer, endOffer_frame]; rfl
      · refine (offerAt_endOffer j).trans ?_
        simp only [hmem]
        split
        · next hj => rw [hj, hoffer]; exact (if_neg hlt).symm
        · rfl
      · refine (recAt_endOffer b).trans ?_
        simp [offerEnded, hdue]
      · have hports : portAt (endOffer id o u) q = portAt u q := by rw [endOffer_frame]; rfl
        rw [expireOffer, portAt_notify_iff, portAt_notify_iff, hports]
        simp only [offerVisit, hdue, List.foldl_cons, List.foldl_nil]

theorem offersFrame_trans {v : State}
    (h : v = { u with ports := v.ports, buffers := v.buffers, offers := v.offers })
    (h' : t = { v with ports := t.ports, buffers := t.buffers, offers := t.offers }) :
    t = { u with ports := t.ports, buffers := t.buffers, offers := t.offers } := by
  rw [h', h]

theorem offersVisited_foldl (hnodup : ids.Nodup) (hs : ∀ id ∈ ids, offerAt u id = offerAt s id) :
    OffersVisited k ids s u (ids.foldl (tickOffer k) u) := by
  induction ids generalizing u with
  | nil => exact ⟨rfl, fun _ => rfl, fun _ => rfl, fun _ => rfl⟩
  | cons id ids ih =>
    obtain ⟨hid, hnodup⟩ := List.nodup_cons.1 hnodup
    have hone := offersVisited_one (k := k) (hs id List.mem_cons_self)
    have hother {j : OfferId} (hj : j ≠ id) : offerAt (tickOffer k u id) j = offerAt u j := by
      rw [hone.offers, if_neg (by simpa using hj)]
    have hrest := ih hnodup fun j hj => (hother (by rintro rfl; exact hid hj)).trans
      (hs j (List.mem_cons_of_mem _ hj))
    refine ⟨?_, fun j => ?_, fun b => ?_, fun q => ?_⟩
    · exact offersFrame_trans hone.frame hrest.frame
    · refine (hrest.offers j).trans ?_
      by_cases hj : j = id
      · subst hj
        rw [if_neg hid, if_pos List.mem_cons_self, hone.offers, if_pos List.mem_cons_self]
      · rw [hother hj]
        simp [hj]
    · exact (hrest.records b).trans (by rw [hone.records]; rfl)
    · exact (hrest.ports q).trans (by rw [hone.ports]; rfl)

end

end Sys2Proof.Proofs

/-! The recall pass of a tick handling (section 7.5). -/

namespace Sys2Proof.Proofs

open Sys2Proof Sys2Proof.Machine Sys2Proof.Safety

section
variable {s t u v : State} {p q : Port} {b c : BufNo} {l : Live} {n k : Nat} {bufs : List BufNo} {r : BufRec}

/-- A record after its visit in a tick handling of `k` ticks (R135, R137, R138). -/
def recallAfter (k : Nat) (r : BufRec) : BufRec :=
  match r.live with
  | none => r
  | some l =>
    match l.st, l.pendingRev with
    | .recalling q n, none =>
      if k < n then ⟨r.gen, some { l with st := .recalling q (n - k) }⟩
      else if perGet l.marks q then
        ⟨r.gen, some { l with
          st := .recalling q 0, forced := some q, pendingRev := some ⟨.expiry, q⟩ }⟩
      else ⟨r.gen, some { l with st := .held noPorts, forced := some q }⟩
    | _, _ => r

/-- A live record that a tick handling counts down (R135). -/
def CountedDown (l : Live) : Prop := l.pendingRev = none ∧ ∃ q n, l.st = .recalling q n

/-- What the visits of some records in a tick handling of `k` ticks leave, where the records read as in
`s` before their visits (R135, R137, R138). -/
structure RecallsVisited (k : Nat) (bufs : List BufNo) (s u t : State) : Prop where
  frame : t = { u with ports := t.ports, buffers := t.buffers, jobs := t.jobs, reports := t.reports }
  records : ∀ b, recAt t b = if b ∈ bufs then recallAfter k (recAt u b) else recAt u b
  ports : ∀ q, portAt t q = bufs.foldl (recallVisit s k q) (portAt u q)
  jobs : JobsStopped (fun q => ∃ b ∈ bufs, ∃ l, dueRecall s k b = some (l, q) ∧ perGet l.marks q = true) u t

/-! ### One visit -/

theorem recallAfter_counted (hlive : r.live = some l) (hst : l.st = .recalling q n)
    (hrev : l.pendingRev = none) (hlt : k < n) :
    recallAfter k r = ⟨r.gen, some { l with st := .recalling q (n - k) }⟩ := by
  simp [recallAfter, hlive, hst, hrev, hlt]

theorem recallAfter_marked (hlive : r.live = some l) (hst : l.st = .recalling q n)
    (hrev : l.pendingRev = none) (hle : n ≤ k) (hmark : perGet l.marks q = true) :
    recallAfter k r = ⟨r.gen, some { l with
      st := .recalling q 0, forced := some q, pendingRev := some ⟨.expiry, q⟩ }⟩ := by
  simp [recallAfter, hlive, hst, hrev, Nat.not_lt.2 hle, hmark]

theorem recallAfter_returned (hlive : r.live = some l) (hst : l.st = .recalling q n)
    (hrev : l.pendingRev = none) (hle : n ≤ k) (hmark : perGet l.marks q = false) :
    recallAfter k r = ⟨r.gen, some { l with st := .held noPorts, forced := some q }⟩ := by
  simp [recallAfter, hlive, hst, hrev, Nat.not_lt.2 hle, hmark]

theorem recallAfter_vacant (hlive : r.live = none) : recallAfter k r = r := by simp [recallAfter, hlive]

theorem recallAfter_other (hlive : r.live = some l) (h : ¬CountedDown l) : recallAfter k r = r := by
  cases hrev : l.pendingRev with
  | some rv => simp [recallAfter, hlive, hrev]
  | none =>
    cases hst : l.st with
    | recalling q n => exact absurd ⟨hrev, q, n, hst⟩ h
    | held m => simp [recallAfter, hlive, hst]
    | offered id => simp [recallAfter, hlive, hst]
    | lent q => simp [recallAfter, hlive, hst]

theorem dueRecall_recalling (hlive : liveAt s b = some l) (hst : l.st = .recalling q n)
    (hrev : l.pendingRev = none) : dueRecall s k b = if n ≤ k then some (l, q) else none := by
  simp [dueRecall, hlive, hst, hrev]

theorem dueRecall_vacant (hlive : liveAt s b = none) : dueRecall s k b = none := by simp [dueRecall, hlive]

theorem dueRecall_other (hlive : liveAt s b = some l) (h : ¬CountedDown l) : dueRecall s k b = none := by
  cases hrev : l.pendingRev with
  | some rv => simp [dueRecall, hlive, hrev]
  | none =>
    cases hst : l.st with
    | recalling q n => exact absurd ⟨hrev, q, n, hst⟩ h
    | held m => simp [dueRecall, hlive, hst]
    | offered id => simp [dueRecall, hlive, hst]
    | lent q => simp [dueRecall, hlive, hst]

theorem tickRecall_other (hlive : liveAt u b = some l) (h : ¬CountedDown l) : tickRecall k u b = u := by
  cases hrev : l.pendingRev with
  | some rv => cases hst : l.st <;> simp [tickRecall, hlive, hst, hrev]
  | none =>
    cases hst : l.st with
    | recalling q n => exact absurd ⟨hrev, q, n, hst⟩ h
    | held m => simp [tickRecall, hlive, hst]
    | offered id => simp [tickRecall, hlive, hst]
    | lent q => simp [tickRecall, hlive, hst]

theorem dueRecall_congr (h : liveAt t b = liveAt s b) : dueRecall t k b = dueRecall s k b := by
  simp only [dueRecall, h]

theorem recallVisit_none {hp : HostPort} (h : dueRecall s k b = none) : recallVisit s k q hp b = hp := by
  simp [recallVisit, h]

/-- A visit that finds no countdown of the record to lower. -/
theorem recallsVisited_idle (hvisit : tickRecall k u b = u) (hafter : recallAfter k (recAt u b) = recAt u b)
    (hdue : dueRecall s k b = none) : RecallsVisited k [b] s u (tickRecall k u b) := by
  rw [hvisit]
  refine ⟨rfl, fun c => ?_, fun q => (recallVisit_none hdue).symm, jobsStopped_of_eq rfl rfl ?_⟩
  · split
    · next hc => rw [List.mem_singleton.1 hc, hafter]
    · rfl
  · rintro q ⟨c, hc, l, h, -⟩
    rw [List.mem_singleton.1 hc, hdue] at h
    cases h

/-- The record's part of a visit that replaces it. -/
theorem records_of_setLive {l' : Live} (hrec : ∀ c, recAt t c = recAt (setLive b l' u) c)
    (hafter : recallAfter k (recAt u b) = ⟨genAt u b, some l'⟩) (c : BufNo) :
    recAt t c = if c ∈ [b] then recallAfter k (recAt u c) else recAt u c := by
  rw [hrec, recAt_setLive_eq]
  simp only [List.mem_singleton]
  split
  · next hc => rw [hc, hafter]
  · rfl

theorem portAt_expireRecall_unmarked (hmark : perGet l.marks p = false) :
    portAt (expireRecall b l p u) q =
      (let h : Handle := ⟨b, genAt u b⟩
       let hp := if p = q then notified (voided (portAt u q) h) (.revoked h .expiry) else portAt u q
       if l.owner = q then notified hp (.returned h .forced) else hp) := by
  rw [expireRecall_unmarked hmark, portAt_notify_iff, portAt_notify_iff, portAt_voidAt]
  by_cases hpq : p = q
  · subst hpq; simp only [if_true]; rfl
  · simp only [if_neg hpq, if_neg (Ne.symm hpq)]; rfl

/-- A visit at which the recall has run out (R137, R138). -/
theorem recallsVisited_expired (hs : recAt u b = recAt s b) (hlive : liveAt u b = some l)
    (hst : l.st = .recalling p n) (hrev : l.pendingRev = none) (hle : n ≤ k) :
    RecallsVisited k [b] s u (expireRecall b l p u) := by
  have hdue := dueRecall_recalling (k := k) ((congrArg BufRec.live hs).symm.trans hlive) hst hrev
  rw [if_pos hle] at hdue
  cases hmark : perGet l.marks p with
  | false =>
    refine ⟨?_, records_of_setLive (fun c => ?_) (recallAfter_returned hlive hst hrev hle hmark),
      fun q => ?_, jobsStopped_of_eq ?_ ?_ ?_⟩
    · rw [expireRecall_unmarked hmark]; rfl
    · rw [expireRecall_unmarked hmark]; rfl
    · have hgen : genAt u b = genAt s b := congrArg BufRec.gen hs
      rw [portAt_expireRecall_unmarked hmark, hgen]
      simp [recallVisit, hdue, hmark]
    · rw [expireRecall_unmarked hmark]; rfl
    · rw [expireRecall_unmarked hmark]; rfl
    · rintro q ⟨c, hc, l', h, hmark'⟩
      rw [List.mem_singleton.1 hc, hdue] at h
      cases h
      simp [hmark] at hmark'
  | true =>
    rw [expireRecall_marked hmark]
    refine ⟨by rw [stopJob_eq]; rfl,
      records_of_setLive (fun c => ?_) (recallAfter_marked hlive hst hrev hle hmark),
      fun q => ?_, jobsStopped_congr (jobsStopped_one p _) fun q => ?_⟩
    · rw [stopJob_eq]; rfl
    · have hvisit : recallVisit s k q (portAt u q) b = portAt u q := by simp [recallVisit, hdue, hmark]
      rw [List.foldl_cons, List.foldl_nil, hvisit, stopJob_eq]
      rfl
    · constructor
      · rintro rfl
        exact ⟨b, List.mem_singleton.2 rfl, l, hdue, hmark⟩
      · rintro ⟨c, hc, l', h, -⟩
        rw [List.mem_singleton.1 hc, hdue] at h
        cases h
        rfl

/-- A record's visit (R135). -/
theorem recallsVisited_one (hs : recAt u b = recAt s b) : RecallsVisited k [b] s u (tickRecall k u b) := by
  have hlives : liveAt u b = liveAt s b := congrArg BufRec.live hs
  cases hlive : liveAt u b with
  | none =>
    exact recallsVisited_idle (by simp [tickRecall, hlive]) (recallAfter_vacant hlive)
      (dueRecall_vacant (hlives.symm.trans hlive))
  | some l =>
    by_cases hcounted : CountedDown l
    · obtain ⟨hrev, p, n, hst⟩ := hcounted
      by_cases hlt : k < n
      · have hdue := dueRecall_recalling (k := k) (hlives.symm.trans hlive) hst hrev
        rw [if_neg (by omega)] at hdue
        have hvisit : tickRecall k u b = setLive b { l with st := .recalling p (n - k) } u := by
          simp [tickRecall, hlive, hst, hrev, hlt]
        rw [hvisit]
        refine ⟨rfl, records_of_setLive (fun _ => rfl) (recallAfter_counted hlive hst hrev hlt),
          fun q => (recallVisit_none hdue).symm, jobsStopped_of_eq rfl rfl ?_⟩
        rintro q ⟨c, hc, l', h, -⟩
        rw [List.mem_singleton.1 hc, hdue] at h
        cases h
      · have hvisit : tickRecall k u b = expireRecall b l p u := by
          simp [tickRecall, hlive, hst, hrev, hlt]
        rw [hvisit]
        exact recallsVisited_expired hs hlive hst hrev (by omega)
    · exact recallsVisited_idle (tickRecall_other hlive hcounted) (recallAfter_other hlive hcounted)
        (dueRecall_other (hlives.symm.trans hlive) hcounted)

/-! ### The pass -/

theorem recallsFrame_trans
    (h : v = { u with ports := v.ports, buffers := v.buffers, jobs := v.jobs, reports := v.reports })
    (h' : t = { v with ports := t.ports, buffers := t.buffers, jobs := t.jobs, reports := t.reports }) :
    t = { u with ports := t.ports, buffers := t.buffers, jobs := t.jobs, reports := t.reports } := by
  rw [h', h]

theorem recallsVisited_foldl (hnodup : bufs.Nodup) (hs : ∀ b ∈ bufs, recAt u b = recAt s b) :
    RecallsVisited k bufs s u (bufs.foldl (tickRecall k) u) := by
  induction bufs generalizing u with
  | nil => exact ⟨rfl, fun _ => rfl, fun _ => rfl, jobsStopped_of_eq rfl rfl fun _ ⟨_, h, _⟩ => nomatch h⟩
  | cons b bufs ih =>
    obtain ⟨hb, hnodup⟩ := List.nodup_cons.1 hnodup
    have hone := recallsVisited_one (k := k) (hs b List.mem_cons_self)
    have hother {c : BufNo} (hc : c ≠ b) : recAt (tickRecall k u b) c = recAt u c := by
      rw [hone.records, if_neg (by simpa using hc)]
    have hrest := ih hnodup fun c hc => (hother (by rintro rfl; exact hb hc)).trans
      (hs c (List.mem_cons_of_mem _ hc))
    refine ⟨recallsFrame_trans hone.frame hrest.frame, fun c => ?_, fun q => ?_, ?_⟩
    · refine (hrest.records c).trans ?_
      by_cases hc : c = b
      · subst hc
        rw [if_neg hb, if_pos List.mem_cons_self, hone.records, if_pos List.mem_cons_self]
      · rw [hother hc]
        simp [hc]
    · exact (hrest.ports q).trans (by rw [hone.ports]; rfl)
    · refine jobsStopped_congr (jobsStopped_trans hone.jobs hrest.jobs (by rw [hone.frame])) fun q => ?_
      simp

end

end Sys2Proof.Proofs

/-! A tick handling from its start to its end (section 7.5). -/

namespace Sys2Proof.Proofs

open Sys2Proof Sys2Proof.Machine Sys2Proof.Safety

section
variable {s t u v : State} {p q : Port} {b : BufNo} {l : Live} {id : OfferId} {o : Offer} {n k : Nat}
  {ids : List OfferId} {bufs : List BufNo} {r : BufRec} {P : Port → Prop}

/-! ### A record after the offer pass -/

theorem foldl_offerEnded_other (h : ∀ l id, r.live = some l → l.st ≠ .offered id) :
    ids.foldl (offerEnded s k b) r = r := by
  induction ids with
  | nil => rfl
  | cons id ids ih => rw [List.foldl_cons, offerEnded_other fun l => h l id, ih]

/-- The visit of its own entry alone reaches an OFFERED record. -/
theorem offerEnded_of_ne {j : OfferId} (hlive : r.live = some l) (hst : l.st = .offered id) (hj : j ≠ id) :
    offerEnded s k b r j = r := by
  refine offerEnded_other fun l' hl' hst' => hj ?_
  cases hlive.symm.trans hl'
  exact BufState.offered.inj (hst'.symm.trans hst)

theorem foldl_offerEnded_due (hlive : r.live = some l) (hst : l.st = .offered id) (hid : id ∈ ids)
    (hdue : dueOffer s k id = some o) (hbuf : o.handle.buf = b) :
    ids.foldl (offerEnded s k b) r = ⟨r.gen, some { l with st := .held noPorts }⟩ := by
  induction ids with
  | nil => cases hid
  | cons j ids ih =>
    rw [List.foldl_cons]
    by_cases hj : j = id
    · subst hj
      have hended : offerEnded s k b r j = ⟨r.gen, some { l with st := .held noPorts }⟩ := by
        simp [offerEnded, hdue, hbuf, heldAgain_offered hlive hst]
      rw [hended]
      refine foldl_offerEnded_other ?_
      rintro _ id ⟨rfl⟩ h
      cases h
    · rw [offerEnded_of_ne hlive hst hj]
      exact ih ((List.mem_cons.1 hid).resolve_left (Ne.symm hj))

theorem foldl_offerEnded_kept (hlive : r.live = some l) (hst : l.st = .offered id)
    (h : ∀ o, dueOffer s k id = some o → o.handle.buf ≠ b) : ids.foldl (offerEnded s k b) r = r := by
  induction ids with
  | nil => rfl
  | cons j ids ih =>
    have hvisit : offerEnded s k b r j = r := by
      by_cases hj : j = id
      · subst hj
        cases hdue : dueOffer s k j with
        | none => simp [offerEnded, hdue]
        | some o => simp [offerEnded, hdue, (h o hdue).symm]
      · exact offerEnded_of_ne hlive hst hj
    rw [List.foldl_cons, hvisit, ih]

/-- The offer pass leaves a record as it is, but for an OFFERED one that becomes HELD. -/
theorem foldl_offerEnded_cases (s : State) (k : Nat) (b : BufNo) (r : BufRec)
    (hids : ∀ id, dueOffer s k id ≠ none → id ∈ ids) :
    ids.foldl (offerEnded s k b) r = r ∨
      ∃ l id, r.live = some l ∧ l.st = .offered id ∧
        ids.foldl (offerEnded s k b) r = ⟨r.gen, some { l with st := .held noPorts }⟩ := by
  by_cases hoffered : ∃ l id, r.live = some l ∧ l.st = .offered id
  · obtain ⟨l, id, hlive, hst⟩ := hoffered
    by_cases hdue : ∃ o, dueOffer s k id = some o ∧ o.handle.buf = b
    · obtain ⟨o, hdue, hbuf⟩ := hdue
      exact .inr ⟨l, id, hlive, hst, foldl_offerEnded_due hlive hst (hids id (by simp [hdue])) hdue hbuf⟩
    · exact .inl (foldl_offerEnded_kept hlive hst fun o h hbuf => hdue ⟨o, h, hbuf⟩)
  · exact .inl (foldl_offerEnded_other fun l id hlive hst => hoffered ⟨l, id, hlive, hst⟩)

theorem not_countedDown_of_held {m : PortSet} (hst : l.st = .held m) : ¬CountedDown l := by
  rintro ⟨-, q, n, h⟩
  rw [hst] at h
  cases h

theorem not_countedDown_of_offered (hst : l.st = .offered id) : ¬CountedDown l := by
  rintro ⟨-, q, n, h⟩
  rw [hst] at h
  cases h

theorem gen_recallAfter (k : Nat) (r : BufRec) : (recallAfter k r).gen = r.gen := by
  cases hlive : r.live with
  | none => rw [recallAfter_vacant hlive]
  | some l =>
    by_cases hcounted : CountedDown l
    · obtain ⟨hrev, q, n, hst⟩ := hcounted
      by_cases hlt : k < n
      · rw [recallAfter_counted hlive hst hrev hlt]
      · cases hmark : perGet l.marks q with
        | true => rw [recallAfter_marked hlive hst hrev (Nat.not_lt.1 hlt) hmark]
        | false => rw [recallAfter_returned hlive hst hrev (Nat.not_lt.1 hlt) hmark]
    · rw [recallAfter_other hlive hcounted]

/-! ### The two passes together -/

theorem jobsStopped_of_congr (h : JobsStopped P u t) (hjobs : u.jobs = s.jobs) (hreports : u.reports = s.reports)
    (hpage : u.page = s.page) : JobsStopped P s t := by
  obtain ⟨new, hnew, hjob⟩ := h
  have hjobAt (q : Port) : jobAt u q = jobAt s q := by rw [jobAt, jobAt, hjobs]
  refine ⟨new, by rw [hnew, hreports], fun q => ?_⟩
  rw [← stopped_congr (hjobAt q) hpage, ← hjobAt q]
  exact hjob q

/-- What a tick handling of `k` ticks leaves before it ends (R134, R135). -/
structure TicksApplied (k : Nat) (s t : State) : Prop where
  frame : t = { s with
    ports := t.ports, buffers := t.buffers, offers := t.offers, jobs := t.jobs, reports := t.reports,
    pendingTicks := (if ticksTaken s = none then 0 else s.pendingTicks), underway := none }
  offers : ∀ id, offerAt t id = offerAfter k (offerAt s id)
  records : ∀ b, recAt t b = recallAfter k ((offersInUse s).foldl (offerEnded s k b) (recAt s b))
  ports : ∀ q, portAt t q = afterTicks s k q
  jobs : JobsStopped (fun q => ∃ b l, dueRecall s k b = some (l, q) ∧ perGet l.marks q = true) s t

theorem mem_offersInUse_of_due (h : dueOffer s k id ≠ none) : id ∈ offersInUse s := by
  by_contra hid
  exact h (by simp [dueOffer, offerAt_of_not_mem hid])

/-- The offer pass makes no recall due and ends none. -/
theorem dueRecall_of_offersVisited
    (h : ∀ b, recAt u b = (offersInUse s).foldl (offerEnded s k b) (recAt s b)) (b : BufNo) :
    dueRecall u k b = dueRecall s k b ∧ genAt u b = genAt s b := by
  obtain hrec | ⟨l, id, hlive, hst, hrec⟩ :=
    foldl_offerEnded_cases s k b (recAt s b) (fun _ => mem_offersInUse_of_due)
  · exact ⟨dueRecall_congr (congrArg BufRec.live ((h b).trans hrec)), congrArg BufRec.gen ((h b).trans hrec)⟩
  · refine ⟨?_, by rw [genAt, h, hrec]; rfl⟩
    rw [dueRecall_other (l := l) hlive (not_countedDown_of_offered hst)]
    exact dueRecall_other (congrArg BufRec.live ((h b).trans hrec)) (not_countedDown_of_held rfl)

/-- Visits that follow the tables are visits of all numbers. -/
theorem foldl_offerVisit (hlaw : TableLaw s) (hp : HostPort) :
    (offersInUse s).foldl (offerVisit s k q) hp = (List.finRange 16).foldl (offerVisit s k q) hp := by
  refine (foldl_finRange (pairwise_offersInUse hlaw) (fun id hid hp => ?_) hp).symm
  simp [offerVisit, dueOffer, offerAt_of_not_mem hid]

theorem dueRecall_of_not_mem (h : b ∉ recordsListed s) : dueRecall s k b = none :=
  dueRecall_vacant (congrArg BufRec.live (recAt_of_not_mem h))

theorem foldl_recallVisit (hlaw : TableLaw s) (hp : HostPort) :
    (recordsListed s).foldl (recallVisit s k q) hp = (List.finRange 1024).foldl (recallVisit s k q) hp :=
  (foldl_finRange (pairwise_recordsListed hlaw)
    (fun _ hb _ => recallVisit_none (dueRecall_of_not_mem hb)) hp).symm

theorem ticksApplied (hlaw : TableLaw s) (hk : k = ticksInHand s) : TicksApplied k s (handleTicks s) := by
  have hbegun : ({ takeTicks s with underway := none } : State) = { s with
      pendingTicks := if ticksTaken s = none then 0 else s.pendingTicks, underway := none } := by
    rw [takeTicks_eq]
  have htaken : handleTicks s = tickRecalls k (tickOffers k { s with
      pendingTicks := if ticksTaken s = none then 0 else s.pendingTicks, underway := none }) := by
    rw [handleTicks, hbegun, hk]
  have hoffers : OffersVisited k (offersInUse s) s { s with
      pendingTicks := if ticksTaken s = none then 0 else s.pendingTicks, underway := none } (tickOffers k _) :=
    offersVisited_foldl (nodup_of_ascending (pairwise_offersInUse hlaw)) fun _ _ => rfl
  have hlaw' : TableLaw (tickOffers k { s with
      pendingTicks := if ticksTaken s = none then 0 else s.pendingTicks, underway := none }) :=
    (Acts.foldl (s₀ := s) (begins := True) _ (fun id h => h.tickOffer _ id) _ (.refl _ _)).keep
      (fun _ _ => tableLaw_act) hlaw
  rw [htaken]
  generalize tickOffers k { s with
    pendingTicks := if ticksTaken s = none then 0 else s.pendingTicks, underway := none } = u at hoffers hlaw'
  have hrecalls : RecallsVisited k (recordsListed u) u u (tickRecalls k u) :=
    recallsVisited_foldl (nodup_of_ascending (pairwise_recordsListed hlaw')) fun _ _ => rfl
  generalize tickRecalls k u = v at hrecalls
  have hdues := dueRecall_of_offersVisited hoffers.records
  refine ⟨by rw [hrecalls.frame, hoffers.frame], fun id => ?_, fun b => ?_, fun q => ?_, ?_⟩
  · have hsame : offerAt v id = offerAt u id := by rw [hrecalls.frame]; rfl
    rw [hsame]
    refine (hoffers.offers id).trans ?_
    split
    · rfl
    · next hid => exact (offerAt_of_not_mem hid).trans (by rw [offerAt_of_not_mem hid]; rfl)
  · rw [hrecalls.records]
    split
    · rw [hoffers.records]; rfl
    · next hb =>
      rw [← recallAfter_vacant (k := k) (r := recAt u b) (by rw [recAt_of_not_mem hb]; rfl), hoffers.records]
      rfl
  · have hvisit : recallVisit u k q = recallVisit s k q := by
      funext hp b
      simp only [recallVisit, (hdues b).1, (hdues b).2]
    rw [hrecalls.ports, foldl_recallVisit hlaw', hvisit, hoffers.ports, foldl_offerVisit hlaw]
    rfl
  · refine jobsStopped_of_congr (u := u) (jobsStopped_congr hrecalls.jobs fun q => ?_) ?_ ?_ ?_
    · constructor
      · rintro ⟨b, -, l, hdue, hmark⟩
        exact ⟨b, l, (hdues b).1.symm.trans hdue, hmark⟩
      · rintro ⟨b, l, hdue, hmark⟩
        have hdue' := (hdues b).1.trans hdue
        refine ⟨b, ?_, l, hdue', hmark⟩
        by_contra hb
        rw [dueRecall_of_not_mem hb] at hdue'
        cases hdue'
    · rw [hoffers.frame]
    · rw [hoffers.frame]
    · rw [hoffers.frame]

end

/-- Settles O37. -/
theorem tickHandlingRule : Obligations.TickHandlingRule := by
  unfold Obligations.TickHandlingRule
  intro s k hgrant hlaw hk
  have happlied := ticksApplied hlaw hk
  have hexec : exec .tickHandling s = .next (endHandling .tick (handleTicks s)) :=
    (handling_next .tick s handleTicks _).2 (.inl ⟨hgrant, rfl⟩)
  generalize handleTicks s = v at happlied hexec
  have hrec (b : BufNo) : recAt (endHandling .tick v) b = _ := (recAt_endHandling .tick v b).trans (happlied.records b)
  have hoffer (id : OfferId) : offerAt (endHandling .tick v) id = _ :=
    (offerAt_endHandling .tick v id).trans (happlied.offers id)
  have hkept {b : BufNo} {l : Live} (hlive : liveAt s b = some l) (hst : ∀ id, l.st ≠ .offered id) :
      recAt (endHandling .tick v) b = recallAfter k (recAt s b) := by
    rw [hrec, foldl_offerEnded_other fun l' id hl' => by cases hlive.symm.trans hl'; exact hst id]
  refine ⟨_, hexec, ?frame, fun x => ?bytes, fun id o ho hlt => ?counted, fun id o ho hle => ?freed,
    fun id ho => ?free, fun b => ?gen, fun b hlive => ?vacant, fun b l hlive hst => ?stays,
    fun b l id hlive hst => ?offered, fun b l q n hlive hst => ?recalling, fun q => ?ports, ?jobs⟩
  case frame => rw [endHandling_eq, happlied.frame]
  case bytes => rw [endHandling_mem, happlied.frame]
  case counted => rw [hoffer, ho]; exact if_pos hlt
  case freed => rw [hoffer, ho]; exact if_neg (by omega)
  case free => rw [hoffer, ho]; rfl
  case gen =>
    rw [genAt, hrec, gen_recallAfter]
    obtain h | ⟨l, id, -, -, h⟩ :=
      foldl_offerEnded_cases s k b (recAt s b) (fun _ => mem_offersInUse_of_due)
    · rw [h]; rfl
    · rw [h]; rfl
  case vacant =>
    have hother : (offersInUse s).foldl (offerEnded s k b) (recAt s b) = recAt s b :=
      foldl_offerEnded_other fun l id hl => nomatch hlive.symm.trans hl
    rw [liveAt, hrec, hother, recallAfter_vacant hlive]
    exact hlive
  case stays =>
    have hoffered : ∀ id, l.st ≠ .offered id := by
      obtain ⟨m, h⟩ | ⟨q, h⟩ := hst <;> simp [h]
    have hcounted : ¬CountedDown l := by
      rintro ⟨-, q, n, h'⟩
      obtain ⟨m, h⟩ | ⟨q, h⟩ := hst <;> simp [h] at h'
    rw [liveAt, hkept hlive hoffered, recallAfter_other hlive hcounted]
    exact hlive
  case offered =>
    refine ⟨fun o hdue hbuf => ?_, fun hne => ?_⟩
    · have hid : id ∈ offersInUse s := mem_offersInUse_of_due (k := k) (by simp [hdue])
      rw [liveAt, hrec, foldl_offerEnded_due hlive hst hid hdue hbuf, recallAfter_other rfl (not_countedDown_of_held rfl)]
      rfl
    · rw [liveAt, hrec, foldl_offerEnded_kept hlive hst hne,
        recallAfter_other hlive (not_countedDown_of_offered hst)]
      exact hlive
  case recalling =>
    have hoffered : ∀ id, l.st ≠ .offered id := by simp [hst]
    rw [liveAt, hkept hlive hoffered]
    refine ⟨fun hrev => ?_, fun hrev hlt => ?_, fun hrev hle hmark => ?_, fun hrev hle hmark => ?_⟩
    · rw [recallAfter_other hlive fun h => hrev h.1]; exact hlive
    · rw [recallAfter_counted hlive hst hrev hlt]
    · rw [recallAfter_returned hlive hst hrev hle hmark]; rfl
    · rw [recallAfter_marked hlive hst hrev hle hmark]
  case ports => rw [portAt_endHandling]; exact happlied.ports q
  case jobs => exact jobsStopped_endHandling happlied.jobs

end Sys2Proof.Proofs

/-! What the completion of a revocation leaves (R25, R166 step 4, R198). -/

namespace Sys2Proof.Proofs

open Sys2Proof Sys2Proof.Machine Sys2Proof.Safety

section
variable {s t u v w : State} {p q : Port} {b c : BufNo} {l l' : Live} {id : OfferId} {o : Offer} {x y : Waiting}
  {xs : List Waiting} {cause : Cause}

/-! ### The removal of an offer for FORCE_FREE -/

/-- What the removal of a record's offer leaves of the record itself: HELD when it was OFFERED (R9). -/
def OfferLifted (l l' : Live) : Prop :=
  l' = l ∨ ((∃ id, l.st = .offered id) ∧ l' = { l with st := .held noPorts })

/-- What the removal of a record's offer leaves (R9, R198 step 1). -/
structure OfferRemoved (b : BufNo) (l : Live) (s t : State) : Prop where
  frame : t = { s with ports := t.ports, buffers := t.buffers, offers := t.offers }
  offers : OfferGone l s t
  others : OtherRecords b s t
  record : ∃ l', recAt t b = ⟨genAt s b, some l'⟩ ∧ OfferLifted l l'
  ports : ∀ q, portAt t q = withdrawnAt s b l q (portAt s q)

theorem recAt_of_liveAt (h : liveAt s b = some l) : recAt s b = ⟨genAt s b, some l⟩ := by
  rw [← h]; rfl

/-- A record without an offer in use has none to remove. -/
theorem removeOffer_none (hnone : ∀ id, l.st = .offered id → offerAt s id = none) : removeOffer b l s = s := by
  cases hst : l.st with
  | offered id => simp [removeOffer, offerRefOf, hst, hnone id hst]
  | held m => simp [removeOffer, offerRefOf, hst]
  | lent q => simp [removeOffer, offerRefOf, hst]
  | recalling q n => simp [removeOffer, offerRefOf, hst]

theorem withdrawnAt_none {hp : HostPort} (hnone : ∀ id, l.st = .offered id → offerAt s id = none) :
    withdrawnAt s b l q hp = hp := by
  cases hst : l.st with
  | offered id => simp [withdrawnAt, hst, hnone id hst]
  | held m => simp [withdrawnAt, hst]
  | lent q => simp [withdrawnAt, hst]
  | recalling q n => simp [withdrawnAt, hst]

theorem offerRemoved_none (hlive : liveAt s b = some l)
    (hnone : ∀ id, l.st = .offered id → offerAt s id = none) : OfferRemoved b l s (removeOffer b l s) := by
  rw [removeOffer_none hnone]
  refine ⟨rfl, fun id => ?_, fun _ _ => rfl, ⟨l, recAt_of_liveAt hlive, .inl rfl⟩,
    fun q => (withdrawnAt_none hnone).symm⟩
  split
  · next hst => exact hnone id hst
  · rfl

theorem offerRemoved (hlive : liveAt s b = some l) (hnames : OfferNames s b l) :
    OfferRemoved b l s (removeOffer b l s) := by
  by_cases hnone : ∀ id, l.st = .offered id → offerAt s id = none
  · exact offerRemoved_none hlive hnone
  · push Not at hnone
    obtain ⟨id, hst, hne⟩ := hnone
    obtain ⟨o, hoffer⟩ := Option.ne_none_iff_exists'.1 hne
    obtain rfl := hnames id o hst hoffer
    have hremoved : removeOffer o.handle.buf l s = notify o.dst (.withdrawn id (handleAt s o.handle.buf))
        (setLive o.handle.buf { l with st := .held noPorts } (setOffer id none s)) := by
      simp [removeOffer, offerRefOf, hst, hoffer, endOffer_of_offered hlive hst]
    rw [hremoved]
    have hrecord : RecordBecomes o.handle.buf { l with st := .held noPorts } s _ :=
      recordBecomes_setLive (u := s) (fun _ => rfl) fun _ => rfl
    refine ⟨rfl, fun j => ?_, hrecord.2, ⟨_, hrecord.1, .inr ⟨⟨id, hst⟩, rfl⟩⟩, fun q => ?_⟩
    · refine (offerAt_setOffer s id j none).trans ?_
      simp [hst, eq_comm]
    · rw [portAt_notify_iff]
      simp only [withdrawnAt, hst, hoffer]
      rfl

theorem access_of_lifted (h : OfferLifted l l') : access l' q = access l q := by
  obtain rfl | ⟨⟨id, hst⟩, rfl⟩ := h
  · rfl
  · simp [access, hst, noPorts]

theorem access_congr (hst : l'.st = l.st) (howner : l'.owner = l.owner) : access l' q = access l q := by
  simp only [access, hst, howner]

theorem revokedAtRetirement_forceFree :
    revokedAtRetirement l .forceFree none q = true ↔ ¬(access l q = .none ∧ q ≠ l.owner) := by
  simp [revokedAtRetirement, @eq_comm _ l.owner q, or_iff_not_imp_left]

theorem forcedAt_congr {hp : HostPort} (haccess : access l' q = access l q) (howner : l'.owner = l.owner)
    (hgen : genAt t b = genAt s b) : forcedAt t b l' q hp = forcedAt s b l q hp := by
  simp only [forcedAt, haccess, howner, hgen]

theorem portAt_retire_forced (b : BufNo) (l : Live) (s : State) (q : Port) :
    portAt (retire b l .forceFree none s) q = forcedAt s b l q (portAt s q) := by
  rw [portAt_retire]
  by_cases h : access l q = .none ∧ q ≠ l.owner
  · rw [if_neg (by rw [revokedAtRetirement_forceFree]; exact not_not_intro h), forcedAt, if_pos h]
  · rw [if_pos (revokedAtRetirement_forceFree.2 h), forcedAt, if_neg h]

/-! ### One completion -/

/-- What the completion of a revocation leaves (R25). -/
structure Completion (x : Waiting) (u v : State) : Prop where
  frame : v = { u with
    ports := v.ports, buffers := v.buffers, pageMap := v.pageMap, offers := v.offers,
    scrubQueue := v.scrubQueue, counts := v.counts, dir := v.dir }
  kept : endsRecord x = false → v = { u with ports := v.ports, buffers := v.buffers }
  offersKept : x.rev.kind ≠ .forceFree → v.offers = u.offers
  settled : Settled [x] u v
  record : recAt v x.buf = settledRec u x
  others : OtherRecords x.buf u v
  ports : ∀ q, portAt v q = settledAt u q (portAt u q) x

theorem kind_of_kept (h : endsRecord x = false) : x.rev.kind ≠ .forceFree := by
  intro hkind
  simp [endsRecord, hkind] at h

/-- A completion that does not retire its record. -/
theorem completion_kept (hends : endsRecord x = false)
    (hframe : v = { u with ports := v.ports, buffers := v.buffers }) (hrecord : recAt v x.buf = settledRec u x)
    (hothers : OtherRecords x.buf u v) (hports : ∀ q, portAt v q = settledAt u q (portAt u q) x) :
    Completion x u v := by
  have hkind := kind_of_kept hends
  refine ⟨by rw [hframe], fun _ => hframe, fun _ => by rw [hframe], ⟨⟨?_, fun pg => ?_⟩, fun q => ?_, ?_, fun id => ?_⟩,
    hrecord, hothers, hports⟩
  · rw [hframe]; simp [pagesEnded, hends]
  · rw [hframe]; simp [pagesEnded, hends]; rfl
  · rw [hframe]; simp [hends]; rfl
  · rw [hframe]; simp [hends]
  · rw [hframe]; simp [hkind]; rfl

/-- A completion that retires its record, after a removal of its offer or without one. -/
theorem completion_retire (hends : endsRecord x = true)
    (hw : w = { u with ports := w.ports, buffers := w.buffers, offers := w.offers })
    (hgen : genAt w x.buf = genAt u x.buf) (hothers : OtherRecords x.buf u w)
    (howner : l'.owner = x.live.owner) (hlength : l'.length = x.live.length) (hhead : l'.head = x.live.head)
    (hkept : x.rev.kind ≠ .forceFree → w.offers = u.offers)
    (hoffers : ∀ id, offerAt w id =
      if x.rev.kind = .forceFree ∧ x.live.st = .offered id then none else offerAt u id)
    (hports : ∀ q, portAt (retire x.buf l' cause none w) q = settledAt u q (portAt u q) x) :
    Completion x u (retire x.buf l' cause none w) := by
  have hchain : chainOf w l' = chainOf u x.live := by
    rw [chainOf, chainOf, hlength, hhead, hw]
  obtain ⟨hqueue, hentries⟩ := pagesScrubbed_retire x.buf l' cause none w
  rw [hchain] at hqueue hentries
  refine ⟨by rw [retire_frame, hw], fun h => (Bool.false_ne_true (h.symm.trans hends)).elim, fun h => hkept h,
    ⟨⟨?_, fun pg => ?_⟩, fun q => ?_, ?_, fun id => ?_⟩, ?_, fun c hc => ?_, hports⟩
  · rw [hqueue, hw]; simp [pagesEnded, hends]
  · rw [hentries, hw]; simp [pagesEnded, hends]; rfl
  · rw [countsAt_retire, howner, hlength, hw]; simp [hends, @eq_comm _ x.live.owner q]; rfl
  · rw [dir_retire, hw]
    refine List.filter_congr fun e _ => Bool.eq_iff_iff.2 ?_
    simp [hends, @eq_comm _ x.buf]
  · refine (hoffers id).trans ?_
    simp
  · rw [recAt_retire, if_pos rfl, hgen, settledRec, if_pos hends]
  · rw [recAt_retire, if_neg hc, hothers c hc]

/-! ### The five completions -/

/-- The completion of EXPIRY (R137). -/
theorem completeRevocation_expiry (hlive : liveAt u b = some l) (hrev : l.pendingRev = some ⟨.expiry, p⟩)
    (hborrower : borrowerOf l = some q) : completeRevocation b u =
      (u |> returnToOwner b { l with pendingRev := none } q |> notify q (.revoked ⟨b, genAt u b⟩ .expiry)
        |> notify l.owner (.returned ⟨b, genAt u b⟩ .forced)) := by
  have hborrower' : borrowerOf { l with pendingRev := none } = some q := hborrower
  simp [completeRevocation, hlive, hrev, hborrower', handleAt]

/-- The completion of the borrower's teardown (R184). -/
theorem completeRevocation_returned (hlive : liveAt u b = some l) (hrev : l.pendingRev = some ⟨.teardown, p⟩)
    (howner : l.owner ≠ p) (hborrower : borrowerOf l = some p) : completeRevocation b u =
      (u |> returnToOwner b { l with pendingRev := none } p |> notify l.owner (.returned ⟨b, genAt u b⟩ .peerLost)) := by
  have hborrower' : borrowerOf { l with pendingRev := none } = some p := hborrower
  simp [completeRevocation, hlive, hrev, hborrower', handleAt, howner.symm]

/-- The completion of the teardown of a share-set port (R185). -/
theorem completeRevocation_left {m : PortSet} (hlive : liveAt u b = some l)
    (hrev : l.pendingRev = some ⟨.teardown, p⟩) (howner : l.owner ≠ p) (hst : l.st = .held m) :
    completeRevocation b u =
      (u |> leaveShare b { l with pendingRev := none } p |> notify l.owner (.left ⟨b, genAt u b⟩ p .peerLost)) := by
  have hborrower : borrowerOf { l with pendingRev := none } = none := by simp [borrowerOf, hst]
  have hheld : isHeld { l with pendingRev := none } = true := by simp [isHeld, hst]
  simp [completeRevocation, hlive, hrev, hborrower, hheld, handleAt, howner.symm]

/-- The completion of the owner's teardown (R183). -/
theorem completeRevocation_retired (hlive : liveAt u b = some l)
    (hrev : l.pendingRev = some ⟨.teardown, l.owner⟩) :
    completeRevocation b u = retire b { l with pendingRev := none } .peerLost none u := by
  simp [completeRevocation, hlive, hrev]

/-- The completion of FORCE_FREE (R198). -/
theorem completeRevocation_freed (hlive : liveAt u b = some l) (hrev : l.pendingRev = some ⟨.forceFree, p⟩) :
    completeRevocation b u = retire b { l with pendingRev := none } .forceFree none (removeOffer b l u) := by
  have hremove : removeOffer b { l with pendingRev := none } u = removeOffer b l u := by
    simp [removeOffer, offerRefOf]
  simp [completeRevocation, hlive, hrev, forceRetire, hremove]

theorem portAt_returnToOwner_iff : portAt (returnToOwner b l q u) p =
    if q = p then voided (portAt u p) ⟨b, genAt u b⟩ else portAt u p := by
  rw [portAt_returnToOwner]
  by_cases hpq : p = q
  · subst hpq; simp
  · rw [if_neg hpq, if_neg (Ne.symm hpq)]

theorem portAt_leaveShare_iff : portAt (leaveShare b l q u) p =
    if q = p then voided (portAt u p) ⟨b, genAt u b⟩ else portAt u p := by
  rw [portAt_leaveShare]
  by_cases hpq : p = q
  · subst hpq; simp
  · rw [if_neg hpq, if_neg (Ne.symm hpq)]

theorem settledRec_ends (hends : endsRecord x = true) : settledRec s x = ⟨genAt s x.buf + 1, none⟩ := by
  rw [settledRec, if_pos hends]

theorem settledRec_returned (hends : endsRecord x = false) (hst : ∀ m, x.live.st ≠ .held m) :
    settledRec s x = ⟨genAt s x.buf, some { x.live with pendingRev := none, st := .held noPorts }⟩ := by
  rw [settledRec, if_neg (by simp [hends])]
  cases h : x.live.st with
  | held m => exact absurd h (hst m)
  | offered id => rfl
  | lent q => rfl
  | recalling q n => rfl

theorem settledRec_left {m : PortSet} (hends : endsRecord x = false) (hst : x.live.st = .held m) :
    settledRec s x =
      ⟨genAt s x.buf, some { x.live with pendingRev := none, st := .held (perSet m x.rev.port false) }⟩ := by
  rw [settledRec, if_neg (by simp [hends]), hst]

theorem not_held_of_borrower (h : borrowerOf l = some q) (m : PortSet) : l.st ≠ .held m := fun hst => by
  simp [borrowerOf, hst] at h

theorem isHeld_of_borrower (h : borrowerOf l = some q) : isHeld l = false := by
  unfold isHeld
  split
  · next m hst => exact absurd hst (not_held_of_borrower h m)
  · rfl

theorem completion_expiry (hlive : liveAt u b = some l) (hrev : l.pendingRev = some ⟨.expiry, p⟩)
    (hborrower : borrowerOf l = some q) : Completion ⟨b, l, ⟨.expiry, q⟩⟩ u (completeRevocation b u) := by
  rw [completeRevocation_expiry hlive hrev hborrower]
  have hrecord : RecordBecomes b { l with pendingRev := none, st := .held noPorts } u _ :=
    recordBecomes_setLive (t := u |> returnToOwner b { l with pendingRev := none } q
      |> notify q (.revoked ⟨b, genAt u b⟩ .expiry) |> notify l.owner (.returned ⟨b, genAt u b⟩ .forced))
      (fun _ => rfl) fun _ => rfl
  refine completion_kept rfl rfl
    (hrecord.1.trans (settledRec_returned (x := ⟨b, l, ⟨.expiry, q⟩⟩) rfl (not_held_of_borrower hborrower)).symm)
    hrecord.2 fun p => ?_
  rw [portAt_notify_iff, portAt_notify_iff, portAt_returnToOwner_iff]
  by_cases hpq : q = p
  · simp only [settledAt, if_pos hpq]
  · simp only [settledAt, if_neg hpq]

theorem completion_returned (hlive : liveAt u b = some l) (hrev : l.pendingRev = some ⟨.teardown, p⟩)
    (howner : l.owner ≠ p) (hborrower : borrowerOf l = some p) :
    Completion ⟨b, l, ⟨.teardown, p⟩⟩ u (completeRevocation b u) := by
  rw [completeRevocation_returned hlive hrev howner hborrower]
  have hends : endsRecord ⟨b, l, ⟨.teardown, p⟩⟩ = false := by simp [endsRecord, howner.symm]
  have hheld := isHeld_of_borrower hborrower
  have hrecord : RecordBecomes b { l with pendingRev := none, st := .held noPorts } u _ :=
    recordBecomes_setLive (t := u |> returnToOwner b { l with pendingRev := none } p
      |> notify l.owner (.returned ⟨b, genAt u b⟩ .peerLost)) (fun _ => rfl) fun _ => rfl
  refine completion_kept hends rfl
    (hrecord.1.trans (settledRec_returned (x := ⟨b, l, ⟨.teardown, p⟩⟩) hends (not_held_of_borrower hborrower)).symm)
    hrecord.2 fun q => ?_
  rw [portAt_notify_iff, portAt_returnToOwner_iff]
  simp only [settledAt, if_neg howner.symm, hheld]
  rfl

theorem completion_left {m : PortSet} (hlive : liveAt u b = some l) (hrev : l.pendingRev = some ⟨.teardown, p⟩)
    (howner : l.owner ≠ p) (hst : l.st = .held m) :
    Completion ⟨b, l, ⟨.teardown, p⟩⟩ u (completeRevocation b u) := by
  rw [completeRevocation_left hlive hrev howner hst]
  have hends : endsRecord ⟨b, l, ⟨.teardown, p⟩⟩ = false := by simp [endsRecord, howner.symm]
  have hheld : isHeld l = true := by simp [isHeld, hst]
  have hshare : shareOf { l with pendingRev := none } = m := by simp [shareOf, hst]
  have hrecord : RecordBecomes b { l with
      pendingRev := none, st := .held (perSet (shareOf { l with pendingRev := none }) p false) } u _ :=
    recordBecomes_setLive (t := u |> leaveShare b { l with pendingRev := none } p
      |> notify l.owner (.left ⟨b, genAt u b⟩ p .peerLost)) (fun _ => rfl) fun _ => rfl
  rw [hshare] at hrecord
  refine completion_kept hends rfl
    (hrecord.1.trans (settledRec_left (x := ⟨b, l, ⟨.teardown, p⟩⟩) hends hst).symm) hrecord.2 fun q => ?_
  rw [portAt_notify_iff, portAt_leaveShare_iff]
  simp only [settledAt, if_neg howner.symm, hheld]
  rfl

theorem completion_retired (hlive : liveAt u b = some l) (hrev : l.pendingRev = some ⟨.teardown, l.owner⟩) :
    Completion ⟨b, l, ⟨.teardown, l.owner⟩⟩ u (completeRevocation b u) := by
  rw [completeRevocation_retired hlive hrev]
  refine completion_retire (x := ⟨b, l, ⟨.teardown, l.owner⟩⟩) (by simp [endsRecord]) rfl rfl (fun _ _ => rfl)
    rfl rfl rfl (fun _ => rfl) (fun id => by simp) fun q => ?_
  have haccess : access { l with pendingRev := none } q = access l q := access_congr rfl rfl
  simp only [portAt_retire, settledAt, if_true]
  by_cases h : access l q = .none
  · rw [if_pos h, if_neg (by simp [revokedAtRetirement_peerLost, haccess, h])]
  · rw [if_neg h, if_pos (revokedAtRetirement_peerLost.2 (haccess ▸ h))]

theorem completion_freed (hlive : liveAt u b = some l) (hrev : l.pendingRev = some ⟨.forceFree, p⟩)
    (hnames : OfferNames u b l) : Completion ⟨b, l, ⟨.forceFree, p⟩⟩ u (completeRevocation b u) := by
  rw [completeRevocation_freed hlive hrev]
  obtain ⟨hframe, hoffers, hothers, ⟨l₂, hrecord, -⟩, hports⟩ := offerRemoved hlive hnames
  have hgen : genAt (removeOffer b l u) b = genAt u b := by rw [genAt, hrecord]
  refine completion_retire (x := ⟨b, l, ⟨.forceFree, p⟩⟩) rfl hframe hgen hothers rfl rfl rfl
    (fun h => absurd rfl h) (fun id => ?_) fun q => ?_
  · rw [hoffers]; simp
  · rw [portAt_retire_forced, hports]
    exact forcedAt_congr (access_congr rfl rfl) rfl hgen

/-- The completion of a revocation that fits its record (R25). -/
theorem completion_of_fits (hlive : liveAt u x.buf = some x.live) (hrev : x.live.pendingRev = some x.rev)
    (hfits : RevocationFits x) (hnames : OfferNames u x.buf x.live) :
    Completion x u (completeRevocation x.buf u) := by
  obtain ⟨b, l, ⟨kind, p⟩⟩ := x
  cases kind with
  | forceFree => exact completion_freed hlive hrev hnames
  | expiry =>
    obtain hends | ⟨-, hborrower | ⟨hkind, -⟩⟩ := hfits
    · cases hends
    · exact completion_expiry hlive hrev hborrower
    · cases hkind
  | teardown =>
    obtain hends | ⟨howner, hborrower | ⟨-, hheld⟩⟩ := hfits
    · obtain rfl : p = l.owner := by simpa [endsRecord] using hends
      exact completion_retired hlive hrev
    · exact completion_returned hlive hrev howner hborrower
    · cases hst : l.st with
      | held m => exact completion_left hlive hrev howner hst
      | offered id => simp [isHeld, hst] at hheld
      | lent q => simp [isHeld, hst] at hheld
      | recalling q n => simp [isHeld, hst] at hheld

end

end Sys2Proof.Proofs

/-! Several completions in one handling, and the obligation on job-end reports (R166). -/

namespace Sys2Proof.Proofs

open Sys2Proof Sys2Proof.Machine Sys2Proof.Safety

section
variable {s t u v w : State} {p q : Port} {a b c d : BufNo} {l l' : Live} {id : OfferId} {x y : Waiting}
  {xs : List Waiting} {r : Report} {rest : List Report} {res : Result} {rv : Revocation} {hp : HostPort}

/-! ### Completions in a row -/

/-- States that agree on the tables and lists that completions change besides records and ports. -/
structure SameTables (s u : State) : Prop where
  pageMap : u.pageMap = s.pageMap
  scrubQueue : u.scrubQueue = s.scrubQueue
  counts : u.counts = s.counts
  dir : u.dir = s.dir
  offers : u.offers = s.offers

theorem pagesEnded_congr (h : u.pageMap = s.pageMap) : pagesEnded u xs = pagesEnded s xs := by
  simp only [pagesEnded, chainOf, h]

theorem settled_of_sameTables (hs : SameTables s u) (ht : SameTables v t) (h : Settled xs u v) : Settled xs s t := by
  obtain ⟨⟨hqueue, hentries⟩, hcounts, hdir, hoffers⟩ := h
  refine ⟨⟨?_, fun pg => ?_⟩, fun q => ?_, ?_, fun id => ?_⟩
  · rw [ht.scrubQueue, hqueue, hs.scrubQueue, pagesEnded_congr hs.pageMap]
  · have hentry := hentries pg
    rwa [entryAt, entryAt, ← ht.pageMap, hs.pageMap, pagesEnded_congr hs.pageMap] at hentry
  · have hcount := hcounts q
    rwa [countsAt, countsAt, ← ht.counts, hs.counts] at hcount
  · rw [ht.dir, hdir, hs.dir]
  · have hoffer := hoffers id
    rwa [offerAt, offerAt, ← ht.offers, hs.offers] at hoffer

theorem sameTables_endHandling (r : Requester) (s : State) : SameTables s (endHandling r s) := by
  rw [endHandling_eq]; exact ⟨rfl, rfl, rfl, rfl, rfl⟩

theorem settled_nil (s : State) : Settled [] s s :=
  ⟨⟨(List.append_nil _).symm, fun _ => rfl⟩, fun _ => rfl, by simp, fun _ => rfl⟩

/-- What one completion says of the retired record's pages, counts and Directory entries. -/
theorem settled_one_ends (hends : endsRecord x = true) (h : Settled [x] s t) :
    PagesScrubbed (chainOf s x.live) s t ∧ CountsFall x.live s t ∧
      t.dir = s.dir.filter (fun e => e.handle.buf != x.buf) := by
  obtain ⟨hpages, hcounts, hdir, -⟩ := h
  refine ⟨by simpa [pagesEnded, hends] using hpages, fun q => ?_, ?_⟩
  · simpa [hends, @eq_comm _ x.live.owner q] using hcounts q
  · rw [hdir]
    refine List.filter_congr fun e _ => Bool.eq_iff_iff.2 ?_
    simp [hends, @eq_comm _ x.buf]

theorem chainOf_settled (h : Settled xs s u) (hapart : ∀ pg ∈ chainOf s l, pg ∉ pagesEnded s xs) :
    chainOf u l = chainOf s l :=
  chainFrom_congr fun pg hpg => by
    have hentry : entryAt u pg = entryAt s pg := (h.1.2 pg).trans (if_neg (hapart pg hpg))
    simp only [entryAt] at hentry
    simp only [nextOf, hentry]

/-- The offer of a record that is not among the settled ones stands as before. -/
theorem offerAt_settled (h : Settled xs s u) (hothers : ∀ y ∈ xs, y.buf ≠ b)
    (hnames : ∀ y ∈ xs, OfferNames s y.buf y.live) (hname : OfferNames s b l) (hst : l.st = .offered id) :
    offerAt u id = offerAt s id := by
  rw [h.2.2.2 id]
  split
  · next hany =>
    obtain ⟨y, hy, hkind⟩ := List.any_eq_true.1 hany
    simp only [Bool.and_eq_true, decide_eq_true_eq] at hkind
    cases hoffer : offerAt s id with
    | none => rfl
    | some o =>
      exact absurd ((hnames y hy id o hkind.2 hoffer).symm.trans (hname id o hst hoffer)) (hothers y hy)
  · rfl

theorem withdrawnAt_congr (hgen : genAt u b = genAt s b)
    (hoffer : ∀ id, l.st = .offered id → offerAt u id = offerAt s id) :
    withdrawnAt u b l q hp = withdrawnAt s b l q hp := by
  cases hst : l.st with
  | offered id => simp only [withdrawnAt, hst, hoffer id hst, hgen]
  | held m => simp only [withdrawnAt, hst]
  | lent q => simp only [withdrawnAt, hst]
  | recalling q n => simp only [withdrawnAt, hst]

theorem settledAt_congr (hgen : genAt u x.buf = genAt s x.buf)
    (hoffer : ∀ id, x.live.st = .offered id → offerAt u id = offerAt s id) :
    settledAt u q hp x = settledAt s q hp x := by
  simp only [settledAt, freedAt, hgen, withdrawnAt_congr hgen hoffer, forcedAt]

theorem settledRec_congr (hgen : genAt u x.buf = genAt s x.buf) : settledRec u x = settledRec s x := by
  simp only [settledRec, hgen]

theorem settled_append (h : Settled xs s u) (hx : Settled [x] u v)
    (hchain : endsRecord x = true → chainOf u x.live = chainOf s x.live) : Settled (xs ++ [x]) s v := by
  have hpages : pagesEnded u [x] = pagesEnded s [x] := by
    cases hends : endsRecord x with
    | true => simp [pagesEnded, hends, hchain hends]
    | false => simp [pagesEnded, hends]
  have happend : pagesEnded s (xs ++ [x]) = pagesEnded s xs ++ pagesEnded s [x] := List.flatMap_append
  obtain ⟨⟨hqueue, hentries⟩, hcounts, hdir, hoffers⟩ := h
  obtain ⟨⟨hqueue', hentries'⟩, hcounts', hdir', hoffers'⟩ := hx
  refine ⟨⟨?_, fun pg => ?_⟩, fun q => ?_, ?_, fun id => ?_⟩
  · rw [hqueue', hqueue, happend, hpages, List.append_assoc]
  · rw [hentries', hentries, happend, hpages]
    by_cases h₁ : pg ∈ pagesEnded s [x]
    · rw [if_pos h₁, if_pos (List.mem_append_right _ h₁)]
    · simp [h₁]
  · rw [hcounts', hcounts, List.foldl_append]
  · rw [hdir', hdir, List.filter_filter]
    refine List.filter_congr fun e _ => ?_
    rw [List.any_append, Bool.not_or, Bool.and_comm]
  · rw [hoffers', hoffers, List.any_append]
    by_cases h₁ : [x].any (fun x => x.rev.kind = .forceFree && x.live.st = .offered id) = true
    · rw [if_pos h₁, h₁, Bool.or_true, if_pos rfl]
    · rw [if_neg h₁, Bool.not_eq_true _ |>.mp h₁, Bool.or_false]

end

end Sys2Proof.Proofs

/-! The obligation on job-end reports (R166). -/

namespace Sys2Proof.Proofs

open Sys2Proof Sys2Proof.Machine Sys2Proof.Safety

section
variable {s t u v w : State} {p q : Port} {a b c d : BufNo} {l l' : Live} {id : OfferId} {x y : Waiting}
  {xs : List Waiting} {r : Report} {rest : List Report} {res : Result} {rv : Revocation} {hp : HostPort}

/-! ### The report's completion and its marks -/

/-- A live record without the mark of a port (R24). -/
def withoutMark (l : Live) (p : Port) : Live := { l with marks := perSet l.marks p false }

/-- What a report leaves before any revocation is completed (R166 steps 2 and 3). -/
structure ReportTaken (r : Report) (rest : List Report) (res : Result) (s u : State) : Prop where
  frame : u = { s with ports := u.ports, buffers := u.buffers, reports := rest }
  records : ∀ c, MarkOff r s u c
  ports : ∀ q, portAt u q = reportedPort s r res q

theorem recAt_unmark (c : BufNo) : recAt (unmark b p s) c =
    if c = b then unmarkedRec (recAt s c) p else recAt s c := by
  cases hlive : liveAt s b with
  | none =>
    have hrec : unmarkedRec (recAt s b) p = recAt s b := by
      have h : (recAt s b).live = none := hlive
      simp only [unmarkedRec, h]
    have hsame : unmark b p s = s := by simp [unmark, hlive]
    rw [hsame]
    split
    · next hc => rw [hc, hrec]
    · rfl
  | some l =>
    have hset : unmark b p s = setLive b { l with marks := perSet l.marks p false } s := by simp [unmark, hlive]
    rw [hset, recAt_setLive_eq]
    split
    · next hc => rw [hc, recAt_of_liveAt hlive]; rfl
    · rfl

theorem unmark_frame : unmark b p s = { s with buffers := (unmark b p s).buffers } := by
  cases hlive : liveAt s b with
  | none => simp [unmark, hlive]
  | some l => simp [unmark, hlive, setLive, setRec]

theorem recAt_unmarkAll (c : BufNo) : recAt (unmarkAll (ascending a b) p s) c =
    if c = a ∨ c = b then unmarkedRec (recAt s c) p else recAt s c := by
  by_cases hab : a = b
  · subst hab
    simp [ascending, unmarkAll, recAt_unmark]
  · have hba : ¬b = a := Ne.symm hab
    by_cases hlt : a.val < b.val
    · simp only [ascending, if_neg hab, if_pos hlt, unmarkAll, List.foldl_cons, List.foldl_nil, recAt_unmark]
      by_cases hca : c = a
      · subst hca; simp [hab]
      · simp [hca]
    · simp only [ascending, if_neg hab, if_neg hlt, unmarkAll, List.foldl_cons, List.foldl_nil, recAt_unmark]
      by_cases hca : c = a
      · subst hca; simp [hab]
      · simp [hca]

theorem unmarkAll_frame (bs : List BufNo) (p : Port) (s : State) :
    unmarkAll bs p s = { s with buffers := (unmarkAll bs p s).buffers } := by
  induction bs generalizing s with
  | nil => rfl
  | cons b bs ih =>
    have h : unmarkAll (b :: bs) p s = unmarkAll bs p (unmark b p s) := rfl
    rw [h, ih, unmark_frame]

theorem portAt_complete_iff {area : List Byte} : portAt (complete p res area s) q =
    if q = p then completed (portAt s q) res area else portAt s q := by
  rw [complete, portAt_updPort]
  split
  · next hq => subst hq; rfl
  · rfl

/-- The handling of a report, up to the revocations (R166 steps 1 to 3). -/
def reportBegun (r : Report) (rest : List Report) (s : State) : State :=
  unmarkAll (ascending r.src.buf r.dst.buf) r.port
    (complete r.port (reportResult s r) [byteOf r.done] { s with reports := rest })

theorem takeReport_eq (h : s.reports = r :: rest) :
    takeReport s = settleRevocations (ascending r.src.buf r.dst.buf) (reportBegun r rest s) := by
  simp only [takeReport, h]
  rfl

theorem reportTaken_begun (hres : reportResult s r = res) : ReportTaken r rest res s (reportBegun r rest s) := by
  subst hres
  refine ⟨?_, fun c => recAt_unmarkAll c, fun q => ?_⟩
  · rw [reportBegun, unmarkAll_frame]; rfl
  · rw [reportBegun, unmarkAll_frame]
    exact portAt_complete_iff

/-! ### The result (R166 step 1, R167) -/

theorem waitsForMark_iff : waitsForMark s b p = true ↔
    ∃ l rv, liveAt s b = some l ∧ l.pendingRev = some rv ∧ waitsFor l rv p = true := by
  unfold waitsForMark
  cases hlive : liveAt s b with
  | none => simp
  | some l => cases hrev : l.pendingRev <;> simp [hrev]

theorem reportResult_aborted (hc : c = r.src.buf ∨ c = r.dst.buf) (hlive : liveAt s c = some l)
    (hrev : l.pendingRev = some rv) (hwaits : waitsFor l rv r.port = true) : reportResult s r = .aborted := by
  have hmark : waitsForMark s c r.port = true := waitsForMark_iff.2 ⟨l, rv, hlive, hrev, hwaits⟩
  obtain rfl | rfl := hc <;> simp [reportResult, hmark]

theorem reportResult_own
    (h : ∀ c l rv, c = r.src.buf ∨ c = r.dst.buf → liveAt s c = some l → l.pendingRev = some rv →
      waitsFor l rv r.port = false) : reportResult s r = resultOf r.cause := by
  have hno {c : BufNo} (hc : c = r.src.buf ∨ c = r.dst.buf) : waitsForMark s c r.port = false := by
    rw [Bool.eq_false_iff]
    intro hwaits
    obtain ⟨l, rv, hlive, hrev, hwait⟩ := waitsForMark_iff.1 hwaits
    simp [h c l rv hc hlive hrev] at hwait
  cases hcause : r.cause <;> simp [reportResult, hno (.inl rfl), hno (.inr rfl), hcause, resultOf]

/-! ### Which revocations are completed (R166 step 4) -/

theorem waitsFor_withoutMark : waitsFor (withoutMark l p) rv q = (!decide (q = p) && waitsFor l rv q) := by
  have hretires : retires (withoutMark l p) rv = retires l rv := rfl
  simp only [waitsFor, hretires]
  by_cases hq : q = p
  · subst hq; simp [withoutMark]
  · simp [withoutMark, hq]

theorem mem_allPorts (p : Port) : p ∈ allPorts := by cases p <;> simp [allPorts]

theorem revocationReady_iff (hrev : l.pendingRev = some rv) :
    revocationReady l = true ↔ ∀ q, waitsFor l rv q = false := by
  simp only [revocationReady, hrev, List.all_eq_true, Bool.not_eq_true']
  exact ⟨fun h q => h q (mem_allPorts q), fun h q _ => h q⟩

theorem revocationReady_settledBy (h : SettledBy p l rv) : revocationReady (withoutMark l p) = true := by
  obtain ⟨hrev, -, hothers⟩ := h
  refine (revocationReady_iff (l := withoutMark l p) hrev).2 fun q => ?_
  rw [waitsFor_withoutMark]
  by_cases hq : q = p
  · simp [hq]
  · simp [hothers q hq]

theorem revocationReady_notSettledBy (h : NotSettledBy p l) : revocationReady (withoutMark l p) = false := by
  cases hrev : l.pendingRev with
  | none => simp [revocationReady, withoutMark, hrev]
  | some rv =>
    obtain ⟨q, hq, hwaits⟩ := h rv hrev
    rw [Bool.eq_false_iff]
    intro hready
    have hno := (revocationReady_iff (l := withoutMark l p) hrev).1 hready q
    simp [waitsFor_withoutMark, hq, hwaits] at hno

theorem settleRevocation_waits (h : ∀ l, liveAt u b = some l → revocationReady l = false) :
    settleRevocation b u = u := by
  unfold settleRevocation
  cases hlive : liveAt u b with
  | none => rfl
  | some l => simp [h l hlive]

theorem settleRevocation_ready (hlive : liveAt u b = some l) (h : revocationReady l = true) :
    settleRevocation b u = completeRevocation b u := by
  simp [settleRevocation, hlive, h]

theorem settleRevocations_none
    (h : ∀ c l, c = a ∨ c = d → liveAt u c = some l → revocationReady l = false) :
    settleRevocations (ascending a d) u = u := by
  have ha := settleRevocation_waits fun l => h a l (.inl rfl)
  have hd := settleRevocation_waits fun l => h d l (.inr rfl)
  unfold ascending settleRevocations
  split
  · simp [ha]
  · split <;> simp [ha, hd]

/-- One record of the two is settled, and the other waits on. -/
theorem settleRevocations_one (hb : b = a ∨ b = d) (hready : settleRevocation b u = v)
    (hothers : OtherRecords b u v)
    (h : ∀ c l, c = a ∨ c = d → c ≠ b → liveAt u c = some l → revocationReady l = false) :
    settleRevocations (ascending a d) u = v := by
  have hbefore {c : BufNo} (hc : c = a ∨ c = d) (hne : c ≠ b) : settleRevocation c u = u :=
    settleRevocation_waits fun l => h c l hc hne
  have hafter {c : BufNo} (hc : c = a ∨ c = d) (hne : c ≠ b) : settleRevocation c v = v :=
    settleRevocation_waits fun l hlive =>
      h c l hc hne ((congrArg BufRec.live (hothers c hne)).symm.trans hlive)
  unfold ascending settleRevocations
  by_cases had : a = d
  · subst had
    obtain rfl : b = a := hb.elim id id
    simp [hready]
  · rw [if_neg had]
    obtain rfl | rfl := hb
    · split <;> simp [hready, hbefore (.inr rfl) (Ne.symm had), hafter (.inr rfl) (Ne.symm had)]
    · split <;> simp [hready, hbefore (.inl rfl) had, hafter (.inl rfl) had]

theorem settleRevocations_both (hlt : b < c) (hbc : (b = a ∧ c = d) ∨ (b = d ∧ c = a)) :
    settleRevocations (ascending a d) u = settleRevocation c (settleRevocation b u) := by
  have hlt' : b.val < c.val := hlt
  unfold ascending settleRevocations
  obtain ⟨rfl, rfl⟩ | ⟨rfl, rfl⟩ := hbc
  · rw [if_neg (Fin.ne_of_lt hlt), if_pos hlt']; rfl
  · rw [if_neg (Fin.ne_of_gt hlt), if_neg (by omega)]; rfl

end

end Sys2Proof.Proofs

/-! A job-end report from its take to the end of its handling (R166). -/

namespace Sys2Proof.Proofs

open Sys2Proof Sys2Proof.Machine Sys2Proof.Safety

section
variable {s t u v w : State} {p q : Port} {a b c d : BufNo} {l l' : Live} {id : OfferId} {x y : Waiting}
  {xs : List Waiting} {r : Report} {rest : List Report} {res : Result} {rv : Revocation} {hp : HostPort}

/-! ### The records of a report -/

theorem sameTables_of_reportTaken (h : ReportTaken r rest res s u) : SameTables s u := by
  rw [h.frame]; exact ⟨rfl, rfl, rfl, rfl, rfl⟩

theorem recAt_of_reportTaken (h : ReportTaken r rest res s u) (hc : c = r.src.buf ∨ c = r.dst.buf)
    (hlive : liveAt s c = some l) : recAt u c = ⟨genAt s c, some (withoutMark l r.port)⟩ := by
  have hmark := h.records c
  rw [MarkOff, if_pos hc, recAt_of_liveAt hlive] at hmark
  exact hmark

theorem genAt_of_reportTaken (h : ReportTaken r rest res s u) (c : BufNo) : genAt u c = genAt s c := by
  have hmark := h.records c
  rw [MarkOff] at hmark
  rw [genAt, hmark]
  split
  · unfold unmarkedRec
    split <;> rfl
  · rfl

theorem not_ready_of_reportTaken (h : ReportTaken r rest res s u) (hc : c = r.src.buf ∨ c = r.dst.buf)
    (hwaits : ∀ l, liveAt s c = some l → NotSettledBy r.port l) (hlive : liveAt u c = some l) :
    revocationReady l = false := by
  cases hs : liveAt s c with
  | none =>
    have hmark := h.records c
    have hvacant : (recAt s c).live = none := hs
    rw [MarkOff, if_pos hc, unmarkedRec, hvacant] at hmark
    rw [liveAt, hmark, hvacant] at hlive
    cases hlive
  | some l₀ =>
    rw [liveAt, recAt_of_reportTaken h hc hs] at hlive
    obtain rfl : withoutMark l₀ r.port = l := Option.some.inj hlive
    exact revocationReady_notSettledBy (hwaits l₀ hs)

theorem exec_jobEndReport (hgrant : granted s .jobEnd = true) (h : takeReport s = v) :
    exec .jobEndReport s = .next (endHandling .jobEnd v) := by
  subst h
  exact (handling_next .jobEnd s takeReport _).2 (.inl ⟨hgrant, rfl⟩)

/-! ### One record settled -/

theorem takeReport_one (hreports : s.reports = r :: rest) (hb : b = r.src.buf ∨ b = r.dst.buf)
    (hlive : liveAt s b = some l) (hsettled : SettledBy r.port l rv)
    (hwaits : ∀ c l', c = r.src.buf ∨ c = r.dst.buf → c ≠ b → liveAt s c = some l' → NotSettledBy r.port l')
    (htaken : ReportTaken r rest res s (reportBegun r rest s))
    (hothers : OtherRecords b (reportBegun r rest s) (completeRevocation b (reportBegun r rest s))) :
    takeReport s = completeRevocation b (reportBegun r rest s) := by
  rw [takeReport_eq hreports]
  refine settleRevocations_one hb ?_ hothers fun c l' hc hne =>
    not_ready_of_reportTaken htaken hc fun l₀ => hwaits c l₀ hc hne
  exact settleRevocation_ready (congrArg BufRec.live (recAt_of_reportTaken htaken hb hlive))
    (revocationReady_settledBy hsettled)

/-- What the handling leaves when one revocation is completed. -/
theorem reported_completion (htaken : ReportTaken r rest res s u) (h : Completion x u v) :
    SameBytes s (endHandling .jobEnd v) ∧ (∀ c, c ≠ x.buf → MarkOff r s (endHandling .jobEnd v) c) ∧
      recAt (endHandling .jobEnd v) x.buf = settledRec s x ∧ Settled [x] s (endHandling .jobEnd v) ∧
      ∀ q, portAt (endHandling .jobEnd v) q = settledAt s q (reportedPort s r res q) x := by
  have hsame := sameTables_of_reportTaken htaken
  have hgen := genAt_of_reportTaken htaken x.buf
  refine ⟨fun a => ?_, fun c hc => ?_, ?_, settled_of_sameTables hsame (sameTables_endHandling .jobEnd v) h.settled,
    fun q => ?_⟩
  · rw [endHandling_mem, h.frame, htaken.frame]
  · rw [MarkOff, recAt_endHandling, h.others c hc]
    exact htaken.records c
  · rw [recAt_endHandling, h.record, settledRec_congr hgen]
  · rw [portAt_endHandling, h.ports, htaken.ports]
    exact settledAt_congr hgen fun id _ => by rw [offerAt, offerAt, hsame.offers]

/-- The frame of a handling that retires no record. -/
theorem reported_frame_kept (htaken : ReportTaken r rest res s u)
    (h : v = { u with ports := v.ports, buffers := v.buffers }) :
    endHandling .jobEnd v = { s with
      ports := (endHandling .jobEnd v).ports, buffers := (endHandling .jobEnd v).buffers, reports := rest,
      tcLast := .jobEnd, tcGrant := (endHandling .jobEnd v).tcGrant } := by
  have hframe := htaken.frame
  rw [endHandling_eq, h, hframe]

/-- The frame of a handling that retires records. -/
theorem reported_frame (htaken : ReportTaken r rest res s u)
    (h : v = { u with
      ports := v.ports, buffers := v.buffers, pageMap := v.pageMap, offers := v.offers,
      scrubQueue := v.scrubQueue, counts := v.counts, dir := v.dir }) :
    endHandling .jobEnd v = { s with
      ports := (endHandling .jobEnd v).ports, buffers := (endHandling .jobEnd v).buffers,
      pageMap := (endHandling .jobEnd v).pageMap, offers := (endHandling .jobEnd v).offers,
      scrubQueue := (endHandling .jobEnd v).scrubQueue, counts := (endHandling .jobEnd v).counts,
      dir := (endHandling .jobEnd v).dir, reports := rest, tcLast := .jobEnd,
      tcGrant := (endHandling .jobEnd v).tcGrant } := by
  have hframe := htaken.frame
  rw [endHandling_eq, h, hframe]

/-- The handling of a report with one revocation to complete, given what the completion leaves. -/
theorem jobEnd_completes (hgrant : granted s .jobEnd = true) (hreports : s.reports = r :: rest)
    (hb : x.buf = r.src.buf ∨ x.buf = r.dst.buf) (hlive : liveAt s x.buf = some l) (hsettled : SettledBy r.port l rv)
    (hwaits : ∀ c l', c = r.src.buf ∨ c = r.dst.buf → c ≠ x.buf → liveAt s c = some l' → NotSettledBy r.port l')
    (htaken : ReportTaken r rest res s (reportBegun r rest s))
    (h : Completion x (reportBegun r rest s) (completeRevocation x.buf (reportBegun r rest s))) :
    ∃ v, exec .jobEndReport s = .next (endHandling .jobEnd v) ∧ Completion x (reportBegun r rest s) v ∧
      SameBytes s (endHandling .jobEnd v) ∧ (∀ c, c ≠ x.buf → MarkOff r s (endHandling .jobEnd v) c) ∧
      recAt (endHandling .jobEnd v) x.buf = settledRec s x ∧ Settled [x] s (endHandling .jobEnd v) ∧
      ∀ q, portAt (endHandling .jobEnd v) q = settledAt s q (reportedPort s r res q) x :=
  ⟨_, exec_jobEndReport hgrant (takeReport_one hreports hb hlive hsettled hwaits htaken h.others), h,
    reported_completion htaken h⟩

theorem offerNames_of_settled (h : Settled xs s u) (hname : OfferNames s b l) : OfferNames u b l := by
  intro id o hst hoffer
  rw [h.2.2.2] at hoffer
  split at hoffer
  · cases hoffer
  · exact hname id o hst hoffer

theorem offerNames_of_sameTables (h : SameTables s u) (hname : OfferNames s b l) : OfferNames u b l :=
  fun id o hst hoffer => hname id o hst (by rwa [offerAt, h.offers] at hoffer)

/-- The pages of a retired record stand apart from those of the records retired before it. -/
theorem pages_apart (hnodup : (pagesEnded s (xs ++ [x])).Nodup) (hends : endsRecord x = true) :
    ∀ pg ∈ chainOf s x.live, pg ∉ pagesEnded s xs := by
  have happend : pagesEnded s (xs ++ [x]) = pagesEnded s xs ++ chainOf s x.live := by
    simp [pagesEnded, hends]
  rw [happend] at hnodup
  exact fun pg hpg hmem => (List.disjoint_of_nodup_append hnodup) hmem hpg

/-- The handling of a report with a revocation of each record to complete, in ascending number. -/
theorem takeReport_both {lb lc : Live} {rb rc : Revocation} (hreports : s.reports = r :: rest) (hlt : b < c)
    (hbc : (b = r.src.buf ∧ c = r.dst.buf) ∨ (b = r.dst.buf ∧ c = r.src.buf))
    (hlb : liveAt s b = some lb) (hsb : SettledBy r.port lb rb) (hlc : liveAt s c = some lc)
    (hsc : SettledBy r.port lc rc) (htaken : ReportTaken r rest res s (reportBegun r rest s))
    (hfb : RevocationFits ⟨b, withoutMark lb r.port, rb⟩) (hfc : RevocationFits ⟨c, withoutMark lc r.port, rc⟩)
    (hnb : OfferNames s b lb) (hnc : OfferNames s c lc) :
    ∃ v, Completion ⟨b, withoutMark lb r.port, rb⟩ (reportBegun r rest s) v ∧
      Settled [⟨b, withoutMark lb r.port, rb⟩] s v ∧
      Completion ⟨c, withoutMark lc r.port, rc⟩ v (takeReport s) := by
  have hbmem : b = r.src.buf ∨ b = r.dst.buf := hbc.imp And.left And.left
  have hcmem : c = r.src.buf ∨ c = r.dst.buf := (hbc.imp And.right And.right).symm
  have hsame := sameTables_of_reportTaken htaken
  have hlb' : liveAt (reportBegun r rest s) b = some (withoutMark lb r.port) :=
    congrArg BufRec.live (recAt_of_reportTaken htaken hbmem hlb)
  have hfirst := completion_of_fits (x := ⟨b, withoutMark lb r.port, rb⟩) hlb' hsb.1 hfb
    (offerNames_of_sameTables hsame hnb)
  have hsettled : Settled [⟨b, withoutMark lb r.port, rb⟩] s (completeRevocation b (reportBegun r rest s)) :=
    settled_of_sameTables hsame ⟨rfl, rfl, rfl, rfl, rfl⟩ hfirst.settled
  have hlc' : liveAt (completeRevocation b (reportBegun r rest s)) c = some (withoutMark lc r.port) :=
    congrArg BufRec.live ((hfirst.others c (Fin.ne_of_gt hlt)).trans (recAt_of_reportTaken htaken hcmem hlc))
  have htake : takeReport s = completeRevocation c (completeRevocation b (reportBegun r rest s)) := by
    rw [takeReport_eq hreports, settleRevocations_both hlt hbc,
      settleRevocation_ready hlb' (revocationReady_settledBy hsb),
      settleRevocation_ready hlc' (revocationReady_settledBy hsc)]
  rw [htake]
  exact ⟨_, hfirst, hsettled, completion_of_fits (x := ⟨c, withoutMark lc r.port, rc⟩) hlc' hsc.1 hfc
    (offerNames_of_settled hsettled hnc)⟩

end

/-- Settles O40. -/
theorem jobEndRule : Obligations.JobEndRule := by
  unfold Obligations.JobEndRule
  refine ⟨fun s r rest res hgrant hreports hwaits haborted hown => ?none,
    fun s r rest b l rv h hp hgrant hreports hb hlive hsettled hh hwaits hhp => ?one,
    fun s r rest b c lb lc rb rc x y hgrant hreports hlt hbc hlb hsb hlc hsc hx hy hfx hfy hnx hny hnodup => ?both⟩
  case none =>
    have hres : reportResult s r = res := by
      by_cases hany : ∃ c l rv, (c = r.src.buf ∨ c = r.dst.buf) ∧ liveAt s c = some l ∧
          l.pendingRev = some rv ∧ waitsFor l rv r.port = true
      · obtain ⟨c, l, rv, hc, hlive, hrev, hwait⟩ := hany
        rw [haborted c l rv hc hlive hrev hwait, reportResult_aborted hc hlive hrev hwait]
      · have hno : ∀ c l rv, c = r.src.buf ∨ c = r.dst.buf → liveAt s c = some l → l.pendingRev = some rv →
            waitsFor l rv r.port = false := fun c l rv hc hlive hrev =>
          Bool.eq_false_iff.2 fun hwait => hany ⟨c, l, rv, hc, hlive, hrev, hwait⟩
        rw [hown hno, reportResult_own hno]
    have htaken := reportTaken_begun (rest := rest) hres
    have htake : takeReport s = reportBegun r rest s := by
      rw [takeReport_eq hreports]
      exact settleRevocations_none fun c l hc =>
        not_ready_of_reportTaken htaken hc fun l₀ => hwaits c l₀ hc
    have hexec := exec_jobEndReport hgrant htake
    generalize reportBegun r rest s = u at htaken hexec
    refine ⟨_, hexec, reported_frame_kept htaken rfl, fun a => by rw [endHandling_mem, htaken.frame],
      fun c => ?_, fun q => ?_⟩
    · rw [MarkOff, recAt_endHandling]; exact htaken.records c
    · rw [portAt_endHandling]; exact htaken.ports q
  case one =>
    obtain ⟨hrev, hmarked, -⟩ := id hsettled
    have htaken := reportTaken_begun (rest := rest) (reportResult_aborted hb hlive hrev hmarked)
    have hlive' : liveAt (reportBegun r rest s) b = some (withoutMark l r.port) :=
      congrArg BufRec.live (recAt_of_reportTaken htaken hb hlive)
    have hcompletes {x : Waiting} (hx : x.buf = b)
        (hc : Completion x (reportBegun r rest s) (completeRevocation x.buf (reportBegun r rest s))) :=
      jobEnd_completes hgrant hreports (x := x) (hx ▸ hb) (hx ▸ hlive) hsettled (hx ▸ hwaits) htaken hc
    subst hh
    refine ⟨fun q hkind hborrower howner => ?expiry, fun hkind hborrower howner => ?returned,
      fun m hkind hst howner => ?left, fun hkind => ?retired, fun hkind hnames => ?freed⟩
    case expiry =>
      subst hkind
      obtain ⟨v, hexec, hc, hbytes, hmarks, hrecord, -, hports⟩ :=
        hcompletes rfl (completion_expiry hlive' (hrev : (withoutMark l r.port).pendingRev = _) hborrower)
      simp only [← hhp] at hports
      refine ⟨_, hexec, reported_frame_kept htaken (hc.kept rfl), hbytes, hmarks,
        hrecord.trans (settledRec_returned rfl (not_held_of_borrower hborrower)), ?_, ?_, fun z hz hzo => ?_⟩
      · rw [hports]; simp [settledAt, withoutMark, howner]
      · rw [hports]; simp [settledAt, withoutMark, howner.symm]
      · rw [hports]; simp [settledAt, withoutMark, Ne.symm hz, Ne.symm hzo]
    case returned =>
      subst hkind
      have hends : endsRecord ⟨b, withoutMark l r.port, ⟨.teardown, r.port⟩⟩ = false := by
        simp [endsRecord, withoutMark, howner.symm]
      have hheld : isHeld (withoutMark l r.port) = false := isHeld_of_borrower hborrower
      obtain ⟨v, hexec, hc, hbytes, hmarks, hrecord, -, hports⟩ :=
        hcompletes rfl (completion_returned hlive' hrev howner hborrower)
      simp only [← hhp] at hports
      refine ⟨_, hexec, reported_frame_kept htaken (hc.kept hends), hbytes, hmarks,
        hrecord.trans (settledRec_returned hends (not_held_of_borrower hborrower)), ?_, ?_, fun z hz hzo => ?_⟩
      · rw [hports]; simp [settledAt, withoutMark, howner, howner.symm]
      · rw [hports]; simp [settledAt, hheld]; simp [withoutMark, howner.symm]
      · rw [hports]; simp [settledAt, withoutMark, howner.symm, Ne.symm hz, Ne.symm hzo]
    case left =>
      subst hkind
      have hends : endsRecord ⟨b, withoutMark l r.port, ⟨.teardown, r.port⟩⟩ = false := by
        simp [endsRecord, withoutMark, howner.symm]
      have hheld : isHeld (withoutMark l r.port) = true := by simp [isHeld, withoutMark, hst]
      obtain ⟨v, hexec, hc, hbytes, hmarks, hrecord, -, hports⟩ :=
        hcompletes rfl (completion_left hlive' hrev howner hst)
      simp only [← hhp] at hports
      refine ⟨_, hexec, reported_frame_kept htaken (hc.kept hends), hbytes, hmarks,
        hrecord.trans (settledRec_left hends hst), ?_, ?_, fun z hz hzo => ?_⟩
      · rw [hports]; simp [settledAt, withoutMark, howner, howner.symm]
      · rw [hports]; simp [settledAt, hheld]; simp [withoutMark, howner.symm]
      · rw [hports]; simp [settledAt, withoutMark, howner.symm, Ne.symm hz, Ne.symm hzo]
    case retired =>
      subst hkind
      have hends : endsRecord ⟨b, withoutMark l r.port, ⟨.teardown, l.owner⟩⟩ = true := by
        simp [endsRecord, withoutMark]
      obtain ⟨v, hexec, hc, hbytes, hmarks, hrecord, hsettle, hports⟩ :=
        hcompletes rfl (completion_retired hlive' hrev)
      simp only [← hhp] at hports
      obtain ⟨hpages, hcounts, hdir⟩ := settled_one_ends hends hsettle
      have haccess (q : Port) : access (withoutMark l r.port) q = access l q := access_congr rfl rfl
      refine ⟨_, hexec, ?_, hbytes, hmarks, ?_, hpages, hcounts, fun q => ?_⟩
      · have hoffers : (endHandling .jobEnd v).offers = s.offers :=
          (sameTables_endHandling .jobEnd v).offers.trans
            ((hc.offersKept (by simp)).trans (sameTables_of_reportTaken htaken).offers)
        have hframe := reported_frame htaken hc.frame
        rw [hoffers, hdir] at hframe
        exact hframe
      · exact hrecord.trans (settledRec_ends hends)
      · rw [hports]; simp [settledAt, haccess]
    case freed =>
      obtain ⟨kind, z⟩ := rv
      obtain rfl : kind = .forceFree := hkind
      have hname : OfferNames (reportBegun r rest s) b (withoutMark l r.port) := fun id o hst hoffer =>
        hnames id o hst (by rwa [offerAt, (sameTables_of_reportTaken htaken).offers] at hoffer)
      obtain ⟨v, hexec, hc, hbytes, hmarks, hrecord, hsettle, hports⟩ :=
        hcompletes rfl (completion_freed hlive' hrev hname)
      simp only [← hhp] at hports
      obtain ⟨hpages, hcounts, hdir⟩ := settled_one_ends rfl hsettle
      have hframe := reported_frame htaken hc.frame
      rw [hdir] at hframe
      refine ⟨_, hexec, hframe, hbytes, hmarks, hrecord.trans (settledRec_ends rfl), hpages, hcounts,
        fun id => ?_, hports⟩
      rw [hsettle.2.2.2]
      simp [withoutMark]
  case both =>
    subst hx hy
    have hne : c ≠ b := Fin.ne_of_gt hlt
    have htaken := reportTaken_begun (rest := rest)
      (reportResult_aborted (hbc.imp And.left And.left) hlb hsb.1 hsb.2.1)
    have hsame := sameTables_of_reportTaken htaken
    obtain ⟨v, hfirst, hsettled, hsecond⟩ :=
      takeReport_both hreports hlt hbc hlb hsb hlc hsc htaken hfx hfy hnx hny
    have hexec := exec_jobEndReport hgrant rfl
    have hgenb := genAt_of_reportTaken htaken b
    have hgenc := (congrArg BufRec.gen (hfirst.others c hne)).trans (genAt_of_reportTaken htaken c)
    generalize takeReport s = w at *
    generalize reportBegun r rest s = u at *
    have hboth : Settled [⟨b, withoutMark lb r.port, rb⟩, ⟨c, withoutMark lc r.port, rc⟩] s w :=
      settled_append hsettled hsecond.settled fun hends =>
        chainOf_settled hsettled (pages_apart (xs := [⟨b, withoutMark lb r.port, rb⟩]) hnodup hends)
    refine ⟨_, hexec, ?_, fun a => ?_,
      settled_of_sameTables ⟨rfl, rfl, rfl, rfl, rfl⟩ (sameTables_endHandling .jobEnd w) hboth, ?_, ?_,
      fun d hdb hdc => ?_, fun q => ?_⟩
    · refine reported_frame htaken ?_
      rw [hsecond.frame, hfirst.frame]
    · rw [endHandling_mem, hsecond.frame, hfirst.frame, htaken.frame]
    · rw [recAt_endHandling, hsecond.others b hne.symm, hfirst.record]
      exact settledRec_congr hgenb
    · rw [recAt_endHandling, hsecond.record]
      exact settledRec_congr hgenc
    · rw [recAt_endHandling, hsecond.others d hdc, hfirst.others d hdb, htaken.records d, if_neg ?_]
      rintro (rfl | rfl)
      · exact hbc.elim (fun h => hdb h.1.symm) fun h => hdc h.2.symm
      · exact hbc.elim (fun h => hdc h.2.symm) fun h => hdb h.1.symm
    · rw [portAt_endHandling, hsecond.ports, hfirst.ports, htaken.ports]
      have hinner {hp : HostPort} : settledAt u q hp ⟨b, withoutMark lb r.port, rb⟩ =
          settledAt s q hp ⟨b, withoutMark lb r.port, rb⟩ :=
        settledAt_congr hgenb fun id _ => by rw [offerAt, offerAt, hsame.offers]
      rw [hinner]
      refine settledAt_congr hgenc fun id hst => offerAt_settled hsettled ?_ ?_ hny hst
      · rintro y hy
        rw [List.mem_singleton.1 hy]
        exact hne.symm
      · rintro y hy
        rw [List.mem_singleton.1 hy]
        exact hnx

end Sys2Proof.Proofs

/-! The copies that FORCE_FREE ends in HOLD (R169, R198 step 2). -/

namespace Sys2Proof.Proofs

open Sys2Proof Sys2Proof.Machine Sys2Proof.Safety

section
variable {s t u v w σ : State} {p q : Port} {b c src dst : BufNo} {l l' : Live} {x y : Waiting} {n : Nat}
  {xs : List Waiting} {ps done : List Port} {hp : HostPort} {res : Result} {area : List Byte} {notice : Notice} {h : Handle}

/-! ### A completion and the notices and voids of a revocation do not meet -/

theorem completed_notified : completed (notified hp notice) res area = notified (completed hp res area) notice := by
  unfold completed notified appended answered
  by_cases hbusy : hp.cmd.state = .busy <;> by_cases hatt : hp.state = .attached <;>
    by_cases hroom : hp.queue.length < 16 <;> simp [hbusy, hatt, hroom]

theorem completed_voided : completed (voided hp h) res area = voided (completed hp res area) h := by
  unfold completed answered voided onSlots
  by_cases hbusy : hp.cmd.state = .busy <;> simp [hbusy]

theorem completed_withdrawnAt :
    completed (withdrawnAt s b l q hp) res area = withdrawnAt s b l q (completed hp res area) := by
  unfold withdrawnAt
  split
  · split
    · rfl
    · split
      · exact completed_notified
      · rfl
  · rfl

theorem completed_settledAt : completed (settledAt s q hp x) res area = settledAt s q (completed hp res area) x := by
  unfold settledAt freedAt forcedAt
  cases x.rev.kind with
  | forceFree =>
    simp only
    split <;> simp only [completed_notified, completed_voided, completed_withdrawnAt]
  | expiry =>
    simp only
    split <;> split <;> simp only [completed_notified, completed_voided]
  | teardown =>
    simp only
    split
    · split <;> simp only [completed_notified, completed_voided]
    · split <;> split <;> simp only [completed_notified, completed_voided]

theorem completed_foldl : completed (xs.foldl (settledAt s q) hp) res area =
    xs.foldl (settledAt s q) (completed hp res area) := by
  induction xs generalizing hp with
  | nil => rfl
  | cons x xs ih => rw [List.foldl_cons, List.foldl_cons, ih, completed_settledAt]

/-! ### One copy ended -/

/-- The state after a port's copy is ended for a freed record, before the other record is looked at
(R169, R198 step 2). -/
def copyDropped (b : BufNo) (u : State) (p : Port) : State :=
  match copyHeld u p with
  | none => unmark b p u
  | some (src, dst, n) => u |> dropCopy p |> complete p .aborted [byteOf n] |> unmark src p |> unmark dst p

theorem endCopyNow_none (h : copyHeld u p = none) : endCopyNow b u p = copyDropped b u p := by
  simp [endCopyNow, copyDropped, h]

theorem endCopyNow_held (h : copyHeld u p = some (src, dst, n)) : endCopyNow b u p =
    if (if src = b then dst else src) = b then copyDropped b u p
    else settleRevocation (if src = b then dst else src) (copyDropped b u p) := by
  simp [endCopyNow, copyDropped, h]

/-- What the end of a port's copy leaves, the freed record apart. -/
structure CopyDropped (b : BufNo) (p : Port) (u v : State) : Prop where
  frame : v = { u with ports := v.ports, buffers := v.buffers, jobs := v.jobs, reports := v.reports }
  jobs : ∀ q, jobAt v q = if q = p then none else jobAt u q
  reports : v.reports = u.reports.filter (fun x => x.port != p)
  freed : recAt v b = recAt u b ∨ recAt v b = unmarkedRec (recAt u b) p
  others : ∀ c, c ≠ b → recAt v c = if copyNames u p c then unmarkedRec (recAt u c) p else recAt u c
  ports : ∀ q, portAt v q = if q = p then copyEndedPort u p else portAt u q

theorem unmarkedRec_twice (r : BufRec) (p : Port) : unmarkedRec (unmarkedRec r p) p = unmarkedRec r p := by
  cases hlive : r.live <;> simp [unmarkedRec, hlive]

theorem copyDropped_effect (b : BufNo) (p : Port) (u : State) : CopyDropped b p u (copyDropped b u p) := by
  cases hheld : copyHeld u p with
  | none =>
    have hdrop : copyDropped b u p = unmark b p u := by simp [copyDropped, hheld]
    have hjob : jobAt u p = none := by
      unfold copyHeld at hheld
      split at hheld
      · cases hheld
      · assumption
    have hreports : ∀ x ∈ u.reports, x.port ≠ p := by
      simpa [copyHeld, hjob] using hheld
    rw [hdrop]
    refine ⟨by rw [unmark_frame], fun q => ?_, ?_, .inr (by rw [recAt_unmark, if_pos rfl]), fun c hc => ?_, fun q => ?_⟩
    · rw [unmark_frame]
      split
      · next hq => rw [hq]; exact hjob
      · rfl
    · rw [unmark_frame]
      exact (List.filter_eq_self.2 fun x hx => by simp [hreports x hx]).symm
    · rw [recAt_unmark, if_neg hc]
      simp [copyNames, hheld]
    · rw [unmark_frame]
      split
      · next hq => subst hq; simp [copyEndedPort, hheld]; rfl
      · rfl
  | some held =>
    obtain ⟨src, dst, n⟩ := held
    have hdrop : copyDropped b u p =
        unmark dst p (unmark src p (complete p .aborted [byteOf n] (dropCopy p u))) := by
      simp [copyDropped, hheld]
    have hframe : copyDropped b u p = { complete p .aborted [byteOf n] (dropCopy p u) with
        buffers := (copyDropped b u p).buffers } := by
      rw [hdrop, unmark_frame, unmark_frame]
    have hrec (c : BufNo) : recAt (copyDropped b u p) c =
        if c = src ∨ c = dst then unmarkedRec (recAt u c) p else recAt u c := by
      rw [hdrop, recAt_unmark, recAt_unmark]
      by_cases hd : c = dst
      · by_cases hs : c = src
        · rw [if_pos hd, if_pos hs, if_pos (.inl hs), unmarkedRec_twice]; rfl
        · rw [if_pos hd, if_neg hs, if_pos (.inr hd)]; rfl
      · by_cases hs : c = src
        · rw [if_neg hd, if_pos hs, if_pos (.inl hs)]; rfl
        · rw [if_neg hd, if_neg hs, if_neg (not_or.2 ⟨hs, hd⟩)]; rfl
    refine ⟨by rw [hframe]; rfl, fun q => ?_, by rw [hframe]; rfl, ?_, fun c _ => ?_, fun q => ?_⟩
    · rw [hframe]
      exact perGet_perSet _ _ _ _
    · rw [hrec]; split
      · exact .inr rfl
      · exact .inl rfl
    · rw [hrec]
      simp [copyNames, hheld, @eq_comm _ src c, @eq_comm _ dst c]
    · rw [hframe]
      refine portAt_complete_iff.trans ?_
      split
      · next hq => subst hq; simp [copyEndedPort, hheld]
      · rfl

end

end Sys2Proof.Proofs

/-! The run of FORCE_FREE over the copies that it ends (R169, R198 step 2): what holds after each. -/

namespace Sys2Proof.Proofs

open Sys2Proof Sys2Proof.Machine Sys2Proof.Safety

section
variable {s t u v w σ : State} {p q : Port} {b c src dst : BufNo} {l lc m : Live} {x y : Waiting} {n : Nat}
  {xs : List Waiting} {ps done rest : List Port} {hp : HostPort} {r : BufRec} {rv : Revocation}

/-! ### Marks that go one after the other -/

/-- A live record without the marks of the copies ended so far (R169). -/
def droppedMarks (σ : State) (done : List Port) (c : BufNo) (l : Live) : Live :=
  { l with marks := perOf (fun q => perGet l.marks q && !(decide (q ∈ done) && copyNames σ q c)) }

/-- A record without those marks. -/
def droppedRec (σ : State) (done : List Port) (c : BufNo) : BufRec :=
  match liveAt σ c with
  | none => recAt σ c
  | some l => ⟨genAt σ c, some (droppedMarks σ done c l)⟩

theorem droppedMarks_of_marks (σ : State) (done : List Port) (c : BufNo) (l : Live) {marks : PortSet}
    (h : ∀ q, perGet marks q = (perGet l.marks q && !(decide (q ∈ done) && copyNames σ q c))) :
    ({ l with marks := marks } : Live) = droppedMarks σ done c l := by
  have hmarks : marks = perOf (fun q => perGet l.marks q && !(decide (q ∈ done) && copyNames σ q c)) :=
    per_ext fun q => by rw [h, perGet_perOf]
  rw [droppedMarks, hmarks]

theorem droppedMarks_nil : droppedMarks σ [] c l = l :=
  (droppedMarks_of_marks σ [] c l (marks := l.marks) fun q => by simp).symm

theorem droppedMarks_named (h : copyNames σ p c = true) :
    withoutMark (droppedMarks σ done c l) p = droppedMarks σ (done ++ [p]) c l := by
  refine droppedMarks_of_marks σ (done ++ [p]) c l (marks := perSet (droppedMarks σ done c l).marks p false) fun q => ?_
  by_cases hq : q = p
  · subst hq; simp [h]
  · simp [droppedMarks, hq]

theorem droppedMarks_other (h : copyNames σ p c = false) :
    droppedMarks σ (done ++ [p]) c l = droppedMarks σ done c l := by
  refine (droppedMarks_of_marks σ (done ++ [p]) c l (marks := (droppedMarks σ done c l).marks) fun q => ?_).symm
  by_cases hq : q = p
  · subst hq; simp [droppedMarks, h]
  · simp [droppedMarks, hq]

theorem copiesEndedLive_eq (σ : State) (marks : PortSet) (c : BufNo) (l : Live) :
    copiesEndedLive σ marks c l = droppedMarks σ (portsIn marks) c l :=
  droppedMarks_of_marks σ (portsIn marks) c l fun q => by
    rw [perGet_perOf]
    by_cases hq : perGet marks q = true
    · simp [hq, (mem_portsIn marks q).2 hq]
    · have hout : q ∉ portsIn marks := fun h => hq ((mem_portsIn marks q).1 h)
      simp [hq, hout]

theorem droppedRec_vacant (h : liveAt σ c = none) : droppedRec σ done c = recAt σ c := by simp [droppedRec, h]

theorem droppedRec_live (h : liveAt σ c = some l) :
    droppedRec σ done c = ⟨genAt σ c, some (droppedMarks σ done c l)⟩ := by simp [droppedRec, h]

theorem unmarkedRec_dropped : (if copyNames σ p c then unmarkedRec (droppedRec σ done c) p else droppedRec σ done c) =
    droppedRec σ (done ++ [p]) c := by
  cases hlive : liveAt σ c with
  | none =>
    have hvacant : (recAt σ c).live = none := hlive
    simp [droppedRec_vacant hlive, unmarkedRec, hvacant]
  | some l =>
    rw [droppedRec_live hlive, droppedRec_live hlive]
    cases hnames : copyNames σ p c with
    | false => simp [droppedMarks_other hnames]
    | true => rw [if_pos rfl, ← droppedMarks_named hnames]; rfl

theorem unmarkedRec_settledRec : unmarkedRec (settledRec σ ⟨c, l, rv⟩) p = settledRec σ ⟨c, withoutMark l p, rv⟩ := by
  have hsame : endsRecord ⟨c, withoutMark l p, rv⟩ = endsRecord ⟨c, l, rv⟩ := rfl
  unfold settledRec
  rw [hsame]
  cases endsRecord ⟨c, l, rv⟩ <;> rfl

theorem unmarkedRec_settled :
    (if copyNames σ p c then unmarkedRec (settledRec σ ⟨c, droppedMarks σ done c l, rv⟩) p
      else settledRec σ ⟨c, droppedMarks σ done c l, rv⟩) =
      settledRec σ ⟨c, droppedMarks σ (done ++ [p]) c l, rv⟩ := by
  cases hnames : copyNames σ p c with
  | false => simp [droppedMarks_other hnames]
  | true =>
    rw [if_pos rfl, unmarkedRec_settledRec, droppedMarks_named hnames]

/-! ### What holds after some of the copies -/

/-- What the ends of the copies of some ports leave of a state, with the revocations completed on the
way (R169, R198 step 2). -/
structure CopiesEnded (b : BufNo) (l : Live) (σ : State) (done : List Port) (xs : List Waiting) (u : State) :
    Prop where
  frame : u = { σ with
    ports := u.ports, buffers := u.buffers, pageMap := u.pageMap, offers := u.offers,
    scrubQueue := u.scrubQueue, counts := u.counts, dir := u.dir, jobs := u.jobs, reports := u.reports }
  jobs : ∀ q, jobAt u q = if q ∈ done then none else jobAt σ q
  reports : u.reports = σ.reports.filter (fun x => decide (x.port ∉ done))
  apart : ∀ y ∈ xs, y.buf ≠ b
  freed : ∃ l', recAt u b = ⟨genAt σ b, some l'⟩ ∧ SameBody l l' ∧ l'.st = l.st
  unsettled : ∀ c, c ≠ b → (∀ y ∈ xs, y.buf ≠ c) → recAt u c = droppedRec σ done c
  settledRecs : ∀ y ∈ xs, ∀ lc, liveAt σ y.buf = some lc →
    recAt u y.buf = settledRec σ ⟨y.buf, droppedMarks σ done y.buf lc, y.rev⟩
  settled : Settled xs σ u
  ports : ∀ q, portAt u q = xs.foldl (settledAt σ q) (if q ∈ done then copyEndedPort σ q else portAt σ q)

theorem copiesEnded_nil (hlive : liveAt σ b = some l) : CopiesEnded b l σ [] [] σ := by
  refine ⟨rfl, fun _ => rfl, by simp, by simp, ⟨l, recAt_of_liveAt hlive, ⟨rfl, rfl, rfl, rfl⟩, rfl⟩,
    fun c _ _ => ?_, by simp, settled_nil σ, fun _ => rfl⟩
  cases hc : liveAt σ c with
  | none => exact (droppedRec_vacant hc).symm
  | some lc => rw [droppedRec_live hc, droppedMarks_nil]; exact recAt_of_liveAt hc

/-- The copy of a port whose turn has not come stands as at the start. -/
theorem CopiesEnded.held (h : CopiesEnded b l σ done xs u) (hp : p ∉ done) : copyHeld u p = copyHeld σ p := by
  have hjob : jobAt u p = jobAt σ p := by rw [h.jobs, if_neg hp]
  have hfind : u.reports.find? (fun r => r.port = p) = σ.reports.find? (fun r => r.port = p) := by
    rw [h.reports, List.find?_filter]
    congr 1
    funext x
    by_cases hx : x.port = p
    · simp [hx, hp]
    · simp [hx]
  simp only [copyHeld, hjob, hfind]

theorem CopiesEnded.drop (h : CopiesEnded b l σ done xs u) (hp : p ∉ done) :
    CopiesEnded b l σ (done ++ [p]) xs (copyDropped b u p) := by
  have hheld := h.held hp
  have hnames (c : BufNo) : copyNames u p c = copyNames σ p c := by simp only [copyNames, hheld]
  obtain ⟨hframe, hjobs, hreports, hfreed, hothers, hports⟩ := copyDropped_effect b p u
  generalize copyDropped b u p = v at *
  have hsame : SameTables u v := by rw [hframe]; exact ⟨rfl, rfl, rfl, rfl, rfl⟩
  refine ⟨?frame, fun q => ?jobs, ?reports, h.apart, ?freed, fun c hc hout => ?unsettled,
    fun y hy lc hlive => ?settledRecs, settled_of_sameTables ⟨rfl, rfl, rfl, rfl, rfl⟩ hsame h.settled,
    fun q => ?ports⟩
  case frame => rw [hframe, h.frame]
  case jobs =>
    rw [hjobs, h.jobs]
    by_cases hq : q = p
    · simp [hq]
    · simp [hq]
  case reports =>
    rw [hreports, h.reports, List.filter_filter]
    refine List.filter_congr fun x _ => Bool.eq_iff_iff.2 ?_
    simp [and_comm]
  case freed =>
    obtain ⟨l', hrec, hbody, hst⟩ := h.freed
    obtain hsame | hunmarked := hfreed
    · exact ⟨l', hsame.trans hrec, hbody, hst⟩
    · obtain ⟨howner, hlength, hhead, htail⟩ := hbody
      exact ⟨withoutMark l' p, by rw [hunmarked, hrec]; rfl, ⟨howner, hlength, hhead, htail⟩, hst⟩
  case unsettled => rw [hothers c hc, hnames, h.unsettled c hc hout, unmarkedRec_dropped]
  case settledRecs =>
    rw [hothers y.buf (h.apart y hy), hnames, h.settledRecs y hy lc hlive, unmarkedRec_settled]
  case ports =>
    rw [hports]
    by_cases hq : q = p
    · subst hq
      rw [if_pos rfl, if_pos (List.mem_append_right _ (List.mem_singleton.2 rfl))]
      have hport : portAt u q = xs.foldl (settledAt σ q) (portAt σ q) := by rw [h.ports, if_neg hp]
      cases hcopy : copyHeld σ q with
      | none => simp [copyEndedPort, hheld, hcopy, hport]
      | some held =>
        obtain ⟨src, dst, n⟩ := held
        simp [copyEndedPort, hheld, hcopy, hport, completed_foldl]
    · rw [if_neg hq, h.ports]
      simp [hq]

end

end Sys2Proof.Proofs

/-! The revocations that are completed while FORCE_FREE ends its copies (R198 step 2). -/

namespace Sys2Proof.Proofs

open Sys2Proof Sys2Proof.Machine Sys2Proof.Safety

section
variable {s t u v w σ : State} {p q : Port} {b c src dst : BufNo} {l lc m : Live} {x y : Waiting} {n : Nat}
  {xs : List Waiting} {ps done rest : List Port} {hp : HostPort} {r : BufRec} {rv : Revocation}

/-! ### Marks do not matter to a completion -/

theorem settled_like {l' : Live} (howner : l'.owner = l.owner) (hst : l'.st = l.st) (hlength : l'.length = l.length)
    (hhead : l'.head = l.head) (h : Settled [⟨c, l, rv⟩] u v) : Settled [⟨c, l', rv⟩] u v := by
  obtain ⟨owner, st, length, head, tail, marks, pending, forced⟩ := l
  obtain ⟨owner', st', length', head', tail', marks', pending', forced'⟩ := l'
  simp only at howner hst hlength hhead
  subst howner hst hlength hhead
  exact h

theorem settledAt_like {l' : Live} (howner : l'.owner = l.owner) (hst : l'.st = l.st) :
    settledAt s q hp ⟨c, l', rv⟩ = settledAt s q hp ⟨c, l, rv⟩ := by
  obtain ⟨owner, st, length, head, tail, marks, pending, forced⟩ := l
  obtain ⟨owner', st', length', head', tail', marks', pending', forced'⟩ := l'
  simp only at howner hst
  subst howner hst
  rfl

theorem revocationFits_like {l' : Live} (howner : l'.owner = l.owner) (hst : l'.st = l.st)
    (h : RevocationFits ⟨c, l, rv⟩) : RevocationFits ⟨c, l', rv⟩ := by
  obtain ⟨owner, st, length, head, tail, marks, pending, forced⟩ := l
  obtain ⟨owner', st', length', head', tail', marks', pending', forced'⟩ := l'
  simp only at howner hst
  subst howner hst
  exact h

/-! ### One revocation completed on the way -/

theorem genAt_of_unsettled (h : CopiesEnded b l σ done xs u) (hc : c ≠ b) (hnew : ∀ y ∈ xs, y.buf ≠ c) :
    genAt u c = genAt σ c := by
  rw [genAt, h.unsettled c hc hnew]
  cases hlive : liveAt σ c with
  | none => rw [droppedRec_vacant hlive]; rfl
  | some lc => rw [droppedRec_live hlive]

theorem CopiesEnded.settle (h : CopiesEnded b l σ done xs u) (hc : c ≠ b) (hnew : ∀ y ∈ xs, y.buf ≠ c)
    (hlive : liveAt σ c = some lc) (hrev : lc.pendingRev = some rv)
    (hfits : RevocationFits ⟨c, droppedMarks σ ps c lc, rv⟩) (hname : OfferNames σ c lc)
    (hnames : ∀ y ∈ xs, OfferNames σ y.buf y.live)
    (hpages : endsRecord ⟨c, droppedMarks σ ps c lc, rv⟩ = true → ∀ pg ∈ chainOf σ lc, pg ∉ pagesEnded σ xs) :
    CopiesEnded b l σ done (xs ++ [⟨c, droppedMarks σ ps c lc, rv⟩]) (completeRevocation c u) := by
  have hrec := h.unsettled c hc hnew
  rw [droppedRec_live hlive] at hrec
  have hgen := genAt_of_unsettled h hc hnew
  have hdone := completion_of_fits (x := ⟨c, droppedMarks σ done c lc, rv⟩) (congrArg BufRec.live hrec) hrev
    (revocationFits_like rfl rfl hfits) (offerNames_of_settled h.settled hname)
  generalize completeRevocation c u = v at *
  refine ⟨?frame, fun q => ?jobs, ?reports, fun y hy => ?apart, ?freed, fun d hd hout => ?unsettled,
    fun y hy ly hly => ?settledRecs, ?settled, fun q => ?ports⟩
  case frame => rw [hdone.frame, h.frame]
  case jobs => rw [hdone.frame]; exact h.jobs q
  case reports => rw [hdone.frame]; exact h.reports
  case apart =>
    obtain hy | hy := List.mem_append.1 hy
    · exact h.apart y hy
    · rw [List.mem_singleton.1 hy]; exact hc
  case freed =>
    obtain ⟨l', hb, hbody⟩ := h.freed
    exact ⟨l', (hdone.others b hc.symm).trans hb, hbody⟩
  case unsettled =>
    have hdc : d ≠ c := fun hdc => hout _ (List.mem_append_right _ (List.mem_singleton.2 rfl)) hdc.symm
    rw [hdone.others d hdc]
    exact h.unsettled d hd fun y hy => hout y (List.mem_append_left _ hy)
  case settledRecs =>
    obtain hy | hy := List.mem_append.1 hy
    · rw [hdone.others y.buf (hnew y hy)]
      exact h.settledRecs y hy ly hly
    · obtain rfl := List.mem_singleton.1 hy
      obtain rfl : lc = ly := Option.some.inj (hlive.symm.trans hly)
      exact hdone.record.trans (settledRec_congr hgen)
  case settled =>
    refine settled_append h.settled (settled_like rfl rfl rfl rfl hdone.settled) fun hends => ?_
    exact chainOf_settled (l := lc) h.settled (hpages hends)
  case ports =>
    rw [hdone.ports, h.ports, List.foldl_append, List.foldl_cons, List.foldl_nil]
    refine (settledAt_congr hgen fun id hst => ?_).trans (settledAt_like rfl rfl)
    exact offerAt_settled h.settled hnew hnames hname hst

/-! ### Which revocation the end of a copy completes -/

/-- The other record of a copy (R169). -/
def otherBuf (b src dst : BufNo) : BufNo := if src = b then dst else src

/-- The ports that a revocation waits for, all with copies of the record that have ended (R198). -/
def LastWaiting (σ : State) (m : Live) (c : BufNo) (lc : Live) (rv : Revocation) (q : Port) : Prop :=
  perGet m.marks q = true ∧ waitsFor lc rv q = true ∧
    ∀ r, waitsFor lc rv r = true → perGet m.marks r = true ∧ copyNames σ r c = true ∧ portNum r ≤ portNum q

theorem allPorts_all_iff (f : Port → Bool) : allPorts.all f = true ↔ ∀ r, f r = true := by
  rw [List.all_eq_true]
  exact ⟨fun h r => h r (mem_allPorts r), fun h r _ => h r⟩

theorem lastWaiting_iff : LastWaiting σ m c lc rv q ↔ perGet m.marks q = true ∧ waitsFor lc rv q = true ∧
    allPorts.all (fun r => !waitsFor lc rv r ||
      (perGet m.marks r && copyNames σ r c && portNum r ≤ portNum q)) = true := by
  rw [allPorts_all_iff, LastWaiting]
  refine and_congr_right fun _ => and_congr_right fun _ => forall_congr' fun r => ?_
  cases waitsFor lc rv r <;> simp [and_assoc]

theorem settledWith_none_held (h : copyHeld σ q = none) : settledWith σ b m q = none := by
  simp [settledWith, h]

theorem settledWith_vacant (hheld : copyHeld σ q = some (src, dst, n)) (h : liveAt σ (otherBuf b src dst) = none) :
    settledWith σ b m q = none := by
  rw [otherBuf] at h
  simp [settledWith, hheld, h]

theorem settledWith_settled (hheld : copyHeld σ q = some (src, dst, n))
    (hlive : liveAt σ (otherBuf b src dst) = some lc) (hrev : lc.pendingRev = none) : settledWith σ b m q = none := by
  rw [otherBuf] at hlive
  simp [settledWith, hheld, hlive, hrev]

theorem settledWith_waiting (hheld : copyHeld σ q = some (src, dst, n)) (hc : otherBuf b src dst = c)
    (hlive : liveAt σ c = some lc) (hrev : lc.pendingRev = some rv) :
    (c ≠ b → LastWaiting σ m c lc rv q →
      settledWith σ b m q = some ⟨c, droppedMarks σ (portsIn m.marks) c lc, rv⟩) ∧
    (¬(c ≠ b ∧ LastWaiting σ m c lc rv q) → settledWith σ b m q = none) := by
  have hiff := lastWaiting_iff (σ := σ) (m := m) (c := c) (lc := lc) (rv := rv) (q := q)
  have hcases : settledWith σ b m q = if c ≠ b ∧ perGet m.marks q = true ∧ waitsFor lc rv q = true ∧
      allPorts.all (fun r => !waitsFor lc rv r ||
        (perGet m.marks r && copyNames σ r c && portNum r ≤ portNum q)) = true then
        some ⟨c, copiesEndedLive σ m.marks c lc, rv⟩ else none := by
    subst hc
    rw [otherBuf] at hlive
    simp only [settledWith, hheld, hlive, hrev]
    rfl
  rw [hcases, ← copiesEndedLive_eq]
  exact ⟨fun hne hlast => if_pos ⟨hne, hiff.1 hlast⟩, fun hno => if_neg fun h => hno ⟨h.1, hiff.2 h.2⟩⟩

/-- What the end of a copy completes, when it completes anything. -/
theorem settledWith_eq_some (h : settledWith σ b m q = some y) : ∃ src dst n lc rv,
    copyHeld σ q = some (src, dst, n) ∧ otherBuf b src dst = y.buf ∧ liveAt σ y.buf = some lc ∧
      lc.pendingRev = some rv ∧ y.buf ≠ b ∧ LastWaiting σ m y.buf lc rv q ∧
      y = ⟨y.buf, droppedMarks σ (portsIn m.marks) y.buf lc, rv⟩ := by
  cases hheld : copyHeld σ q with
  | none => rw [settledWith_none_held hheld] at h; cases h
  | some held =>
    obtain ⟨src, dst, n⟩ := held
    cases hlive : liveAt σ (otherBuf b src dst) with
    | none => rw [settledWith_vacant hheld hlive] at h; cases h
    | some lc =>
      cases hrev : lc.pendingRev with
      | none => rw [settledWith_settled hheld hlive hrev] at h; cases h
      | some rv =>
        obtain ⟨hsome, hnone⟩ := settledWith_waiting (m := m) hheld rfl hlive hrev
        by_cases hlast : otherBuf b src dst ≠ b ∧ LastWaiting σ m (otherBuf b src dst) lc rv q
        · rw [hsome hlast.1 hlast.2] at h
          obtain rfl := Option.some.inj h
          exact ⟨src, dst, n, lc, rv, rfl, rfl, hlive, hrev, hlast.1, hlast.2, rfl⟩
        · rw [hnone hlast] at h; cases h

/-! ### One copy, with the revocation it may complete -/

/-- What FORCE_FREE needs of the copies that it ends, beyond the laws (log 28): of each that names a
record with a revocation, that record is the copy's other one and the revocation waits for a mark; the
revocations that it completes fit their records, whose offers name them and whose chains stand apart. -/
structure CopiesFit (b : BufNo) (m : Live) (σ : State) : Prop where
  other : ∀ q src dst n c lc, perGet m.marks q = true → copyHeld σ q = some (src, dst, n) →
    copyNames σ q c = true → c ≠ b → liveAt σ c = some lc → lc.pendingRev ≠ none → otherBuf b src dst = c
  waits : ∀ c lc rv q, c ≠ b → liveAt σ c = some lc → lc.pendingRev = some rv →
    perGet m.marks q = true → copyNames σ q c = true → ∃ r, waitsFor lc rv r = true
  fits : ∀ y ∈ othersSettled σ b m, RevocationFits y ∧ OfferNames σ y.buf y.live
  apart : ∀ xs y ys, othersSettled σ b m = xs ++ y :: ys → endsRecord y = true →
    ∀ pg ∈ chainOf σ y.live, pg ∉ pagesEnded σ xs

theorem exists_last {P : Port → Prop} (h : ∃ r, P r) : ∃ r, P r ∧ ∀ q, P q → portNum q ≤ portNum r := by
  by_contra hno
  push Not at hno
  have habove (k : Nat) : ∃ r, P r ∧ k ≤ portNum r := by
    induction k with
    | zero => exact h.imp fun r hr => ⟨hr, Nat.zero_le _⟩
    | succ k ih =>
      obtain ⟨r, hr, hk⟩ := ih
      obtain ⟨q, hq, hlt⟩ := hno r hr
      exact ⟨q, hq, by omega⟩
  obtain ⟨r, -, hr⟩ := habove 4
  cases r <;> simp [portNum] at hr

theorem pairwise_portsIn (marks : PortSet) : (portsIn marks).Pairwise (fun p q => portNum p < portNum q) :=
  List.Pairwise.filter _ (by decide)

theorem othersSettled_eq : othersSettled σ b m = (portsIn m.marks).filterMap (settledWith σ b m) := by
  rw [portsIn, List.filterMap_filter, othersSettled]
  refine List.filterMap_congr fun q _ => ?_
  split
  · rfl
  · next hmark =>
    cases hy : settledWith σ b m q with
    | none => rfl
    | some y =>
      obtain ⟨_, _, _, _, _, _, _, _, _, _, ⟨hmark', -⟩, -⟩ := settledWith_eq_some hy
      exact absurd hmark' hmark

theorem waitsFor_dropped {r : Port} : waitsFor (droppedMarks σ done c l) rv r =
    (waitsFor l rv r && !(decide (r ∈ done) && copyNames σ r c)) := by
  have hretires : retires (droppedMarks σ done c l) rv = retires l rv := rfl
  have hmarks : perGet (droppedMarks σ done c l).marks r =
      (perGet l.marks r && !(decide (r ∈ done) && copyNames σ r c)) := perGet_perOf _ r
  simp only [waitsFor, hretires, hmarks, Bool.and_right_comm]

theorem live_settledRec_pendingRev (h : (settledRec σ x).live = some l) : l.pendingRev = none := by
  cases hends : endsRecord x with
  | true => rw [settledRec_ends hends] at h; cases h
  | false =>
    rw [settledRec, if_neg (by simp [hends])] at h
    obtain rfl := Option.some.inj h
    rfl

theorem copyNames_other (hheld : copyHeld σ p = some (src, dst, n)) : copyNames σ p (otherBuf b src dst) = true := by
  by_cases hs : src = b
  · simp [copyNames, hheld, otherBuf, hs]
  · simp [copyNames, hheld, otherBuf, hs]

/-- A copy that completes no revocation leaves the other record's, if any, waiting. -/
theorem CopiesEnded.waits (hfit : CopiesFit b m σ) (hmark : perGet m.marks p = true)
    (hdone : ∀ q ∈ done, perGet m.marks q = true)
    (h : CopiesEnded b l σ (done ++ [p]) (done.filterMap (settledWith σ b m)) v)
    (hheld : copyHeld σ p = some (src, dst, n)) (hc : otherBuf b src dst = c) (hne : c ≠ b)
    (hnone : settledWith σ b m p = none) {l' : Live} (hlive' : liveAt v c = some l') : revocationReady l' = false := by
  by_cases hset : ∃ y ∈ done.filterMap (settledWith σ b m), y.buf = c
  · obtain ⟨y, hy, rfl⟩ := hset
    obtain ⟨q, -, hq⟩ := List.mem_filterMap.1 hy
    obtain ⟨_, _, _, lc, rv, -, -, hlive, -⟩ := settledWith_eq_some hq
    rw [liveAt, h.settledRecs y hy lc hlive] at hlive'
    simp [revocationReady, live_settledRec_pendingRev hlive']
  · push Not at hset
    have hrec := h.unsettled c hne hset
    cases hlive : liveAt σ c with
    | none =>
      rw [liveAt, hrec, droppedRec_vacant hlive] at hlive'
      cases hlive.symm.trans hlive'
    | some lc =>
      rw [liveAt, hrec, droppedRec_live hlive] at hlive'
      obtain rfl := Option.some.inj hlive'
      cases hrev : lc.pendingRev with
      | none => simp [revocationReady, droppedMarks, hrev]
      | some rv =>
        have hname : copyNames σ p c = true := hc ▸ copyNames_other hheld
        obtain ⟨r, hr, hlast⟩ := exists_last (hfit.waits c lc rv p hne hlive hrev hmark hname)
        rw [Bool.eq_false_iff]
        intro hready
        have hended : ∀ q, waitsFor lc rv q = true → q ∈ done ++ [p] ∧ copyNames σ q c = true := by
          intro q hq
          have hno := (revocationReady_iff (l := droppedMarks σ (done ++ [p]) c lc) hrev).1 hready q
          simpa only [waitsFor_dropped, hq, Bool.true_and, Bool.not_eq_false', Bool.and_eq_true,
            decide_eq_true_eq] using hno
        have hmarked : ∀ q ∈ done ++ [p], perGet m.marks q = true := by
          intro q hq
          obtain hq | hq := List.mem_append.1 hq
          · exact hdone q hq
          · rw [List.mem_singleton.1 hq]; exact hmark
        obtain ⟨hrdone, hrname⟩ := hended r hr
        have hwaiting : LastWaiting σ m c lc rv r := ⟨hmarked r hrdone, hr, fun q hq =>
          ⟨hmarked q (hended q hq).1, (hended q hq).2, hlast q hq⟩⟩
        obtain ⟨⟨src', dst', n'⟩, hheld'⟩ : ∃ held, copyHeld σ r = some held := by
          rw [← Option.ne_none_iff_exists']
          intro hno
          simp [copyNames, hno] at hrname
        have hother := hfit.other r src' dst' n' c lc (hmarked r hrdone) hheld' hrname hne hlive (by simp [hrev])
        have hsome := (settledWith_waiting (m := m) hheld' hother hlive hrev).1 hne hwaiting
        obtain hr' | hr' := List.mem_append.1 hrdone
        · exact hset _ (List.mem_filterMap.2 ⟨r, hr', hsome⟩) rfl
        · rw [List.mem_singleton.1 hr', hnone] at hsome
          cases hsome

/-- A revocation whose ports have all had their copies ended waits no longer (R166 step 4). -/
theorem revocationReady_lastWaiting (hrev : lc.pendingRev = some rv) (hlast : LastWaiting σ m c lc rv p)
    (hdone : ∀ q, perGet m.marks q = true → portNum q ≤ portNum p → q ∈ done) :
    revocationReady (droppedMarks σ done c lc) = true := by
  refine (revocationReady_iff (l := droppedMarks σ done c lc) hrev).2 fun q => ?_
  rw [waitsFor_dropped]
  cases hq : waitsFor lc rv q with
  | false => rfl
  | true =>
    obtain ⟨hmark, hname, hle⟩ := hlast.2.2 q hq
    simp [hdone q hmark hle, hname]

/-- A revocation that waits for a port is not completed by the copies of earlier ports. -/
theorem not_settled_before (hlt : ∀ q ∈ done, portNum q < portNum p) (hlive : liveAt σ c = some lc)
    (hrev : lc.pendingRev = some rv) (hwait : waitsFor lc rv p = true) :
    ∀ z ∈ done.filterMap (settledWith σ b m), z.buf ≠ c := by
  rintro z hz rfl
  obtain ⟨q, hq, hsome⟩ := List.mem_filterMap.1 hz
  obtain ⟨_, _, _, lz, rz, -, -, hlz, hrz, -, ⟨-, -, hlast⟩, -⟩ := settledWith_eq_some hsome
  obtain rfl := Option.some.inj (hlive.symm.trans hlz)
  obtain rfl := Option.some.inj (hrev.symm.trans hrz)
  exact absurd (hlt q hq) (Nat.not_lt.2 (hlast p hwait).2.2)

/-- The end of one port's copy (R198 step 2), with the revocation that it completes. -/
theorem CopiesEnded.step (hfit : CopiesFit b m σ) (hps : portsIn m.marks = done ++ p :: rest)
    (h : CopiesEnded b l σ done (done.filterMap (settledWith σ b m)) u) :
    CopiesEnded b l σ (done ++ [p]) ((done ++ [p]).filterMap (settledWith σ b m)) (endCopyNow b u p) := by
  have hmarked : ∀ q ∈ done ++ p :: rest, perGet m.marks q = true := fun q hq =>
    (mem_portsIn m.marks q).1 (hps ▸ hq)
  have hmark := hmarked p (by simp)
  have hdone : ∀ q ∈ done, perGet m.marks q = true := fun q hq => hmarked q (List.mem_append_left _ hq)
  obtain ⟨-, hafter, hbefore⟩ := List.pairwise_append.1 (hps ▸ pairwise_portsIn m.marks)
  have hlt : ∀ q ∈ done, portNum q < portNum p := fun q hq => hbefore q hq p List.mem_cons_self
  have hnew : p ∉ done := fun hp => Nat.lt_irrefl _ (hlt p hp)
  have hdrop := h.drop hnew
  have hheldu := h.held hnew
  have happend : (done ++ [p]).filterMap (settledWith σ b m) =
      done.filterMap (settledWith σ b m) ++ (settledWith σ b m p).toList := by
    rw [List.filterMap_append]
    cases hy : settledWith σ b m p <;> simp [hy]
  have hsettled : othersSettled σ b m = done.filterMap (settledWith σ b m) ++
      ((settledWith σ b m p).toList ++ rest.filterMap (settledWith σ b m)) := by
    rw [othersSettled_eq, hps, List.filterMap_append, List.filterMap_cons]
    cases hy : settledWith σ b m p <;> simp
  rw [happend]
  cases hheld : copyHeld σ p with
  | none =>
    rw [settledWith_none_held hheld, endCopyNow_none (hheldu.trans hheld)]
    simpa using hdrop
  | some held =>
    obtain ⟨src, dst, n⟩ := held
    have hnow := endCopyNow_held (b := b) (hheldu.trans hheld)
    rw [← otherBuf] at hnow
    cases hy : settledWith σ b m p with
    | none =>
      have hsame : endCopyNow b u p = copyDropped b u p := by
        rw [hnow]
        split
        · rfl
        · next hne => exact settleRevocation_waits fun l' => hdrop.waits hfit hmark hdone hheld rfl hne hy
      rw [hsame]
      simpa using hdrop
    | some y =>
      obtain ⟨src', dst', n', lc, rv, hheld', hbuf, hlive, hrev, hne, hlast, hshape⟩ :=
        settledWith_eq_some hy
      obtain ⟨rfl, rfl, rfl⟩ : src = src' ∧ dst = dst' ∧ n = n' := by
        simpa using hheld.symm.trans hheld'
      rw [hbuf, if_neg hne] at hnow
      have hmem : y ∈ othersSettled σ b m := by rw [hsettled, hy]; simp
      have hout := not_settled_before (b := b) (m := m) hlt hlive hrev hlast.2.1
      have hrec := hdrop.unsettled y.buf hne hout
      rw [droppedRec_live hlive] at hrec
      have hended : ∀ q, perGet m.marks q = true → portNum q ≤ portNum p → q ∈ done ++ [p] := by
        intro q hqmark hqle
        have hqps : q ∈ done ++ p :: rest := hps ▸ (mem_portsIn m.marks q).2 hqmark
        simp only [List.mem_append, List.mem_cons, List.not_mem_nil, or_false] at hqps ⊢
        refine hqps.imp_right (Or.resolve_right · fun hqrest => ?_)
        exact absurd ((List.pairwise_cons.1 hafter).1 q hqrest) (Nat.not_lt.2 hqle)
      have hready := revocationReady_lastWaiting hrev hlast hended
      rw [settleRevocation_ready (congrArg BufRec.live hrec) hready] at hnow
      rw [hnow, Option.toList_some]
      obtain ⟨hfits, hname⟩ := hfit.fits y hmem
      rw [hshape] at hfits hname ⊢
      refine hdrop.settle hne hout hlive hrev hfits hname (fun z hz => ?_) fun hends => ?_
      · refine (hfit.fits z ?_).2
        rw [hsettled]
        exact List.mem_append_left _ hz
      · have hapart := hfit.apart _ y _ (by rw [hsettled, hy]; rfl)
        rw [hshape] at hapart
        exact hapart hends

/-- The end of all the copies that mark the freed record (R198 step 2). -/
theorem copiesEnded_all (hfit : CopiesFit b m σ) (hlive : liveAt σ b = some l) :
    CopiesEnded b l σ (portsIn m.marks) (othersSettled σ b m) (endCopiesNow b m σ) := by
  have hrun : ∀ rest done u, portsIn m.marks = done ++ rest →
      CopiesEnded b l σ done (done.filterMap (settledWith σ b m)) u →
      CopiesEnded b l σ (portsIn m.marks) (othersSettled σ b m) (rest.foldl (endCopyNow b) u) := by
    intro rest
    induction rest with
    | nil =>
      intro done u hps h
      rw [List.append_nil] at hps
      rw [othersSettled_eq, hps]
      exact h
    | cons p rest ih =>
      intro done u hps h
      exact ih (done ++ [p]) (endCopyNow b u p) (by rw [hps]; simp) (h.step hfit hps)
  exact hrun (portsIn m.marks) [] σ rfl (copiesEnded_nil hlive)

end

end Sys2Proof.Proofs

/-! The obligation on FORCE_FREE (R198). -/

namespace Sys2Proof.Proofs

open Sys2Proof Sys2Proof.Machine Sys2Proof.Safety

section
variable {s t u v w σ : State} {p q : Port} {b c : BufNo} {l l' l₁ m : Live} {x y : Waiting} {n : Nat}
  {xs : List Waiting} {rv : Revocation} {psb data : List Byte}

/-! ### The removal of the offer and the copies -/

theorem copyHeld_of_offerRemoved (h : OfferRemoved b l s σ) (q : Port) : copyHeld σ q = copyHeld s q := by
  have hframe := h.frame
  rw [hframe]
  rfl

theorem liveAt_of_offerRemoved (h : OfferRemoved b l s σ) (hc : c ≠ b) : liveAt σ c = liveAt s c :=
  congrArg BufRec.live (h.others c hc)

theorem genAt_of_offerRemoved (h : OfferRemoved b l s σ) (c : BufNo) : genAt σ c = genAt s c := by
  by_cases hc : c = b
  · obtain ⟨l', hrec, -⟩ := h.record
    rw [hc, genAt, hrec]
  · exact congrArg BufRec.gen (h.others c hc)

theorem copyNames_congr (hheld : ∀ q, copyHeld σ q = copyHeld s q) (q : Port) (c : BufNo) :
    copyNames σ q c = copyNames s q c := by
  simp only [copyNames, hheld]

theorem copiesEndedLive_congr (hheld : ∀ q, copyHeld σ q = copyHeld s q) (marks : PortSet) :
    copiesEndedLive σ marks c l = copiesEndedLive s marks c l := by
  simp only [copiesEndedLive, copyNames_congr hheld]

theorem settledWith_congr (hheld : ∀ q, copyHeld σ q = copyHeld s q) (hlive : ∀ c, c ≠ b → liveAt σ c = liveAt s c)
    (q : Port) : settledWith σ b m q = settledWith s b m q := by
  have hlast (c : BufNo) (lc : Live) (rv : Revocation) : LastWaiting σ m c lc rv q ↔ LastWaiting s m c lc rv q := by
    simp only [LastWaiting, copyNames_congr hheld]
  cases hcopy : copyHeld s q with
  | none => rw [settledWith_none_held hcopy, settledWith_none_held ((hheld q).trans hcopy)]
  | some held =>
    obtain ⟨src, dst, n⟩ := held
    have hcopy' := (hheld q).trans hcopy
    by_cases hc : otherBuf b src dst = b
    · have hnone (τ : State) (h : copyHeld τ q = some (src, dst, n)) : settledWith τ b m q = none := by
        cases hy : settledWith τ b m q with
        | none => rfl
        | some y =>
          obtain ⟨src', dst', n', _, _, hheld', hbuf, -, -, hne, -⟩ := settledWith_eq_some hy
          obtain ⟨rfl, rfl, -⟩ : src = src' ∧ dst = dst' ∧ n = n' := by simpa using h.symm.trans hheld'
          exact absurd (hbuf.symm.trans hc) hne
      rw [hnone s hcopy, hnone σ hcopy']
    · cases hl : liveAt s (otherBuf b src dst) with
      | none => rw [settledWith_vacant hcopy hl, settledWith_vacant hcopy' ((hlive _ hc).trans hl)]
      | some lc =>
        have hl' := (hlive _ hc).trans hl
        cases hrev : lc.pendingRev with
        | none => rw [settledWith_settled hcopy hl hrev, settledWith_settled hcopy' hl' hrev]
        | some rv =>
          obtain ⟨hsome, hnone⟩ := settledWith_waiting (m := m) hcopy rfl hl hrev
          obtain ⟨hsome', hnone'⟩ := settledWith_waiting (m := m) hcopy' rfl hl' hrev
          by_cases hwait : LastWaiting s m (otherBuf b src dst) lc rv q
          · rw [hsome hc hwait, hsome' hc ((hlast _ _ _).2 hwait), ← copiesEndedLive_eq, ← copiesEndedLive_eq,
              copiesEndedLive_congr hheld]
          · rw [hnone fun h => hwait h.2, hnone' fun h => hwait ((hlast _ _ _).1 h.2)]

theorem othersSettled_congr (hheld : ∀ q, copyHeld σ q = copyHeld s q)
    (hlive : ∀ c, c ≠ b → liveAt σ c = liveAt s c) : othersSettled σ b m = othersSettled s b m :=
  List.filterMap_congr fun q _ => settledWith_congr hheld hlive q

theorem offerNames_of_removed (h : OfferRemoved b l s σ) (hname : OfferNames s c l') : OfferNames σ c l' := by
  intro id o hst hoffer
  rw [h.offers id] at hoffer
  split at hoffer
  · cases hoffer
  · exact hname id o hst hoffer

theorem pageMap_of_offerRemoved (h : OfferRemoved b l s σ) : σ.pageMap = s.pageMap := by
  have hframe := h.frame
  rw [hframe]

theorem copiesFit_of_removed (h : OfferRemoved b l s σ) (hfit : CopiesFit b m s) : CopiesFit b m σ := by
  have hheld := copyHeld_of_offerRemoved h
  have hlive (c : BufNo) (hc : c ≠ b) : liveAt σ c = liveAt s c := liveAt_of_offerRemoved h hc
  have hsettled : othersSettled σ b m = othersSettled s b m := othersSettled_congr hheld hlive
  refine ⟨fun q src dst n c lc hmark hcopy hname hc hl => ?_, fun c lc rv q hc hl hrev hmark hname => ?_,
    fun y hy => ?_, fun xs y ys hxs hends pg hpg => ?_⟩
  · exact hfit.other q src dst n c lc hmark (hheld q ▸ hcopy) (copyNames_congr hheld q c ▸ hname) hc (hlive c hc ▸ hl)
  · exact hfit.waits c lc rv q hc (hlive c hc ▸ hl) hrev hmark (copyNames_congr hheld q c ▸ hname)
  · obtain ⟨hfits, hname⟩ := hfit.fits y (hsettled ▸ hy)
    exact ⟨hfits, offerNames_of_removed h hname⟩
  · rw [chainOf, pageMap_of_offerRemoved h] at hpg
    rw [pagesEnded_congr (pageMap_of_offerRemoved h)]
    exact hfit.apart xs y ys (hsettled ▸ hxs) hends pg hpg

/-! ### The whole of an immediate FORCE_FREE -/

/-- What an immediate FORCE_FREE leaves (R198 steps 1 to 4). -/
structure FreedNow (b : BufNo) (l : Live) (s t : State) : Prop where
  frame : t = { s with
    ports := t.ports, buffers := t.buffers, pageMap := t.pageMap, offers := t.offers,
    scrubQueue := t.scrubQueue, counts := t.counts, dir := t.dir, jobs := t.jobs,
    reports := s.reports.filter (fun x => !perGet l.marks x.port) }
  settled : Settled (othersSettled s b l ++ [⟨b, l, ⟨.forceFree, l.owner⟩⟩]) s t
  record : recAt t b = ⟨genAt s b + 1, none⟩
  unsettled : ∀ c, c ≠ b → (∀ y ∈ othersSettled s b l, y.buf ≠ c) → recAt t c = copiesEndedRec s l.marks c
  settledRecs : ∀ y ∈ othersSettled s b l, recAt t y.buf = settledRec s y
  jobs : ∀ q, jobAt t q = if perGet l.marks q then none else jobAt s q
  ports : ∀ q, portAt t q = forcedAt s b l q ((othersSettled s b l).foldl (settledAt s q)
    (withdrawnAt s b l q (if perGet l.marks q then copyEndedPort s q else portAt s q)))

theorem sameBody_of_lifted (h : OfferLifted l l') : SameBody l l' := by
  obtain rfl | ⟨-, rfl⟩ := h
  · exact ⟨rfl, rfl, rfl, rfl⟩
  · exact ⟨rfl, rfl, rfl, rfl⟩

/-- The tables after the removal of an offer, some completions and a retirement. -/
theorem settled_freed (hremoved : OfferRemoved b l s σ) (h : Settled xs σ u) (howner : l'.owner = l.owner)
    (hlength : l'.length = l.length) (hhead : l'.head = l.head)
    (hapart : ∀ pg ∈ chainOf s l, pg ∉ pagesEnded s xs) :
    Settled (xs ++ [⟨b, l, ⟨.forceFree, l.owner⟩⟩]) s (retire b l' .forceFree none u) := by
  have hframe := hremoved.frame
  have hmap := pageMap_of_offerRemoved hremoved
  have hchainσ : chainOf σ l = chainOf s l := by rw [chainOf, chainOf, hmap]
  have hchain : chainOf u l' = chainOf s l := by
    have hsame : chainOf u l' = chainOf u l := by rw [chainOf, chainOf, hlength, hhead]
    rw [hsame, chainOf_settled h (by rw [hchainσ, pagesEnded_congr hmap]; exact hapart), hchainσ]
  obtain ⟨⟨hqueue, hentries⟩, hcounts, hdir, hoffers⟩ := h
  obtain ⟨hqueue', hentries'⟩ := pagesScrubbed_retire b l' .forceFree none u
  have hpages : pagesEnded s (xs ++ [⟨b, l, ⟨.forceFree, l.owner⟩⟩]) = pagesEnded s xs ++ chainOf s l := by
    simp [pagesEnded, endsRecord]
  rw [pagesEnded_congr hmap] at hqueue hentries
  refine ⟨⟨?_, fun pg => ?_⟩, fun q => ?_, ?_, fun id => ?_⟩
  · rw [hqueue', hqueue, hchain, hpages, List.append_assoc, hframe]
  · rw [hentries', hentries, hchain, hpages, hframe]
    by_cases hpg : pg ∈ chainOf s l
    · rw [if_pos hpg, if_pos (List.mem_append_right _ hpg)]
    · simp only [List.mem_append, hpg, or_false]
      rfl
  · rw [countsAt_retire, howner, hlength, hcounts, hframe, List.foldl_append]
    simp [endsRecord, @eq_comm _ l.owner q]
    rfl
  · rw [dir_retire, hdir, List.filter_filter, hframe]
    refine List.filter_congr fun e _ => Bool.eq_iff_iff.2 ?_
    simp [endsRecord, @eq_comm _ b, and_comm]
  · refine (hoffers id).trans ?_
    rw [hremoved.offers id, List.any_append]
    by_cases hst : l.st = .offered id <;> simp [hst]

theorem droppedRec_removed (h : OfferRemoved b l s σ) (hc : c ≠ b) :
    droppedRec σ (portsIn l.marks) c = copiesEndedRec s l.marks c := by
  have hlive := liveAt_of_offerRemoved h hc
  cases hl : liveAt s c with
  | none =>
    rw [droppedRec_vacant (hlive.trans hl), h.others c hc]
    simp [copiesEndedRec, hl]
  | some lc =>
    rw [droppedRec_live (hlive.trans hl), genAt_of_offerRemoved h, ← copiesEndedLive_eq,
      copiesEndedLive_congr (copyHeld_of_offerRemoved h)]
    simp [copiesEndedRec, hl]

theorem copyEndedPort_removed (h : OfferRemoved b l s σ) (q : Port) :
    copyEndedPort σ q = withdrawnAt s b l q (copyEndedPort s q) := by
  have hheld := copyHeld_of_offerRemoved h q
  cases hcopy : copyHeld s q with
  | none =>
    simp only [copyEndedPort, hheld, hcopy]
    exact h.ports q
  | some held =>
    obtain ⟨src, dst, n⟩ := held
    simp only [copyEndedPort, hheld, hcopy, h.ports q]
    exact completed_withdrawnAt

theorem settledAt_removed {hp : HostPort} (h : OfferRemoved b l s σ) (hname : OfferNames s b l) (hne : y.buf ≠ b)
    (hyname : OfferNames s y.buf y.live) : settledAt σ q hp y = settledAt s q hp y := by
  refine settledAt_congr (genAt_of_offerRemoved h y.buf) fun id hst => ?_
  rw [h.offers id]
  split
  · next hl =>
    cases hoffer : offerAt s id with
    | none => rfl
    | some o => exact absurd ((hyname id o hst hoffer).symm.trans (hname id o hl hoffer)) hne
  · rfl

theorem forceFreeNow_live (h : liveAt (endCopiesNow b l (removeOffer b l s)) b = some l') :
    forceFreeNow b l s =
      retire b { l' with pendingRev := none } .forceFree none (endCopiesNow b l (removeOffer b l s)) := by
  simp [forceFreeNow, h]

theorem freedNow (hlive : liveAt s b = some l) (hname : OfferNames s b l) (hfit : CopiesFit b l s)
    (hapart : ∀ pg ∈ chainOf s l, pg ∉ pagesEnded s (othersSettled s b l)) :
    FreedNow b l s (forceFreeNow b l s) := by
  have hremoved := offerRemoved hlive hname
  obtain ⟨l₁, hrec₁, hlifted⟩ := hremoved.record
  obtain ⟨howner₁, hlength₁, hhead₁, -⟩ := sameBody_of_lifted hlifted
  have hcopies := copiesEnded_all (copiesFit_of_removed hremoved hfit) (congrArg BufRec.live hrec₁)
  rw [othersSettled_congr (copyHeld_of_offerRemoved hremoved) fun c => liveAt_of_offerRemoved hremoved] at hcopies
  have hmembers : ∀ y ∈ othersSettled s b l, y ∈ othersSettled (removeOffer b l s) b l := fun y hy => by
    rwa [othersSettled_congr (copyHeld_of_offerRemoved hremoved) fun c => liveAt_of_offerRemoved hremoved]
  obtain ⟨l', hrec', ⟨howner', hlength', hhead', -⟩, hst'⟩ := hcopies.freed
  rw [forceFreeNow_live (congrArg BufRec.live hrec')]
  generalize endCopiesNow b l (removeOffer b l s) = u at *
  generalize removeOffer b l s = σ at *
  have howner : l'.owner = l.owner := howner'.trans howner₁
  have haccess (q : Port) : access { l' with pendingRev := none } q = access l q :=
    (access_congr hst' howner').trans (access_of_lifted hlifted)
  have hgen : genAt u b = genAt s b := by rw [genAt, hrec']; exact genAt_of_offerRemoved hremoved b
  have hothers {c : BufNo} (hc : c ≠ b) :
      recAt (retire b { l' with pendingRev := none } .forceFree none u) c = recAt u c := by
    rw [recAt_retire, if_neg hc]
  refine ⟨?frame, settled_freed hremoved hcopies.settled howner (hlength'.trans hlength₁) (hhead'.trans hhead₁) hapart,
    ?record, fun c hc hout => ?unsettled, fun y hy => ?settledRecs, fun q => ?jobs, fun q => ?ports⟩
  case frame =>
    have hframe := hcopies.frame
    have hframe' := hremoved.frame
    have hreports : u.reports = s.reports.filter (fun x => !perGet l.marks x.port) := by
      rw [hcopies.reports, hframe']
      refine List.filter_congr fun x _ => Bool.eq_iff_iff.2 ?_
      simp [mem_portsIn]
    rw [hreports] at hframe
    rw [retire_frame, hframe, hframe']
  case record => rw [recAt_retire, if_pos rfl, hgen]
  case unsettled =>
    rw [hothers hc, hcopies.unsettled c hc hout, droppedRec_removed hremoved hc]
  case settledRecs =>
    obtain ⟨q, -, hq⟩ := List.mem_filterMap.1 (hmembers y hy)
    obtain ⟨_, _, _, lc, rv, -, -, hlc, -, -, -, hshape⟩ := settledWith_eq_some hq
    have hrev : y.rev = rv := by rw [hshape]
    rw [hothers (hcopies.apart y hy), hcopies.settledRecs y hy lc hlc, hrev, ← hshape]
    exact settledRec_congr (genAt_of_offerRemoved hremoved y.buf)
  case jobs =>
    rw [jobAt_retire, hcopies.jobs]
    have hjob : jobAt σ q = jobAt s q := by rw [hremoved.frame]; rfl
    simp [mem_portsIn, hjob]
  case ports =>
    rw [portAt_retire_forced, hcopies.ports, forcedAt_congr (haccess q) howner hgen]
    congr 1
    have hstart : (if q ∈ portsIn l.marks then copyEndedPort σ q else portAt σ q) =
        withdrawnAt s b l q (if perGet l.marks q then copyEndedPort s q else portAt s q) := by
      by_cases hq : perGet l.marks q = true
      · rw [if_pos ((mem_portsIn l.marks q).2 hq), if_pos hq, copyEndedPort_removed hremoved]
      · rw [if_neg fun h => hq ((mem_portsIn l.marks q).1 h), if_neg hq, hremoved.ports]
    rw [hstart]
    exact List.foldl_ext _ _ _ fun hp y hy =>
      settledAt_removed hremoved hname (hcopies.apart y hy) (hfit.fits y hy).2

/-! ### The answers of FORCE_FREE -/

theorem forceFreeAnswer_now (hnum : numAt psb 0 = b.val) (hlive : liveAt s b = some l)
    (hwhen : isEmptySet l.marks = true ∨ s.hold = true) :
    forceFreeAnswer psb s = .ok (forceFreeNow b l s, forceFreeData s b l) := by
  have hnot : (!s.hold && !isEmptySet l.marks) = false := by
    obtain h | h := hwhen <;> simp [h]
  simp [forceFreeAnswer, bufNoOf_eq_some.2 hnum, hlive, hnot]

theorem forceFreeAnswer_waits (hnum : numAt psb 0 = b.val) (hlive : liveAt s b = some l)
    (hmarks : isEmptySet l.marks = false) (hhold : s.hold = false) :
    forceFreeAnswer psb s = .ok (awaitRetirement b l ⟨.forceFree, l.owner⟩ s, forceFreeData s b l) := by
  simp [forceFreeAnswer, bufNoOf_eq_some.2 hnum, hlive, hmarks, hhold]

theorem length_portsIn (marks : PortSet) : (portsIn marks).length = setCount marks := by
  obtain ⟨a, b, c, d⟩ := marks
  cases a <;> cases b <;> cases c <;> cases d <;> rfl

theorem forceFreeData_eq (s : State) (b : BufNo) (l : Live) : forceFreeData s b l =
    handleBytes ⟨b, genAt s b⟩ ++ [portByte l.owner, byteOf l.length, byteOf (setCount l.marks)] := by
  rw [forceFreeData, length_portsIn]
  rfl

theorem awaitRetirement_forceFree : awaitRetirement b l ⟨.forceFree, l.owner⟩ s =
    stopJobs (portsIn l.marks) (setLive b { l with pendingRev := some (forceFreeRevocation l) } s) := by
  cases hrev : l.pendingRev with
  | none => simp [awaitRetirement, forceFreeRevocation, hrev]
  | some old =>
    obtain ⟨kind, q⟩ := old
    cases kind with
    | forceFree => simp [awaitRetirement, forceFreeRevocation, hrev, retires]
    | expiry => simp [awaitRetirement, forceFreeRevocation, hrev, retires]
    | teardown => by_cases hq : q = l.owner <;> simp [awaitRetirement, forceFreeRevocation, hrev, retires, hq]

/-- The handling of an immediate FORCE_FREE, from what it leaves before it ends. -/
theorem exec_forceFree (h : MaintReady s .forceFree psb) (hnum : numAt psb 0 = b.val) (hlive : liveAt s b = some l)
    (hwhen : isEmptySet l.marks = true ∨ s.hold = true) :
    exec .forceFree s = .next (endHandling .maintenance
      { forceFreeNow b l s with maint := .ready .ok (handleBytes ⟨b, genAt s b⟩ ++
        [portByte l.owner, byteOf l.length, byteOf (setCount l.marks)]) }) := by
  have hanswer := forceFreeAnswer_now hnum hlive hwhen
  rw [forceFreeData_eq] at hanswer
  exact maintHandling_answered (f := fun ps => some (forceFreeAnswer ps s)) h (congrArg some hanswer)

end

end Sys2Proof.Proofs

/-! FORCE_FREE from its take to the end of its handling (R198). -/

namespace Sys2Proof.Proofs

open Sys2Proof Sys2Proof.Machine Sys2Proof.Safety

section
variable {s t u v : State} {p q : Port} {b c : BufNo} {l lc : Live} {x y : Waiting} {m : MaintState}
  {xs : List Waiting} {psb : List Byte}

/-! ### The end of the handling -/

/-- The maintenance response and the end of its handling reach no record, table, port or job. -/
theorem sameTables_responded : SameTables v (endHandling .maintenance { v with maint := m }) := by
  rw [endHandling_eq]; exact ⟨rfl, rfl, rfl, rfl, rfl⟩

theorem recAt_responded (c : BufNo) : recAt (endHandling .maintenance { v with maint := m }) c = recAt v c :=
  recAt_endHandling _ _ c

theorem portAt_responded (q : Port) : portAt (endHandling .maintenance { v with maint := m }) q = portAt v q :=
  portAt_endHandling _ _ q

theorem jobAt_responded (q : Port) : jobAt (endHandling .maintenance { v with maint := m }) q = jobAt v q := by
  rw [endHandling_eq]; rfl

theorem freed_frame (h : FreedNow b l s v) :
    endHandling .maintenance { v with maint := m } = { s with
      ports := (endHandling .maintenance { v with maint := m }).ports
      buffers := (endHandling .maintenance { v with maint := m }).buffers
      pageMap := (endHandling .maintenance { v with maint := m }).pageMap
      offers := (endHandling .maintenance { v with maint := m }).offers
      scrubQueue := (endHandling .maintenance { v with maint := m }).scrubQueue
      counts := (endHandling .maintenance { v with maint := m }).counts
      dir := (endHandling .maintenance { v with maint := m }).dir
      jobs := (endHandling .maintenance { v with maint := m }).jobs
      reports := s.reports.filter (fun x => !perGet l.marks x.port)
      maint := m
      tcLast := .maintenance
      tcGrant := (endHandling .maintenance { v with maint := m }).tcGrant } := by
  have hframe := h.frame
  rw [endHandling_eq, hframe]

theorem freed_bytes (h : FreedNow b l s v) : SameBytes s (endHandling .maintenance { v with maint := m }) := fun a => by
  rw [endHandling_mem, h.frame]

/-! ### What the statement's premises say of the copies -/

/-- With no revocation at the other records nothing is completed on the way. -/
theorem othersSettled_nil (h : ∀ c p l', c ≠ b → perGet l.marks p = true → copyNames s p c = true →
    liveAt s c = some l' → l'.pendingRev = none) : othersSettled s b l = [] := by
  refine List.eq_nil_iff_forall_not_mem.2 fun y hy => ?_
  obtain ⟨q, -, hq⟩ := List.mem_filterMap.1 hy
  obtain ⟨_, _, _, lc, rv, hheld, hbuf, hlive, hrev, hne, ⟨hmark, -⟩, -⟩ := settledWith_eq_some hq
  have hnone := h y.buf q lc hne hmark (hbuf ▸ copyNames_other hheld) hlive
  rw [hrev] at hnone
  cases hnone

theorem copiesFit_of_settled (h : ∀ c p l', c ≠ b → perGet l.marks p = true → copyNames s p c = true →
    liveAt s c = some l' → l'.pendingRev = none) : CopiesFit b l s := by
  have hnil := othersSettled_nil h
  refine ⟨fun q _ _ _ c lc hmark _ hname hc hlive hrev => absurd (h c q lc hc hmark hname hlive) hrev,
    fun c lc rv q hc hlive hrev hmark hname => ?_, fun y hy => ?_, fun xs y ys hxs => ?_⟩
  · rw [h c q lc hc hmark hname hlive] at hrev
    cases hrev
  · rw [hnil] at hy
    cases hy
  · rw [hnil] at hxs
    exact absurd hxs.symm (by simp)

theorem otherBuf_of_names {src dst : BufNo} {n : Nat} (hheld : copyHeld s q = some (src, dst, n))
    (hb : copyNames s q b = true) (hc : copyNames s q c = true) (hne : c ≠ b) : otherBuf b src dst = c := by
  simp only [copyNames, hheld, Bool.or_eq_true, decide_eq_true_eq] at hb hc
  unfold otherBuf
  by_cases hs : src = b
  · rw [if_pos hs]
    exact hc.resolve_left fun h => hne (h.symm.trans hs)
  · rw [if_neg hs]
    exact hc.resolve_right fun h => hne (h.symm.trans (hb.resolve_left hs))

theorem copiesFit_of_names (hnames : ∀ q, perGet l.marks q = true → copyNames s q b = true)
    (hwaits : ∀ c lc rv q, c ≠ b → liveAt s c = some lc → lc.pendingRev = some rv →
      perGet l.marks q = true → copyNames s q c = true → ∃ r, waitsFor lc rv r = true)
    (hfits : ∀ y ∈ othersSettled s b l, RevocationFits y ∧ OfferNames s y.buf y.live)
    (hnodup : (pagesEnded s (othersSettled s b l)).Nodup) : CopiesFit b l s := by
  refine ⟨fun q src dst n c lc hmark hheld hname hc _ _ => otherBuf_of_names hheld (hnames q hmark) hname hc,
    hwaits, hfits, fun xs y ys hxs hends => pages_apart (hnodup.sublist ?_) hends⟩
  have hsplit : othersSettled s b l = (xs ++ [y]) ++ ys := by rw [hxs]; simp
  rw [hsplit, pagesEnded, pagesEnded, List.flatMap_append (xs := xs ++ [y])]
  exact List.sublist_append_left _ _

/-! ### A record without marks and without an offer -/

theorem portsIn_of_empty {marks : PortSet} (h : isEmptySet marks = true) : portsIn marks = [] := by
  refine List.eq_nil_iff_forall_not_mem.2 fun q hq => ?_
  have hmark := (mem_portsIn marks q).1 hq
  rw [(isEmptySet_iff marks).1 h q] at hmark
  cases hmark

theorem forceFreeNow_plain (hmarks : isEmptySet l.marks = true) (hoffer : ∀ id, l.st ≠ .offered id)
    (hlive : liveAt s b = some l) :
    forceFreeNow b l s = retire b { l with pendingRev := none } .forceFree none s := by
  have hremove : removeOffer b l s = s := removeOffer_none fun id hst => absurd hst (hoffer id)
  have hcopies : endCopiesNow b l s = s := by rw [endCopiesNow, portsIn_of_empty hmarks]; rfl
  simp [forceFreeNow, hremove, hcopies, hlive]

end

/-- Settles O47. -/
theorem forceFreeRule : Obligations.ForceFreeRule := by
  unfold Obligations.ForceFreeRule
  refine ⟨fun s ps b l h hnum hlive hmarks hoffer => ?plain,
    fun s ps b l h hnum hlive hwhen hname hcopies => ?freed,
    fun s ps b l xs x h hnum hlive hhold hxs hx hnames hwaits hname hfits hnodup => ?settles,
    fun s ps b l h hnum hlive hmarks hhold => ?waits, fun s ps h hnum => ?refused⟩
  case plain =>
    have hnow := forceFreeNow_plain (s := s) (b := b) hmarks hoffer hlive
    have hcount : setCount l.marks = 0 := by rw [← length_portsIn, portsIn_of_empty hmarks]; rfl
    have hexec := exec_forceFree h hnum hlive (.inl hmarks)
    rw [hnow, hcount] at hexec
    obtain ⟨hrecord, hothers⟩ := recordRetired_retire b { l with pendingRev := none } .forceFree none s
    refine ⟨_, hexec, by rw [endHandling_eq]; rfl, fun a => by rw [endHandling_mem]; rfl,
      ⟨(recAt_responded b).trans hrecord, fun c hc => (recAt_responded c).trans (hothers c hc)⟩, ?_, fun q => ?_,
      fun q => ?_⟩
    · rw [endHandling_eq]
      exact pagesScrubbed_retire b { l with pendingRev := none } .forceFree none s
    · rw [endHandling_eq]
      exact countsAt_retire b { l with pendingRev := none } .forceFree none s q
    · exact (portAt_responded q).trans (portAt_retire_forced b { l with pendingRev := none } s q)
  case freed =>
    have hnil := othersSettled_nil hcopies
    have hfreed := freedNow hlive hname (copiesFit_of_settled hcopies) (by simp [hnil, pagesEnded])
    have hexec := exec_forceFree h hnum hlive hwhen
    generalize forceFreeNow b l s = v at hfreed hexec
    have hsettled := settled_of_sameTables ⟨rfl, rfl, rfl, rfl, rfl⟩
      (sameTables_responded (m := .ready .ok (handleBytes ⟨b, genAt s b⟩ ++
        [portByte l.owner, byteOf l.length, byteOf (setCount l.marks)]))) hfreed.settled
    rw [hnil, List.nil_append] at hsettled
    obtain ⟨hpages, hcounts, hdir⟩ := settled_one_ends (x := ⟨b, l, ⟨.forceFree, l.owner⟩⟩) rfl hsettled
    have hframe := freed_frame (m := .ready .ok (handleBytes ⟨b, genAt s b⟩ ++
        [portByte l.owner, byteOf l.length, byteOf (setCount l.marks)])) hfreed
    rw [hdir] at hframe
    refine ⟨_, hexec, hframe, freed_bytes hfreed, (recAt_responded b).trans hfreed.record, fun c hc => ?_, hpages,
      hcounts, fun id => ?_, fun q => (jobAt_responded q).trans (hfreed.jobs q), fun q => ?_⟩
    · exact (recAt_responded c).trans (hfreed.unsettled c hc (by simp [hnil]))
    · rw [hsettled.2.2.2 id]; simp
    · rw [portAt_responded, hfreed.ports, hnil]; rfl
  case settles =>
    subst hxs hx
    have hapart := pages_apart (x := ⟨b, l, ⟨.forceFree, l.owner⟩⟩) hnodup rfl
    have hothers : (pagesEnded s (othersSettled s b l)).Nodup := by
      rw [pagesEnded, List.flatMap_append] at hnodup
      exact hnodup.sublist (List.sublist_append_left _ _)
    have hfreed := freedNow hlive hname (copiesFit_of_names hnames hwaits hfits hothers) hapart
    have hexec := exec_forceFree h hnum hlive (.inr hhold)
    generalize forceFreeNow b l s = v at hfreed hexec
    refine ⟨_, hexec, freed_frame hfreed, freed_bytes hfreed,
      settled_of_sameTables ⟨rfl, rfl, rfl, rfl, rfl⟩ sameTables_responded hfreed.settled,
      (recAt_responded b).trans hfreed.record, fun y hy => (recAt_responded y.buf).trans (hfreed.settledRecs y hy),
      fun c hc hout => (recAt_responded c).trans (hfreed.unsettled c hc hout),
      fun q => (jobAt_responded q).trans (hfreed.jobs q), fun q => (portAt_responded q).trans (hfreed.ports q)⟩
  case waits =>
    have hanswer := forceFreeAnswer_waits hnum hlive hmarks hhold
    rw [forceFreeData_eq, awaitRetirement_forceFree] at hanswer
    have hexec := maintHandling_answered (f := fun ps => some (forceFreeAnswer ps s)) h (congrArg some hanswer)
    have hframe := stopJobs_eq (portsIn l.marks) (setLive b { l with pendingRev := some (forceFreeRevocation l) } s)
    have hjobs := jobsStopped_marks l.marks (setLive b { l with pendingRev := some (forceFreeRevocation l) } s)
    generalize stopJobs (portsIn l.marks)
      (setLive b { l with pendingRev := some (forceFreeRevocation l) } s) = v at hframe hjobs hexec
    refine ⟨_, hexec, ?_, fun a => ?_,
      recordBecomes_setLive (u := s) (fun c => (recAt_responded c).trans ?_) fun _ => rfl, ?_⟩
    · rw [endHandling_eq, hframe]; rfl
    · rw [endHandling_mem, hframe]; rfl
    · rw [hframe]; rfl
    · rw [endHandling_eq]; exact hjobs
  case refused =>
    refine maintHandling_reports (f := fun ps => some (forceFreeAnswer ps s)) h rfl ?_
    obtain hrange | ⟨b, hb, hvacant⟩ := hnum
    · have hnone : bufNoOf (numAt ps 0) = none := dif_neg (Nat.not_lt.2 hrange)
      simp [forceFreeAnswer, hnone, respond, hrange]
    · have hlt : ¬1024 ≤ numAt ps 0 := hb ▸ Nat.not_le.2 b.isLt
      simp [forceFreeAnswer, bufNoOf_eq_some.2 hb, hvacant, respond, hlt]

end Sys2Proof.Proofs
